-- ==== Sys2Proof/Word.lean ====
section
/-! DEFINITION. The word types of the CT128: bytes, 32-bit registers and 64-bit quantities (R7), little-endian. -/

namespace Sys2Proof

abbrev Byte := BitVec 8
abbrev Word := BitVec 32
abbrev Word64 := BitVec 64

end Sys2Proof
end

