-- ==== Sys2Proof/Syntax.lean ====
section
/-! DEFINITION. The commands of the CT128: one constructor of `Instr` for each row of spec/opcode_table.json, with the
operands the row's rule gives it. Every row is one indivisible step (95_what_each_step_holds.md). -/

namespace Sys2Proof

/-- A path that makes requests (R32, R36): management, host data path, or cue thread `th`. -/
inductive Path where
  | mgmt
  | host
  | cue (th : Fin 16)
  deriving DecidableEq, Repr

/-- Who writes a single control bit, and whether the write is posted (R223) or acknowledged. -/
structure Src where
  path : Path
  posted : Bool
  deriving DecidableEq, Repr

/-- One write request as it reaches its unit (R494): the path, the first byte address, the bytes in ascending address
order (a register word is four bytes, R7), and whether it is posted (R223). -/
structure Req where
  path : Path
  addr : Nat
  data : List Byte
  posted : Bool
  deriving DecidableEq, Repr

/-- One happening at the selected reference input (R60, R61): `at` is the house time of the edge at the ball, or of the
place where the expected edge lacked; `frame` says that the edge carries a frame mark, a Z preamble or the 1 ms or 1 s
mark; `bad` that its unit breaks the input's coding or pulse width; `absent` that there was no edge; `ppb` is the
frequency offset the front end measures and `steady` says that the loop's frequency error has stayed below 0.1 ppm (R65). -/
structure RefEdge where
  at' : Nat
  frame : Bool
  bad : Bool
  absent : Bool
  ppb : Int
  steady : Bool
  rate : Fin 3
  deriving DecidableEq, Repr

/-- A frame decoded from LTC_IN (R75): its 80 bits, frames per second (24, 25 or 30), whether it was read in reverse,
whether its speed lies within ±10 % of nominal, and the house time of the start of its bit 0. -/
structure LtcIn where
  word : BitVec 80
  rate : Nat
  reverse : Bool
  speedOk : Bool
  start : Nat
  deriving DecidableEq, Repr

/-- What the update control's reads of one block bring (R429): the bytes, a failure of the card interface with its cause of
Table 11.3, or a status word other than 90 00, with the number of exchanges that ended well before it and the data bytes that
came with it. -/
inductive CardRead where
  | bytes (b : List Byte)
  | failure (cause : Fin 11)
  | badStatus (before : Nat) (sw1 sw2 : Byte) (count : Nat)
  deriving DecidableEq, Repr

/-- One 4 KB block of a package part as STAGE reads it, and whether the programmed block reads back (R432). -/
structure BlockIn where
  read : CardRead
  readBack : Bool
  deriving DecidableEq, Repr

/-- The three receivers that take start bits (R358). -/
inductive Receiver where
  | uart0 | slow | card
  deriving DecidableEq, Repr

/-- The monitored supplies of Table 12.1. -/
inductive Supply where
  | vaon | vcore | vioA | vioB | vana | vref | vdacHi
  deriving DecidableEq, Repr

/-- The causes of a wake other than a known event (R395), with their PWR_LAST_WAKE codes in Table 12.12. -/
inductive WakeCause where
  | qcsN | twoWire | command | slowReceiver | trigger | fault | permission | debug
  deriving DecidableEq, Repr

/-- A wake event; `sameCycle`: it comes in the ECLK cycle in which the entry under way was decided (R396). -/
structure WakeEvent where
  cause : WakeCause
  sameCycle : Bool
  deriving DecidableEq, Repr

/-- A channel's pin has been at `level` for `samples` consecutive samples (R314). -/
structure PinSeen where
  level : Bool
  samples : Nat
  deriving DecidableEq, Repr

/-- A read transfer of `count` bytes; the flash words at `late` are not ready within 400 µs (R338). -/
structure ReadSpan where
  count : Nat
  late : List Nat
  deriving DecidableEq, Repr

/-- The commands: one constructor for each row of spec/opcode_table.json, in the table's order. -/
inductive Instr where
  -- system organisation (01)
  /-- Requests that reach their units in one ECLK cycle (R33 to R39). -/
  | registerWrite (reqs : List Req)
  | counterReadClear (p : Path) (addr : Nat)
  | sampleEdge
  | blockEdge
  | frameBoundary
  /-- `blk` is the base address of the block whose BLOCK_APPLY is written. -/
  | apply (src : Src) (blk : Nat)
  | discard (src : Src) (blk : Nat)
  | ledgerAdmission
  -- house time and reference (02)
  | htNowLoRead (p : Path)
  | alignmentEdge (e : RefEdge)
  | referenceLost
  | holdLapse
  | refRunStart (src : Src)
  | refRunStop (src : Src)
  | reAnchor
  | leapSecond
  | ltcInFrame (f : LtcIn)
  /-- `phase` is the ECLK phase of XI at which the edge crosses its threshold (R78); `falling` its direction. -/
  | ppsEdge (falling : Bool) (phase : Fin 10)
  | htSet (src : Src)
  | triggerEdge (pin : Fin 16) (falling : Bool) (phase : Fin 10)
  | htTsLoRead (p : Path)
  | gpInputSettle (pin : Fin 16) (level : Bool)
  -- swarm, allocation and strike (03, 04)
  | swmRunStart (src : Src)
  | swmRunStop (src : Src)
  | alcRunStart (src : Src)
  | alcRunStop (src : Src)
  | strikeEntryTake
  | strikeWindow
  | sentinelInject (src : Src)
  -- cue run control (05)
  | threadStart (src : Src) (th : Fin 16)
  | threadStop (src : Src) (th : Fin 16)
  | threadResume (src : Src) (th : Fin 16)
  | cueRunStop (src : Src)
  | threadSignal (src : Src) (th : Fin 16) (bits : BitVec 16)
  | cueRdataWrite (src : Src) (value : Word)
  -- cue instructions (05): thread `th` issues the instruction that stands at its PC (R179, R182)
  | ldi (th : Fin 16)
  | ld (th : Fin 16)
  /-- `rivals`: the requests of other paths that reach the memory in the same ECLK cycle (R248). -/
  | st (th : Fin 16) (rivals : List Req)
  | add (th : Fin 16)
  | sub (th : Fin 16)
  | mul (th : Fin 16)
  | and (th : Fin 16)
  | or (th : Fin 16)
  | xor (th : Fin 16)
  | shl (th : Fin 16)
  | shr (th : Fin 16)
  | cmp (th : Fin 16)
  | br (th : Fin 16)
  | brc (th : Fin 16)
  | call (th : Fin 16)
  | ret (th : Fin 16)
  | loop (th : Fin 16)
  | yield (th : Fin 16)
  | halt (th : Fin 16)
  | trap (th : Fin 16)
  | illegalOpcode (th : Fin 16)
  | at (th : Fin 16)
  | after (th : Fin 16)
  | tget (th : Fin 16)
  | tadd (th : Fin 16)
  | waittrig (th : Fin 16)
  | waitsig (th : Fin 16)
  | sig (th : Fin 16)
  | von (th : Fin 16)
  | voff (th : Fin 16)
  | vset (th : Fin 16)
  | vramp (th : Fin 16)
  | vkill (th : Fin 16)
  | valloc (th : Fin 16)
  | vfree (th : Fin 16)
  | modset (th : Fin 16)
  | busset (th : Fin 16)
  | tcuset (th : Fin 16) (rivals : List Req)
  | gpo (th : Fin 16) (rivals : List Req)
  | hostmsg (th : Fin 16)
  | waitRelease (th : Fin 16)
  | swarmAnswer (th : Fin 16)
  -- host command port (06): `ins` is the instruction byte (R207)
  /-- `count` bytes are clocked out from `addr`; `stalled`: memory arbitration delayed a word beyond its first data
  clock (R209); `collided`: the words that collided with an engine write (R215, R249). -/
  | rd (ins : Byte) (addr : Nat) (count : Nat) (stalled : Bool) (collided : List Nat)
  | wr (ins : Byte) (addr : Nat) (data : List Byte) (rivals : List Req)
  /-- `packet` holds every byte after the instruction byte; `phase` is the ECLK phase of the rise of QCS_N (R79). -/
  | cmd (ins : Byte) (packet : List Byte) (phase : Fin 10)
  /-- `count` response bytes are clocked out; `stalled`: QRDY fell before QCS_N rose. -/
  | rsp (ins : Byte) (count : Nat) (stalled : Bool)
  -- the input stream applies its front item, the accepted command of tag `tag` (R220)
  | nop (tag : Fin 16)
  | negotiate (tag : Fin 16)
  | wreg (tag : Fin 16) (rivals : List Req)
  | rreg (tag : Fin 16)
  | fence (tag : Fin 16)
  | cmdVon (tag : Fin 16)
  | cmdVoff (tag : Fin 16)
  | cmdVset (tag : Fin 16)
  | cmdVramp (tag : Fin 16)
  | cmdVkill (tag : Fin 16)
  | cmdValloc (tag : Fin 16)
  | cmdVfree (tag : Fin 16)
  | cmdModset (tag : Fin 16)
  | cmdBusset (tag : Fin 16)
  | cstart (tag : Fin 16)
  | cstop (tag : Fin 16)
  | cresume (tag : Fin 16)
  | csignal (tag : Fin 16)
  | trigger (tag : Fin 16)
  | flush (src : Src)
  -- memory and flash (07)
  | ceWriteBack (bank : Fin 13)
  | poisonWrite (bank : Fin 13)
  /-- A read by the master of code `master` (Table 7.4) of the word at `addr` met a write of that word (R249). -/
  | collisionRetry (master : Fin 8) (addr : Nat)
  | scrubRead
  | regionCheck (src : Src)
  | regionWipe (src : Src)
  | regionDone
  | memInj (src : Src) (value : Word)
  | arrayWipeDone
  | flashEraseStart (sector : Fin 1024)
  | eraseDone
  | eraseResume
  | pageProgramDone
  -- outputs (08)
  | dacClampRelease
  /-- The output-stage sensor reads `temp` sixteenths of a degree Celsius (DAC_TEMP). -/
  | otRise (temp : BitVec 16)
  | otClampRelease
  | vdacHiLoss
  | otRestart (src : Src)
  | ltcFrameStart
  | outSigBlkRead (p : Path) (port : Fin 7)
  | outSigInject (src : Src) (ports : BitVec 7)
  -- Timer/Counter Unit (09)
  | tcuArm (src : Src) (ch : Fin 8)
  | tcuStop (src : Src) (ch : Fin 8)
  | gctrlArm (src : Src) (chs : BitVec 8)
  | gctrlStop (src : Src) (chs : BitVec 8)
  | tcuSnap (src : Src) (ch : Fin 8)
  | forceHi (src : Src) (ch : Fin 8)
  | forceLo (src : Src) (ch : Fin 8)
  | forceTgl (src : Src) (ch : Fin 8)
  | tcuStart (ch : Fin 8)
  /-- The compare comes with the `events`-th event of the channel's source from now (R302). -/
  | tcuCompare (ch : Fin 8) (events : Nat)
  | tcuOverflow (ch : Fin 8) (events : Nat)
  | tcuCapture (ch : Fin 8) (seen : PinSeen)
  | tcuCntWrite (src : Src) (ch : Fin 8) (value : Word)
  | tcuTopWrite (src : Src) (ch : Fin 8) (value : Word)
  /-- `b` selects CMPB, otherwise CMPA. -/
  | tcuCmpWrite (src : Src) (ch : Fin 8) (b : Bool) (value : Word)
  /-- A write of START_HI with `value`. -/
  | tcuStartWrite (src : Src) (ch : Fin 8) (value : Word)
  | tcuCntRead (p : Path) (ch : Fin 8)
  -- two-wire target and controller (10)
  /-- `addr` is the 7-bit address on the bus. -/
  | twtAddressMatch (addr : BitVec 7)
  | stretchTimeout
  /-- The data bytes of a write transfer; `broken`: a START or STOP came in the middle of the byte after them (R350). -/
  | twtWriteTransfer (bytes : List Byte) (broken : Bool) (rivals : List Req)
  /-- `broken` as above. -/
  | twtReadTransfer (span : ReadSpan) (broken : Bool)
  | twtBusTimeout
  | mgmtNop
  | mgmtWake
  | mgmtMute
  | mgmtUnmute
  | mgmtReset
  | mgmtLifecycle
  | mgmtUpdate
  | mgmtCmdDone
  | ibaRequest
  | ibaAbort
  | twcGo (src : Src)
  /-- The bytes the addressed device sent, and the place of a refused byte: `some 0` the address, `some (k + 1)` data
  byte k (R348). -/
  | twcDone (rx : List Byte) (nack : Option Nat)
  | twcChainTimeout
  /-- `sclLow`: SCL stayed low (R348), otherwise a FIFO wait ran out (R345). -/
  | twcStuckTimeout (sclLow : Bool)
  | twcArbLost
  | twcRetry
  | twcDataWrite (src : Src) (value : Byte)
  | twcDataRead (p : Path)
  -- serial ports (11)
  /-- The three samples of each bit of the character, from its start bit to its first stop bit (R358): bit 1 is the
  sample at the centre. -/
  | ua0RxChar (bits : List (BitVec 3))
  | ua0DataRead (p : Path)
  | ua0DataWrite (src : Src) (value : BitVec 9)
  /-- `ctsLow` is the level of UA0_CTS_N seen before the start bit (R361). -/
  | ua0TxStart (ctsLow : Bool)
  | rxFlush (src : Src)
  | txFlush (src : Src)
  | ua0DmaTake
  | ua0DmaTimeout
  | ua0DmaDisable (src : Src)
  | ua0Disable (src : Src)
  | slowRxChar (bits : List (BitVec 3))
  | slowRxHandover
  /-- `det` is the level of CARD_DET as the write arrives. -/
  | cardAct (src : Src) (det : Bool)
  | cardClkStart
  | cardResetRelease
  | cardTsTimeout
  /-- The three samples of each of the ten bits, as levels of CARD_IO (1 is H). -/
  | cardRxChar (bits : List (BitVec 3))
  /-- `error`: the card signalled an error at 11 ETU (R375). -/
  | cardTxChar (error : Bool)
  | cardGo (src : Src)
  | cardWtTimeout
  | cardDeact (src : Src)
  | cardRemoved
  | ua1DataWrite (src : Src) (value : Byte)
  | ua1DataRead (p : Path)
  | ua1Disable (src : Src)
  -- power, reset, start-up and life cycle (12)
  | powerEntryDone
  | wakeScheduled
  | wakeRequest (event : WakeEvent)
  | wakeDone
  | floorArm (src : Src)
  | floorClr (src : Src)
  | floorReached
  | supplyMonitor (supply : Supply) (ok : Bool)
  /-- `taddr` is the level of the address pins and `vioB18` the VIO_B level detected at power-on (R326, R388). -/
  | powerOnReset (taddr : BitVec 2) (vioB18 : Bool)
  /-- RESET_N was low for `ns` nanoseconds. -/
  | resetPin (ns : Nat)
  | sysRstReq (src : Src) (kind : BitVec 2)
  | coreBrownout
  | hkpWatchdog
  | xiQualified
  | sxiQualified
  | pllLocked
  | journalRecovery
  | startTimeDecision
  | imageCopy
  | libraryCommit
  | lcWipe
  /-- `translated`: the entries the image makes of another image's record on trial (R443). -/
  | settingsApply (translated : List (Nat × Word))
  | startupReady
  | sysLcReq (src : Src) (target : BitVec 2) (confirm : Bool)
  | lcRequestLapse
  | lcTransition
  -- field update (13)
  | scan (read : CardRead)
  | stage (blocks : List BlockIn)
  | verify (signature : BlockIn)
  | activate
  | cancel
  /-- `entries`: the registers the image captures (R442). -/
  | save (entries : List (Nat × Word))
  | eject
  | updStepDone
  /-- `byHkp`: the running image confirms; otherwise the named path writes UPD_CONFIRM. `selfTest`: the image on trial has set
  SELFTEST_OK by now (R438). -/
  | updConfirm (byHkp : Bool) (src : Src) (token : Word) (selfTest : Bool)
  | confirmedMarkerDone
  | trialDeadline
  -- faults (14)
  | fltClear (src : Src) (classes : BitVec 10)
  | fltLogRead (p : Path)
  | fltPeerCfgWrite (src : Src) (port : BitVec 3)
  | peerCompare (src : Src) (sig : Word)
  | healthHalfBlock
  -- JTAG and debug (15)
  | extest
  /-- The bits shifted into the boundary register. -/
  | samplePreload (cells : List Bool)
  | idcode
  | clamp
  | highz
  | bypass
  | dbgHalt
  | dbgRelease
  | dbgReg (write : Bool) (data : Word64)
  | tapReset
  | dbgCtrlHalt (src : Src)
  | dbgCtrlRelease (src : Src)
  | dbgCtrlReset (src : Src)
  -- rows added at the table's end
  | falseStart (r : Receiver)
  | otFall (temp : BitVec 16)
  | atrTimeout
  deriving DecidableEq, Repr

end Sys2Proof
end

