-- ==== Sys2Proof/Decode.lean ====
section
/-! DEFINITION. The commands spelled by the opcode table's bits. No row of spec/opcode_table.json gives bits: every row is
an operation or an event of the block, so no word spells a command. -/

namespace Sys2Proof

/-- The command a word of the table's bits spells: none, since no row of the table gives bits. -/
def decodeTableWord (_nbits _w : Nat) : Option Instr := none

end Sys2Proof
end

