-- ==== Sys2Proof/Config.lean ====
section
/-! DEFINITION. What the manual leaves to the part or leaves open: constants without a body, so that no proof can see
their values (notes/assumptions 1 and 2). A function of a draw number is a free value: each use draws afresh. -/

namespace Sys2Proof.Config

/-- SYS_ID.REV, the silicon revision (Table 12.11 gives none). -/
opaque revision : Byte

/-- Whether the part is a CT128-I (SYS_ID.VARIANT, R3): both variants are alike in function. -/
opaque industrial : Bool

/-- The frequency steering of the HT_INCR that the loop writes (R54): the manual gives no transfer function. The model clamps it
under R55. -/
opaque loopIncrement : Nat → BitVec 40

/-- The slew's gain (R68: the offset is proportional to E; the manual gives no factor), in units of 2^-48 tk of increment per tk. -/
opaque slewGain : Nat

/-- A word of a read that collided with a write (R215, R249). -/
opaque collidedWord : Nat → Word

/-- Whether three or more flipped bits of a 72-bit word are detected (R238). -/
opaque detectsMany : Nat → BitVec 72 → Bool

/-- Whether three or more flipped bits that are not detected look like a corrected bit, and which (R238). -/
opaque looksCorrected : Nat → BitVec 72 → Option (Fin 72)

/-- The word a miscorrection of three or more flipped bits leaves (R238). -/
opaque miscorrected : Nat → BitVec 72 → Word64 → Word64

/-- Whether a RESET_N pulse from 100 ns to 1 µs is taken (R400). -/
opaque shortResetTaken : Nat → Bool

/-- A new trial token (R437). -/
opaque token : Nat → Word

/-- A value the manual does not state, drawn once (results at operands for which no rule gives one). -/
opaque unstated : Nat → Nat

/-- The 256-bit device class key (R431); it reads 0 in SCRAP (R413). -/
opaque deviceClassKey : BitVec 256

/-- The production and the development public key of the mask ROM (R426), as 32 bytes each. -/
opaque publicKey : (development : Bool) → List Byte

end Sys2Proof.Config
end

