-- ==== Sys2Proof/Machine/RegMap.lean ====
section
/-! DEFINITION. The register map: every register of the block index of R493 (1,017 registers, Table 15.15), each
with its fields, their access codes (R10, Table 0.3), their apply points (R41) and their reset values. The rows
transcribe the register tables of the chapters; a field the tables call Reserved is in no row, so it reads 0 and a
write to it is ignored (R9). -/

namespace Sys2Proof.Machine

/-- The apply point of a STAGED field (R41). -/
inductive ApplyPoint where
  | sample | block | frame | apply
  deriving DecidableEq, Repr

/-- The access codes of Table 0.3 (R10). -/
inductive Access where
  | rw | rws (p : ApplyPoint) | lk | ro | wo | w1c | w1s | rc
  deriving DecidableEq, Repr

/-- One field of a register row. -/
structure Field where
  lo : Nat
  w : Nat
  acc : Access
  reset : Nat
  deriving DecidableEq, Repr

/-- One row of a register table: `n1 * n2` registers at `addr + s1 * i + s2 * j`. -/
structure RegRow where
  addr : Nat
  s1 : Nat
  n1 : Nat
  s2 : Nat
  n2 : Nat
  fields : List Field
  deriving DecidableEq, Repr

/-- The place of a field: the byte address of its register, its lowest bit and its width (R8). -/
structure Fld where
  addr : Nat
  lo : Nat
  w : Nat
  deriving DecidableEq, Repr

/-- Whether address `a` is one of the registers of the row. -/
def RegRow.has (r : RegRow) (a : Nat) : Bool :=
  (List.range r.n1).any fun i => Nat.ble (r.addr + r.s1 * i) a &&
    (let d := a - (r.addr + r.s1 * i)
     Nat.beq (d % r.s2) 0 && Nat.blt (d / r.s2) r.n2)

/-- The registers of the SYS block (R418). -/
def rowsSys : List RegRow :=
  [⟨0x0000, 0x4, 1, 0x4, 1, [⟨0, 16, .ro, 0x128⟩, ⟨16, 8, .ro, 0⟩, ⟨24, 8, .ro, 0⟩]⟩,
   ⟨0x0004, 0x4, 1, 0x4, 1, [⟨0, 1, .ro, 0⟩, ⟨1, 1, .ro, 0⟩]⟩,
   ⟨0x0008, 0x4, 1, 0x4, 1, [⟨0, 1, .w1c, 1⟩, ⟨1, 1, .w1c, 0⟩, ⟨2, 1, .w1c, 0⟩, ⟨3, 1, .w1c, 0⟩, ⟨4, 1, .w1c, 0⟩, ⟨5, 1, .w1c, 0⟩, ⟨6, 1, .w1c, 0⟩, ⟨7, 1, .w1c, 0⟩]⟩,
   ⟨0x000C, 0x4, 1, 0x4, 1, [⟨0, 2, .wo, 0⟩]⟩,
   ⟨0x0010, 0x4, 1, 0x4, 1, [⟨0, 2, .ro, 0⟩, ⟨4, 2, .ro, 0⟩, ⟨8, 1, .ro, 0⟩]⟩,
   ⟨0x0014, 0x4, 1, 0x4, 1, [⟨0, 2, .wo, 0⟩, ⟨7, 1, .wo, 0⟩]⟩,
   ⟨0x0018, 0x4, 1, 0x4, 1, [⟨0, 16, .ro, 0⟩]⟩,
   ⟨0x0020, 0x4, 1, 0x4, 1, [⟨0, 32, .ro, 0⟩]⟩,
   ⟨0x0024, 0x4, 1, 0x4, 1, [⟨0, 32, .ro, 0⟩]⟩,
   ⟨0x0028, 0x4, 1, 0x4, 1, [⟨0, 14, .rw, 0⟩]⟩,
   ⟨0x002C, 0x4, 1, 0x4, 1, []⟩]

/-- The registers of the PWR block (R419). -/
def rowsPwr : List RegRow :=
  [⟨0x0400, 0x4, 1, 0x4, 1, [⟨0, 2, .rw, 2⟩, ⟨2, 1, .rw, 0⟩]⟩,
   ⟨0x0404, 0x4, 1, 0x4, 1, [⟨0, 1, .rw, 0⟩]⟩,
   ⟨0x0408, 0x4, 1, 0x4, 1, [⟨0, 16, .rw, 0x32⟩]⟩,
   ⟨0x040C, 0x4, 1, 0x4, 1, [⟨0, 2, .rw, 3⟩, ⟨8, 1, .w1s, 0⟩, ⟨9, 1, .w1s, 0⟩, ⟨16, 1, .ro, 0⟩, ⟨17, 1, .ro, 0⟩]⟩,
   ⟨0x0410, 0x4, 1, 0x4, 1, [⟨0, 32, .rw, 0⟩]⟩,
   ⟨0x0414, 0x4, 1, 0x4, 1, [⟨0, 32, .rw, 0⟩]⟩,
   ⟨0x0418, 0x4, 1, 0x4, 1, [⟨0, 2, .ro, 0⟩, ⟨2, 2, .ro, 0⟩, ⟨4, 1, .ro, 0⟩, ⟨5, 1, .ro, 0⟩, ⟨6, 1, .ro, 0⟩]⟩,
   ⟨0x041C, 0x4, 1, 0x4, 1, [⟨0, 18, .ro, 0⟩]⟩,
   ⟨0x0420, 0x4, 1, 0x4, 1, [⟨0, 32, .ro, 0⟩]⟩,
   ⟨0x0424, 0x4, 1, 0x4, 1, [⟨0, 32, .ro, 0⟩]⟩,
   ⟨0x0428, 0x4, 1, 0x4, 1, [⟨0, 3, .ro, 0⟩]⟩,
   ⟨0x042C, 0x4, 1, 0x4, 1, [⟨0, 1, .ro, 0⟩, ⟨1, 1, .ro, 0⟩, ⟨2, 1, .ro, 0⟩, ⟨3, 1, .ro, 0⟩, ⟨4, 1, .ro, 0⟩]⟩,
   ⟨0x0430, 0x4, 1, 0x4, 1, [⟨0, 4, .ro, 0⟩]⟩,
   ⟨0x0440, 0x4, 1, 0x4, 1, [⟨0, 32, .rc, 0⟩]⟩,
   ⟨0x0444, 0x4, 1, 0x4, 1, [⟨0, 32, .rc, 0⟩]⟩,
   ⟨0x0448, 0x4, 1, 0x4, 1, [⟨0, 32, .rc, 0⟩]⟩,
   ⟨0x044C, 0x4, 1, 0x4, 1, [⟨0, 32, .rc, 0⟩]⟩]

/-- The registers of the HT block (R87). -/
def rowsHt : List RegRow :=
  [⟨0x0800, 0x4, 1, 0x4, 1, [⟨0, 32, .ro, 0⟩]⟩,
   ⟨0x0804, 0x4, 1, 0x4, 1, [⟨0, 32, .ro, 0⟩]⟩,
   ⟨0x0808, 0x4, 1, 0x4, 1, [⟨0, 32, .ro, 0⟩]⟩,
   ⟨0x080C, 0x4, 1, 0x4, 1, [⟨0, 32, .ro, 0⟩]⟩,
   ⟨0x0810, 0x4, 1, 0x4, 1, [⟨0, 32, .ro, 0⟩]⟩,
   ⟨0x0814, 0x4, 1, 0x4, 1, [⟨0, 32, .ro, 0⟩]⟩,
   ⟨0x0818, 0x4, 1, 0x4, 1, [⟨0, 20, .ro, 1⟩, ⟨20, 1, .ro, 0⟩]⟩,
   ⟨0x081C, 0x4, 1, 0x4, 1, [⟨0, 24, .ro, 0⟩]⟩,
   ⟨0x0820, 0x4, 1, 0x4, 1, [⟨0, 3, .ro, 0⟩, ⟨7, 1, .ro, 0⟩, ⟨16, 16, .ro, 0⟩]⟩,
   ⟨0x0824, 0x4, 1, 0x4, 1, [⟨0, 32, .ro, 0⟩]⟩,
   ⟨0x0828, 0x4, 1, 0x4, 1, [⟨0, 8, .ro, 0x80⟩]⟩,
   ⟨0x0830, 0x4, 1, 0x4, 1, [⟨0, 32, .rw, 0⟩]⟩,
   ⟨0x0834, 0x4, 1, 0x4, 1, [⟨0, 32, .rw, 0⟩]⟩,
   ⟨0x0838, 0x4, 1, 0x4, 1, [⟨0, 1, .w1s, 0⟩]⟩,
   ⟨0x0840, 0x4, 1, 0x4, 1, [⟨0, 16, .rw, 0⟩]⟩,
   ⟨0x0844, 0x4, 1, 0x4, 1, [⟨0, 2, .rw, 0⟩, ⟨8, 1, .w1c, 0⟩]⟩,
   ⟨0x0848, 0x4, 1, 0x4, 1, [⟨0, 32, .rw, 0⟩]⟩,
   ⟨0x084C, 0x4, 1, 0x4, 1, [⟨0, 32, .rw, 0⟩]⟩,
   ⟨0x0860, 0x4, 1, 0x4, 1, [⟨0, 16, .rw, 0⟩]⟩,
   ⟨0x0864, 0x4, 1, 0x4, 1, [⟨0, 32, .rw, 0⟩]⟩]
  ++ [⟨0x0868, 0x4, 1, 0x4, 1, [⟨0, 16, .rw, 0⟩, ⟨16, 1, .rw, 1⟩]⟩,
   ⟨0x086C, 0x4, 1, 0x4, 1, [⟨0, 5, .ro, 0⟩, ⟨8, 5, .ro, 0⟩]⟩,
   ⟨0x0870, 0x4, 1, 0x4, 1, [⟨0, 32, .ro, 0⟩]⟩,
   ⟨0x0874, 0x4, 1, 0x4, 1, [⟨0, 32, .ro, 0⟩]⟩,
   ⟨0x0878, 0x4, 1, 0x4, 1, [⟨0, 16, .rc, 0⟩]⟩,
   ⟨0x087C, 0x4, 1, 0x4, 1, [⟨0, 5, .ro, 0⟩, ⟨5, 1, .ro, 0⟩, ⟨8, 1, .ro, 0⟩]⟩,
   ⟨0x0880, 0x4, 1, 0x4, 1, [⟨0, 16, .rw, 0⟩]⟩,
   ⟨0x0884, 0x4, 1, 0x4, 1, [⟨0, 16, .rw, 0⟩]⟩,
   ⟨0x0888, 0x4, 1, 0x4, 1, [⟨0, 16, .ro, 0⟩]⟩]

/-- The registers of the REF block (R88). -/
def rowsRef : List RegRow :=
  [⟨0x1000, 0x4, 1, 0x4, 1, [⟨0, 4, .lk, 0⟩, ⟨4, 1, .rw, 0⟩, ⟨5, 2, .lk, 0⟩, ⟨7, 1, .rw, 1⟩, ⟨8, 2, (.rws .block), 1⟩, ⟨10, 1, .lk, 0⟩]⟩,
   ⟨0x1004, 0x4, 1, 0x4, 1, [⟨0, 3, .ro, 0⟩, ⟨3, 1, .ro, 0⟩, ⟨4, 1, .ro, 0⟩, ⟨5, 1, .ro, 0⟩, ⟨6, 1, .ro, 0⟩, ⟨7, 1, .ro, 0⟩, ⟨8, 2, .ro, 0⟩, ⟨10, 1, .ro, 0⟩, ⟨11, 1, .ro, 0⟩]⟩,
   ⟨0x1008, 0x4, 1, 0x4, 1, [⟨0, 32, .ro, 0⟩]⟩,
   ⟨0x100C, 0x4, 1, 0x4, 1, [⟨0, 32, .ro, 0⟩]⟩,
   ⟨0x1010, 0x4, 1, 0x4, 1, [⟨0, 32, .ro, 0⟩]⟩,
   ⟨0x1014, 0x4, 1, 0x4, 1, [⟨0, 32, .ro, 0⟩]⟩,
   ⟨0x1018, 0x4, 1, 0x4, 1, [⟨0, 32, (.rws .block), 0⟩]⟩,
   ⟨0x101C, 0x4, 1, 0x4, 1, [⟨0, 32, (.rws .block), 0⟩]⟩,
   ⟨0x1020, 0x4, 1, 0x4, 1, [⟨0, 16, .rw, 0xc4a⟩]⟩,
   ⟨0x1024, 0x4, 1, 0x4, 1, [⟨0, 8, .rw, 4⟩, ⟨16, 8, .rw, 0x19⟩, ⟨24, 4, .rw, 3⟩]⟩,
   ⟨0x1028, 0x4, 1, 0x4, 1, [⟨0, 16, .rw, 0x32⟩]⟩,
   ⟨0x1030, 0x4, 1, 0x4, 1, [⟨0, 8, .ro, 0⟩]⟩,
   ⟨0x1034, 0x4, 1, 0x4, 1, [⟨0, 32, .rw, 0⟩]⟩,
   ⟨0x1038, 0x4, 1, 0x4, 1, [⟨0, 8, .ro, 0⟩, ⟨8, 8, .ro, 0⟩, ⟨16, 8, .ro, 0⟩, ⟨24, 8, .ro, 0⟩]⟩,
   ⟨0x103C, 0x4, 1, 0x4, 1, [⟨0, 1, .ro, 0⟩, ⟨1, 1, .ro, 0⟩, ⟨2, 1, .ro, 0⟩, ⟨3, 1, .ro, 0⟩, ⟨4, 2, .ro, 0⟩]⟩,
   ⟨0x1040, 0x4, 1, 0x4, 1, [⟨0, 32, .ro, 0⟩]⟩,
   ⟨0x1050, 0x4, 1, 0x4, 1, [⟨0, 32, .rc, 0⟩]⟩,
   ⟨0x1054, 0x4, 1, 0x4, 1, [⟨0, 32, .rc, 0⟩]⟩,
   ⟨0x1058, 0x4, 1, 0x4, 1, [⟨0, 32, .rc, 0⟩]⟩,
   ⟨0x105C, 0x4, 1, 0x4, 1, [⟨0, 32, .rc, 0⟩]⟩]
  ++ [⟨0x1060, 0x4, 1, 0x4, 1, [⟨0, 32, .rc, 0⟩]⟩]

/-- The registers of the SWM block (R138, R174). -/
def rowsSwm : List RegRow :=
  [⟨0x1800, 0x4, 1, 0x4, 1, [⟨0, 1, .rw, 0⟩, ⟨1, 1, .lk, 0⟩]⟩,
   ⟨0x1804, 0x4, 1, 0x4, 1, [⟨0, 1, .ro, 0⟩, ⟨8, 8, .ro, 0⟩, ⟨16, 5, .ro, 0⟩]⟩,
   ⟨0x1810, 0x4, 1, 0x4, 4, [⟨0, 32, .ro, 0⟩]⟩,
   ⟨0x1820, 0x4, 1, 0x10, 4, [⟨0, 3, .rw, 0⟩, ⟨3, 1, .rw, 0⟩, ⟨4, 1, .rw, 0⟩, ⟨16, 16, .rw, 0⟩]⟩,
   ⟨0x1824, 0x4, 1, 0x10, 4, [⟨0, 32, .rw, 0⟩]⟩,
   ⟨0x1828, 0x4, 1, 0x10, 4, [⟨0, 16, .rw, 0⟩, ⟨16, 16, .rw, 0⟩]⟩,
   ⟨0x182C, 0x4, 1, 0x10, 4, [⟨0, 32, .ro, 0⟩]⟩,
   ⟨0x1860, 0x4, 1, 0x4, 4, [⟨0, 24, .rw, 0⟩]⟩,
   ⟨0x1880, 0x4, 1, 0x4, 1, [⟨0, 32, .rc, 0⟩]⟩,
   ⟨0x1884, 0x4, 1, 0x4, 1, [⟨0, 32, .rc, 0⟩]⟩,
   ⟨0x1888, 0x4, 1, 0x4, 1, [⟨0, 32, .rc, 0⟩]⟩,
   ⟨0x188C, 0x4, 1, 0x4, 1, [⟨0, 32, .rc, 0⟩]⟩,
   ⟨0x1890, 0x4, 1, 0x4, 1, [⟨0, 32, .rc, 0⟩]⟩,
   ⟨0x1900, 0x4, 1, 0x4, 1, [⟨0, 16, .ro, 0⟩]⟩,
   ⟨0x1910, 0x4, 1, 0x4, 1, [⟨0, 1, (.rws .block), 0⟩, ⟨1, 1, .w1s, 0⟩]⟩,
   ⟨0x1914, 0x4, 1, 0x4, 1, [⟨0, 7, .ro, 0⟩, ⟨8, 1, .ro, 0⟩, ⟨9, 1, .ro, 0⟩, ⟨10, 1, .ro, 0⟩]⟩,
   ⟨0x1918, 0x4, 1, 0x4, 1, [⟨0, 32, .ro, 0⟩]⟩,
   ⟨0x191C, 0x4, 1, 0x4, 1, [⟨0, 32, .ro, 0⟩]⟩,
   ⟨0x1920, 0x4, 1, 0x4, 1, [⟨0, 32, .ro, 0⟩]⟩,
   ⟨0x1924, 0x4, 1, 0x4, 1, [⟨0, 32, .ro, 0⟩]⟩]
  ++ [⟨0x1928, 0x4, 1, 0x4, 1, [⟨0, 7, .ro, 0⟩]⟩,
   ⟨0x192C, 0x4, 1, 0x4, 1, [⟨0, 32, .ro, 0⟩]⟩,
   ⟨0x1930, 0x4, 1, 0x4, 1, [⟨0, 32, .ro, 0⟩]⟩,
   ⟨0x1940, 0x4, 1, 0x4, 1, [⟨0, 32, .rc, 0⟩]⟩,
   ⟨0x1944, 0x4, 1, 0x4, 1, [⟨0, 32, .rc, 0⟩]⟩,
   ⟨0x1948, 0x4, 1, 0x4, 1, [⟨0, 32, .rc, 0⟩]⟩]

/-- The registers of the ALC block (R173). -/
def rowsAlc : List RegRow :=
  [⟨0x2000, 0x4, 1, 0x4, 1, [⟨0, 1, .rw, 0⟩]⟩,
   ⟨0x2004, 0x4, 1, 0x4, 1, [⟨0, 1, .ro, 0⟩, ⟨1, 1, .ro, 0⟩]⟩,
   ⟨0x2008, 0x4, 1, 0x4, 1, [⟨0, 11, .ro, 0⟩, ⟨16, 11, .ro, 0⟩]⟩,
   ⟨0x200C, 0x4, 1, 0x4, 1, [⟨0, 11, .ro, 0x4a0⟩]⟩,
   ⟨0x2010, 0x4, 1, 0x4, 1, [⟨0, 11, .ro, 0⟩, ⟨16, 11, .ro, 0⟩]⟩,
   ⟨0x2020, 0x4, 1, 0x4, 1, [⟨0, 32, .rc, 0⟩]⟩,
   ⟨0x2024, 0x4, 1, 0x4, 1, [⟨0, 32, .rc, 0⟩]⟩,
   ⟨0x2028, 0x4, 1, 0x4, 1, [⟨0, 32, .rc, 0⟩]⟩,
   ⟨0x202C, 0x4, 1, 0x4, 1, [⟨0, 32, .rc, 0⟩]⟩,
   ⟨0x2030, 0x4, 1, 0x4, 1, [⟨0, 32, .rc, 0⟩]⟩,
   ⟨0x2034, 0x4, 1, 0x4, 1, [⟨0, 32, .rc, 0⟩]⟩,
   ⟨0x2038, 0x4, 1, 0x4, 1, [⟨0, 32, .rc, 0⟩]⟩,
   ⟨0x203C, 0x4, 1, 0x4, 1, [⟨0, 32, .rc, 0⟩]⟩,
   ⟨0x2040, 0x4, 1, 0x4, 1, [⟨0, 32, .rc, 0⟩]⟩,
   ⟨0x2060, 0x4, 1, 0x4, 1, [⟨0, 1, .lk, 0⟩, ⟨8, 5, .lk, 0⟩]⟩,
   ⟨0x2064, 0x4, 1, 0x4, 1, [⟨0, 32, .rw, 0⟩]⟩,
   ⟨0x2068, 0x4, 1, 0x4, 1, [⟨0, 32, .rw, 0⟩]⟩,
   ⟨0x206C, 0x4, 1, 0x4, 1, [⟨0, 4, .rw, 0⟩]⟩,
   ⟨0x2070, 0x4, 1, 0x4, 1, [⟨0, 32, .ro, 0⟩]⟩,
   ⟨0x2074, 0x4, 1, 0x4, 1, [⟨0, 32, .ro, 0⟩]⟩]
  ++ [⟨0x2078, 0x4, 1, 0x4, 1, [⟨0, 5, .ro, 0⟩, ⟨8, 3, .ro, 0⟩]⟩,
   ⟨0x2080, 0x4, 1, 0x4, 1, [⟨0, 32, .rc, 0⟩]⟩,
   ⟨0x2084, 0x4, 1, 0x4, 1, [⟨0, 32, .rc, 0⟩]⟩,
   ⟨0x2088, 0x4, 1, 0x4, 1, [⟨0, 32, .rc, 0⟩]⟩,
   ⟨0x208C, 0x4, 1, 0x4, 1, [⟨0, 32, .rc, 0⟩]⟩,
   ⟨0x2090, 0x4, 1, 0x4, 1, [⟨0, 32, .rc, 0⟩]⟩,
   ⟨0x2094, 0x4, 1, 0x4, 1, [⟨0, 32, .rc, 0⟩]⟩,
   ⟨0x2100, 0x4, 1, 0x8, 32, [⟨0, 3, (.rws .block), 0⟩, ⟨4, 2, (.rws .block), 0⟩, ⟨8, 4, .rw, 4⟩, ⟨16, 5, .lk, 9⟩]⟩,
   ⟨0x2104, 0x4, 1, 0x4, 1, [⟨0, 7, .lk, 0⟩, ⟨8, 7, .lk, 0x7f⟩, ⟨15, 1, .lk, 1⟩]⟩,
   ⟨0x210C, 0x4, 1, 0x8, 31, [⟨0, 7, .lk, 0⟩, ⟨8, 7, .lk, 0⟩, ⟨15, 1, .lk, 0⟩]⟩]

/-- The registers of the CUE block (R205). -/
def rowsCue : List RegRow :=
  [⟨0x2800, 0x4, 1, 0x4, 1, [⟨0, 1, .rw, 0⟩]⟩,
   ⟨0x2804, 0x4, 1, 0x4, 1, [⟨0, 16, .ro, 0⟩, ⟨16, 16, .ro, 0⟩]⟩,
   ⟨0x2808, 0x4, 1, 0x4, 1, [⟨0, 16, .ro, 0⟩]⟩,
   ⟨0x2810, 0x4, 1, 0x4, 1, [⟨0, 4, .rw, 0⟩, ⟨4, 5, .rw, 0⟩]⟩,
   ⟨0x2814, 0x4, 1, 0x4, 1, [⟨0, 32, .rw, 0⟩]⟩,
   ⟨0x2820, 0x4, 1, 0x4, 1, [⟨0, 32, .rc, 0⟩]⟩,
   ⟨0x2824, 0x4, 1, 0x4, 1, [⟨0, 32, .rc, 0⟩]⟩,
   ⟨0x2828, 0x4, 1, 0x4, 1, [⟨0, 32, .rc, 0⟩]⟩,
   ⟨0x282C, 0x4, 1, 0x4, 1, [⟨0, 32, .rc, 0⟩]⟩,
   ⟨0x2900, 0x4, 1, 0x20, 16, [⟨0, 1, .w1s, 0⟩, ⟨1, 1, .w1s, 0⟩, ⟨2, 1, .w1s, 0⟩]⟩,
   ⟨0x2904, 0x4, 1, 0x20, 16, [⟨0, 1, .lk, 0⟩, ⟨1, 1, .lk, 0⟩, ⟨16, 12, .lk, 0x60⟩]⟩,
   ⟨0x2908, 0x4, 1, 0x20, 16, [⟨2, 16, .lk, 0⟩]⟩,
   ⟨0x290C, 0x4, 1, 0x20, 16, [⟨0, 3, .ro, 0⟩, ⟨3, 1, .ro, 0⟩, ⟨4, 4, .ro, 0⟩, ⟨8, 4, .ro, 0⟩, ⟨16, 4, .ro, 0⟩, ⟨24, 8, .ro, 0⟩]⟩,
   ⟨0x2910, 0x4, 1, 0x20, 16, [⟨0, 18, .ro, 0⟩]⟩,
   ⟨0x2914, 0x4, 1, 0x20, 16, [⟨0, 8, .ro, 0⟩, ⟨16, 16, .ro, 0⟩]⟩,
   ⟨0x2918, 0x4, 1, 0x20, 16, [⟨0, 16, .w1s, 0⟩]⟩,
   ⟨0x291C, 0x4, 1, 0x20, 16, [⟨0, 17, .ro, 0⟩, ⟨17, 1, .ro, 0⟩]⟩]

/-- The registers of the HCP block (R236). -/
def rowsHcp : List RegRow :=
  [⟨0x3000, 0x4, 1, 0x4, 1, [⟨0, 1, .w1s, 0⟩]⟩,
   ⟨0x3004, 0x4, 1, 0x4, 1, [⟨0, 5, .rw, 8⟩]⟩,
   ⟨0x3008, 0x4, 1, 0x4, 1, [⟨0, 5, .ro, 0⟩, ⟨8, 6, .ro, 0⟩, ⟨16, 5, .ro, 0⟩, ⟨24, 1, .ro, 0⟩, ⟨25, 1, .ro, 0⟩, ⟨26, 1, .ro, 0⟩]⟩,
   ⟨0x300C, 0x4, 1, 0x4, 1, [⟨0, 16, .ro, 0⟩, ⟨16, 16, .ro, 0⟩]⟩,
   ⟨0x3010, 0x4, 1, 0x4, 1, [⟨0, 1, .ro, 0⟩, ⟨1, 5, .w1c, 0⟩, ⟨6, 1, .ro, 0⟩, ⟨7, 1, .w1c, 1⟩, ⟨8, 1, .ro, 0⟩]⟩,
   ⟨0x3014, 0x4, 1, 0x4, 1, [⟨0, 9, .rw, 0x1ff⟩]⟩,
   ⟨0x3018, 0x4, 1, 0x4, 1, [⟨0, 8, .rc, 0⟩, ⟨8, 8, .rc, 0⟩, ⟨16, 5, .rc, 0⟩, ⟨31, 1, .rc, 0⟩]⟩,
   ⟨0x301C, 0x4, 1, 0x4, 1, [⟨0, 32, .ro, 0⟩]⟩,
   ⟨0x3020, 0x4, 1, 0x4, 1, [⟨0, 8, .rc, 0⟩, ⟨8, 8, .rc, 0⟩, ⟨16, 5, .rc, 0⟩, ⟨21, 1, .rc, 0⟩, ⟨31, 1, .rc, 0⟩]⟩,
   ⟨0x3030, 0x4, 1, 0x4, 1, [⟨0, 32, .rc, 0⟩]⟩,
   ⟨0x3034, 0x4, 1, 0x4, 1, [⟨0, 32, .rc, 0⟩]⟩,
   ⟨0x3038, 0x4, 1, 0x4, 1, [⟨0, 32, .rc, 0⟩]⟩,
   ⟨0x303C, 0x4, 1, 0x4, 1, [⟨0, 32, .rc, 0⟩]⟩,
   ⟨0x3040, 0x4, 1, 0x4, 1, [⟨0, 32, .rc, 0⟩]⟩,
   ⟨0x3044, 0x4, 1, 0x4, 1, [⟨0, 32, .rc, 0⟩]⟩,
   ⟨0x3048, 0x4, 1, 0x4, 1, [⟨0, 32, .rc, 0⟩]⟩,
   ⟨0x304C, 0x4, 1, 0x4, 1, [⟨0, 32, .rc, 0⟩]⟩,
   ⟨0x3050, 0x4, 1, 0x4, 1, [⟨0, 32, .rc, 0⟩]⟩]

/-- The registers of the MEM block (R267). -/
def rowsMem : List RegRow :=
  [⟨0x3400, 0x4, 1, 0x4, 1, [⟨0, 1, .rw, 1⟩, ⟨1, 1, .rw, 1⟩]⟩,
   ⟨0x3404, 0x4, 1, 0x4, 1, [⟨0, 8, .rw, 0x40⟩]⟩,
   ⟨0x3408, 0x4, 1, 0x4, 1, [⟨0, 1, .ro, 0⟩, ⟨8, 1, .w1c, 0⟩, ⟨9, 1, .w1c, 0⟩, ⟨10, 1, .w1c, 0⟩, ⟨11, 1, .w1c, 0⟩, ⟨12, 1, .w1c, 0⟩, ⟨13, 1, .w1c, 0⟩]⟩,
   ⟨0x340C, 0x4, 1, 0x4, 1, [⟨0, 12, .rw, 0xfff⟩]⟩,
   ⟨0x3410, 0x4, 1, 0x4, 1, [⟨0, 32, .ro, 0⟩]⟩,
   ⟨0x3414, 0x4, 1, 0x4, 1, [⟨0, 3, .rc, 0⟩, ⟨4, 3, .rc, 0⟩, ⟨8, 2, .rc, 0⟩, ⟨10, 7, .rc, 0⟩, ⟨31, 1, .rc, 0⟩]⟩,
   ⟨0x3418, 0x4, 1, 0x4, 1, [⟨0, 1, .w1s, 0⟩, ⟨1, 1, .rw, 0⟩, ⟨2, 1, .rw, 0⟩, ⟨3, 7, .rw, 0⟩, ⟨10, 2, .rw, 0⟩, ⟨16, 4, .rw, 0⟩]⟩,
   ⟨0x3420, 0x4, 1, 0x4, 1, [⟨0, 32, .rw, 0⟩]⟩,
   ⟨0x3424, 0x4, 1, 0x4, 1, [⟨0, 16, .rw, 0⟩]⟩,
   ⟨0x3428, 0x4, 1, 0x4, 1, [⟨0, 1, .w1s, 0⟩, ⟨1, 1, .rw, 0⟩, ⟨2, 1, .rw, 0⟩]⟩,
   ⟨0x342C, 0x4, 1, 0x4, 1, [⟨0, 1, .ro, 0⟩, ⟨1, 1, .w1c, 0⟩, ⟨8, 8, .ro, 0⟩]⟩,
   ⟨0x3430, 0x4, 1, 0x4, 1, [⟨0, 32, .ro, 0⟩]⟩,
   ⟨0x3434, 0x4, 1, 0x4, 1, [⟨0, 32, .ro, 0⟩]⟩,
   ⟨0x3440, 0x4, 1, 0x4, 1, [⟨0, 32, .rc, 0⟩]⟩,
   ⟨0x3444, 0x4, 1, 0x4, 1, [⟨0, 32, .rc, 0⟩]⟩,
   ⟨0x3448, 0x4, 1, 0x4, 1, [⟨0, 32, .rc, 0⟩]⟩,
   ⟨0x344C, 0x4, 1, 0x4, 1, [⟨0, 32, .rc, 0⟩]⟩,
   ⟨0x3450, 0x4, 1, 0x4, 1, [⟨0, 32, .rc, 0⟩]⟩,
   ⟨0x3454, 0x4, 1, 0x4, 1, [⟨0, 32, .rc, 0⟩]⟩,
   ⟨0x3458, 0x4, 1, 0x4, 1, [⟨0, 32, .rc, 0⟩]⟩]
  ++ [⟨0x3460, 0x4, 1, 0x4, 1, [⟨0, 32, .rc, 0⟩]⟩,
   ⟨0x3464, 0x4, 1, 0x4, 1, [⟨0, 32, .rc, 0⟩]⟩,
   ⟨0x3468, 0x4, 1, 0x4, 1, [⟨0, 32, .rc, 0⟩]⟩,
   ⟨0x346C, 0x4, 1, 0x4, 1, [⟨0, 32, .rc, 0⟩]⟩,
   ⟨0x3470, 0x4, 1, 0x4, 1, [⟨0, 32, .rc, 0⟩]⟩,
   ⟨0x3474, 0x4, 1, 0x4, 1, [⟨0, 32, .rc, 0⟩]⟩,
   ⟨0x3480, 0x4, 1, 0x4, 13, [⟨0, 3, .ro, 0⟩, ⟨8, 1, .ro, 0⟩]⟩,
   ⟨0x3500, 0x4, 1, 0x4, 1, [⟨0, 1, .ro, 0⟩, ⟨1, 1, .ro, 0⟩, ⟨2, 1, .ro, 0⟩, ⟨3, 1, .ro, 0⟩, ⟨4, 1, .ro, 0⟩, ⟨16, 10, .ro, 0⟩]⟩,
   ⟨0x3504, 0x4, 1, 0x4, 1, [⟨0, 32, .ro, 0⟩]⟩,
   ⟨0x3508, 0x4, 1, 0x4, 1, [⟨0, 32, .ro, 0⟩]⟩,
   ⟨0x350C, 0x4, 1, 0x4, 1, [⟨0, 1, .ro, 0⟩, ⟨8, 8, .ro, 0⟩]⟩,
   ⟨0x3510, 0x4, 1, 0x4, 1, [⟨0, 32, .ro, 0⟩]⟩,
   ⟨0x3520, 0x4, 1, 0x4, 1, [⟨0, 32, .rc, 0⟩]⟩,
   ⟨0x3524, 0x4, 1, 0x4, 1, [⟨0, 32, .rc, 0⟩]⟩,
   ⟨0x3528, 0x4, 1, 0x4, 1, [⟨0, 32, .rc, 0⟩]⟩,
   ⟨0x352C, 0x4, 1, 0x4, 1, [⟨0, 32, .rc, 0⟩]⟩]

/-- The registers of the OUT block (R297). -/
def rowsOut : List RegRow :=
  [⟨0x3800, 0x4, 1, 0x4, 1, [⟨0, 7, .rw, 0⟩]⟩,
   ⟨0x3804, 0x4, 1, 0x4, 1, [⟨0, 7, .ro, 0⟩]⟩,
   ⟨0x3808, 0x4, 1, 0x4, 1, [⟨0, 1, .rw, 1⟩, ⟨1, 1, .ro, 0⟩, ⟨8, 7, .rw, 0⟩]⟩,
   ⟨0x380C, 0x4, 1, 0x4, 1, [⟨0, 7, .ro, 0⟩, ⟨8, 7, .ro, 0⟩]⟩,
   ⟨0x3810, 0x4, 1, 0x4, 7, [⟨0, 5, .lk, 4⟩]⟩,
   ⟨0x3840, 0x4, 1, 0x4, 1, [⟨0, 1, (.rws .block), 0⟩, ⟨8, 7, .w1s, 0⟩]⟩,
   ⟨0x3844, 0x4, 1, 0x4, 1, [⟨0, 7, .ro, 0⟩]⟩,
   ⟨0x3848, 0x4, 1, 0x4, 1, [⟨0, 32, .rc, 0⟩]⟩,
   ⟨0x3850, 0x4, 1, 0x8, 7, [⟨0, 32, .ro, 0⟩]⟩,
   ⟨0x3854, 0x4, 1, 0x8, 7, [⟨0, 32, .ro, 0⟩]⟩,
   ⟨0x3900, 0x4, 1, 0x4, 33, [⟨0, 5, (.rws .apply), 0x10⟩, ⟨5, 1, (.rws .apply), 0⟩, ⟨16, 16, (.rws .apply), 0x8000⟩]⟩,
   ⟨0x3A00, 0x4, 1, 0x4, 1, [⟨0, 1, .lk, 0⟩, ⟨1, 1, .lk, 1⟩, ⟨2, 1, .lk, 0⟩]⟩,
   ⟨0x3A10, 0x4, 1, 0x4, 1, [⟨0, 1, (.rws .block), 0⟩, ⟨1, 3, .lk, 1⟩, ⟨4, 1, .lk, 0⟩, ⟨8, 3, (.rws .block), 0⟩]⟩,
   ⟨0x3A14, 0x4, 1, 0x4, 1, [⟨0, 32, (.rws .block), 0⟩]⟩,
   ⟨0x3A18, 0x4, 1, 0x4, 1, [⟨0, 32, (.rws .block), 0⟩]⟩,
   ⟨0x3A1C, 0x4, 1, 0x4, 1, [⟨0, 32, .ro, 0⟩]⟩,
   ⟨0x3A20, 0x4, 1, 0x4, 1, [⟨0, 32, .ro, 0⟩]⟩,
   ⟨0x3A24, 0x4, 1, 0x4, 1, [⟨0, 32, .ro, 0⟩]⟩]

/-- The registers of the DAC block (R298). -/
def rowsDac : List RegRow :=
  [⟨0x4000, 0x4, 1, 0x4, 1, [⟨0, 1, .lk, 0⟩, ⟨1, 1, .lk, 0⟩, ⟨2, 1, .lk, 0⟩, ⟨3, 1, .rw, 1⟩]⟩,
   ⟨0x4004, 0x4, 1, 0x4, 1, [⟨0, 8, (.rws .sample), 0⟩]⟩,
   ⟨0x4008, 0x4, 1, 0x4, 1, [⟨0, 8, .ro, 0⟩, ⟨8, 8, .ro, 0⟩, ⟨16, 8, .ro, 0⟩]⟩,
   ⟨0x400C, 0x4, 1, 0x4, 1, [⟨0, 23, .rw, 0x100000⟩]⟩,
   ⟨0x4010, 0x4, 1, 0x4, 1, [⟨0, 1, .w1s, 0⟩]⟩,
   ⟨0x4014, 0x4, 1, 0x4, 1, [⟨0, 1, .ro, 1⟩, ⟨1, 1, .ro, 0⟩, ⟨2, 1, .ro, 0⟩, ⟨3, 1, .ro, 0⟩, ⟨4, 1, .w1c, 0⟩]⟩,
   ⟨0x4018, 0x4, 1, 0x4, 1, [⟨0, 16, .ro, 0⟩]⟩,
   ⟨0x401C, 0x4, 1, 0x4, 1, [⟨0, 8, .rw, 0x91⟩]⟩,
   ⟨0x4020, 0x4, 1, 0x4, 1, [⟨0, 32, .rc, 0⟩]⟩,
   ⟨0x4024, 0x4, 1, 0x4, 1, [⟨0, 32, .rc, 0⟩]⟩,
   ⟨0x4028, 0x4, 1, 0x4, 1, [⟨0, 32, .rc, 0⟩]⟩]

/-- The registers of the AES block (R299). -/
def rowsAes : List RegRow :=
  [⟨0x4400, 0x4, 1, 0x4, 1, [⟨0, 1, .rw, 1⟩]⟩,
   ⟨0x4404, 0x4, 1, 0x4, 1, [⟨0, 32, .rc, 0⟩]⟩,
   ⟨0x4440, 0x4, 1, 0x40, 4, [⟨2, 21, (.rws .apply), 0⟩]⟩,
   ⟨0x4444, 0x4, 1, 0x40, 4, [⟨16, 16, (.rws .apply), 0⟩]⟩,
   ⟨0x4448, 0x40, 4, 0x4, 4, [⟨0, 32, (.rws .apply), 0⟩]⟩,
   ⟨0x4458, 0x4, 1, 0x40, 4, [⟨0, 24, (.rws .apply), 0⟩]⟩,
   ⟨0x4460, 0x40, 4, 0x4, 6, [⟨0, 32, .ro, 0⟩]⟩]

/-- The registers of the TCU block (R325). -/
def rowsTcu : List RegRow :=
  [⟨0x4800, 0x4, 1, 0x40, 8, [⟨0, 1, .w1s, 0⟩, ⟨1, 1, .w1s, 0⟩, ⟨2, 1, .w1s, 0⟩, ⟨3, 1, .w1s, 0⟩, ⟨4, 1, .w1s, 0⟩, ⟨5, 1, .w1s, 0⟩]⟩,
   ⟨0x4804, 0x4, 1, 0x40, 8, [⟨0, 3, .lk, 0⟩, ⟨4, 4, .lk, 0⟩, ⟨8, 1, .lk, 0⟩, ⟨9, 1, .lk, 0⟩, ⟨10, 1, .lk, 0⟩, ⟨11, 1, .lk, 0⟩, ⟨12, 1, .lk, 0⟩, ⟨13, 1, .lk, 0⟩, ⟨14, 1, .lk, 0⟩, ⟨15, 1, .lk, 0⟩, ⟨16, 1, .lk, 0⟩, ⟨17, 1, .lk, 0⟩, ⟨18, 1, .lk, 0⟩]⟩,
   ⟨0x4808, 0x4, 1, 0x40, 8, [⟨0, 2, .rw, 0⟩, ⟨2, 2, .rw, 0⟩, ⟨4, 2, .rw, 0⟩]⟩,
   ⟨0x480C, 0x4, 1, 0x40, 8, [⟨0, 2, .lk, 0⟩, ⟨8, 8, .lk, 0⟩, ⟨16, 8, .lk, 0⟩]⟩,
   ⟨0x4810, 0x4, 1, 0x40, 8, [⟨0, 1, .ro, 0⟩, ⟨1, 1, .ro, 0⟩, ⟨2, 1, .ro, 0⟩, ⟨8, 1, .w1c, 0⟩, ⟨9, 1, .w1c, 0⟩, ⟨10, 1, .w1c, 0⟩, ⟨11, 1, .w1c, 0⟩, ⟨12, 1, .w1c, 0⟩, ⟨13, 1, .w1c, 0⟩]⟩,
   ⟨0x4814, 0x4, 1, 0x40, 8, [⟨0, 32, .rw, 0⟩]⟩,
   ⟨0x4818, 0x4, 1, 0x40, 8, [⟨0, 32, .rw, 0xffffffff⟩]⟩,
   ⟨0x481C, 0x4, 1, 0x40, 8, [⟨0, 32, .rw, 0⟩]⟩,
   ⟨0x4820, 0x4, 1, 0x40, 8, [⟨0, 32, .rw, 0⟩]⟩,
   ⟨0x4824, 0x4, 1, 0x40, 8, [⟨0, 32, .ro, 0⟩]⟩,
   ⟨0x4828, 0x4, 1, 0x40, 8, [⟨0, 32, .rw, 0⟩]⟩,
   ⟨0x482C, 0x4, 1, 0x40, 8, [⟨0, 32, .rw, 0⟩]⟩,
   ⟨0x4830, 0x4, 1, 0x40, 8, [⟨0, 32, .ro, 0⟩]⟩,
   ⟨0x4834, 0x4, 1, 0x40, 8, [⟨0, 32, .ro, 0⟩]⟩,
   ⟨0x4838, 0x4, 1, 0x40, 8, [⟨0, 32, .ro, 0⟩]⟩,
   ⟨0x4A00, 0x4, 1, 0x4, 1, [⟨0, 8, .w1s, 0⟩, ⟨8, 8, .w1s, 0⟩]⟩,
   ⟨0x4A04, 0x4, 1, 0x4, 1, [⟨0, 8, .ro, 0⟩, ⟨8, 8, .ro, 0⟩]⟩,
   ⟨0x4A08, 0x4, 1, 0x4, 1, [⟨0, 32, .rc, 0⟩]⟩]

/-- The registers of the TWT block (R353). -/
def rowsTwt : List RegRow :=
  [⟨0x5000, 0x4, 1, 0x4, 1, [⟨0, 1, .rw, 1⟩, ⟨1, 1, .rw, 0⟩]⟩,
   ⟨0x5004, 0x4, 1, 0x4, 1, [⟨0, 8, .rw, 8⟩, ⟨8, 8, .rw, 0xe⟩, ⟨16, 4, .rw, 2⟩]⟩,
   ⟨0x5008, 0x4, 1, 0x4, 1, [⟨0, 8, .rw, 0⟩, ⟨8, 8, .rw, 0x32⟩]⟩,
   ⟨0x500C, 0x4, 1, 0x4, 1, [⟨0, 7, .ro, 0⟩]⟩,
   ⟨0x5010, 0x4, 1, 0x4, 1, [⟨0, 1, .ro, 0⟩, ⟨1, 1, .ro, 0⟩, ⟨2, 1, .ro, 0⟩, ⟨3, 1, .ro, 0⟩, ⟨8, 8, .ro, 0⟩, ⟨16, 16, .ro, 0⟩]⟩,
   ⟨0x5014, 0x4, 1, 0x4, 1, [⟨0, 32, .ro, 0⟩]⟩,
   ⟨0x5020, 0x4, 1, 0x4, 1, [⟨0, 32, .rc, 0⟩]⟩,
   ⟨0x5024, 0x4, 1, 0x4, 1, [⟨0, 32, .rc, 0⟩]⟩,
   ⟨0x5028, 0x4, 1, 0x4, 1, [⟨0, 32, .rc, 0⟩]⟩,
   ⟨0x502C, 0x4, 1, 0x4, 1, [⟨0, 32, .rc, 0⟩]⟩,
   ⟨0x5030, 0x4, 1, 0x4, 1, [⟨0, 32, .rc, 0⟩]⟩,
   ⟨0x5034, 0x4, 1, 0x4, 1, [⟨0, 32, .rc, 0⟩]⟩]

/-- The registers of the TWC block (R354). -/
def rowsTwc : List RegRow :=
  [⟨0x5400, 0x4, 1, 0x4, 1, [⟨0, 1, .rw, 0⟩, ⟨1, 1, .lk, 1⟩, ⟨2, 1, .lk, 1⟩, ⟨4, 3, .lk, 3⟩]⟩,
   ⟨0x5404, 0x4, 1, 0x4, 1, [⟨0, 8, .lk, 0x7b⟩, ⟨8, 8, .lk, 0x7b⟩, ⟨16, 8, .lk, 8⟩, ⟨24, 8, .lk, 0x7b⟩]⟩,
   ⟨0x5408, 0x4, 1, 0x4, 1, [⟨0, 8, .rw, 0x19⟩, ⟨8, 8, .rw, 0xa⟩]⟩,
   ⟨0x540C, 0x4, 1, 0x4, 1, [⟨0, 7, .rw, 0⟩, ⟨7, 1, .rw, 0⟩, ⟨8, 1, .rw, 1⟩, ⟨9, 1, .rw, 0⟩, ⟨10, 1, .w1s, 0⟩, ⟨16, 12, .rw, 1⟩]⟩,
   ⟨0x5410, 0x4, 1, 0x4, 1, [⟨0, 8, .rw, 0⟩, ⟨8, 1, .ro, 0⟩]⟩,
   ⟨0x5414, 0x4, 1, 0x4, 1, [⟨0, 32, .rw, 0⟩]⟩,
   ⟨0x5418, 0x4, 1, 0x4, 1, [⟨0, 1, .ro, 0⟩, ⟨1, 1, .w1c, 0⟩, ⟨2, 1, .ro, 0⟩, ⟨3, 1, .w1c, 0⟩, ⟨4, 1, .w1c, 0⟩, ⟨5, 1, .w1c, 0⟩, ⟨6, 1, .w1c, 0⟩, ⟨7, 1, .w1c, 0⟩, ⟨8, 5, .ro, 0⟩, ⟨16, 5, .ro, 0⟩, ⟨24, 8, .ro, 0⟩]⟩,
   ⟨0x541C, 0x4, 1, 0x4, 1, [⟨0, 13, .ro, 0⟩]⟩,
   ⟨0x5420, 0x4, 1, 0x4, 1, [⟨0, 32, .rc, 0⟩]⟩,
   ⟨0x5424, 0x4, 1, 0x4, 1, [⟨0, 32, .rc, 0⟩]⟩,
   ⟨0x5428, 0x4, 1, 0x4, 1, [⟨0, 32, .rc, 0⟩]⟩,
   ⟨0x542C, 0x4, 1, 0x4, 1, [⟨0, 32, .rc, 0⟩]⟩,
   ⟨0x5430, 0x4, 1, 0x4, 1, [⟨0, 32, .rc, 0⟩]⟩]

/-- The registers of the UA0 block (R386). -/
def rowsUa0 : List RegRow :=
  [⟨0x5800, 0x4, 1, 0x4, 1, [⟨0, 1, .rw, 0⟩, ⟨1, 1, .w1s, 0⟩, ⟨2, 1, .w1s, 0⟩]⟩,
   ⟨0x5804, 0x4, 1, 0x4, 1, [⟨0, 1, .lk, 0⟩, ⟨1, 2, .lk, 0⟩, ⟨3, 1, .lk, 0⟩, ⟨4, 1, .lk, 0⟩, ⟨5, 1, .lk, 0⟩, ⟨6, 1, .lk, 0⟩, ⟨7, 1, .lk, 0⟩, ⟨8, 1, .lk, 0⟩]⟩,
   ⟨0x5808, 0x4, 1, 0x4, 1, [⟨0, 24, .lk, 0xa0000⟩]⟩,
   ⟨0x580C, 0x4, 1, 0x4, 1, [⟨0, 6, .rw, 0x18⟩, ⟨8, 6, .rw, 8⟩]⟩,
   ⟨0x5810, 0x4, 1, 0x4, 1, [⟨0, 8, .rw, 0⟩, ⟨8, 8, .rw, 0xff⟩, ⟨16, 8, .rw, 0xff⟩, ⟨24, 1, .rw, 0⟩]⟩,
   ⟨0x5814, 0x4, 1, 0x4, 1, [⟨0, 6, .ro, 0⟩, ⟨8, 5, .ro, 0⟩, ⟨16, 1, .ro, 0⟩, ⟨17, 1, .ro, 0⟩, ⟨18, 1, .ro, 0⟩, ⟨19, 1, .ro, 0⟩, ⟨24, 1, .w1c, 0⟩, ⟨25, 1, .w1c, 0⟩, ⟨26, 1, .w1c, 0⟩, ⟨27, 1, .w1c, 0⟩, ⟨28, 1, .w1c, 0⟩, ⟨29, 1, .w1c, 0⟩, ⟨30, 1, .w1c, 0⟩]⟩,
   ⟨0x5818, 0x4, 1, 0x4, 1, [⟨0, 9, .rw, 0⟩, ⟨9, 4, .ro, 0⟩, ⟨15, 1, .ro, 0⟩]⟩,
   ⟨0x5820, 0x4, 1, 0x4, 1, [⟨0, 1, .rw, 0⟩, ⟨1, 1, .lk, 0⟩, ⟨8, 8, .rw, 0x20⟩]⟩,
   ⟨0x5824, 0x4, 1, 0x4, 1, [⟨0, 32, .lk, 0⟩]⟩,
   ⟨0x5828, 0x4, 1, 0x4, 1, [⟨0, 17, .lk, 0⟩]⟩,
   ⟨0x582C, 0x4, 1, 0x4, 1, [⟨0, 16, .ro, 0⟩]⟩,
   ⟨0x5830, 0x4, 1, 0x4, 1, [⟨0, 16, .rw, 0⟩]⟩,
   ⟨0x5834, 0x4, 1, 0x4, 1, [⟨0, 8, .ro, 0⟩, ⟨8, 1, .w1c, 0⟩]⟩,
   ⟨0x5840, 0x4, 1, 0x4, 1, [⟨0, 1, .rw, 0⟩, ⟨1, 1, .rw, 0⟩]⟩,
   ⟨0x5850, 0x4, 1, 0x4, 1, [⟨0, 4, .ro, 0⟩, ⟨8, 1, .ro, 0⟩]⟩,
   ⟨0x5854, 0x4, 1, 0x4, 1, [⟨0, 32, .ro, 0⟩]⟩,
   ⟨0x5858, 0x4, 1, 0x4, 1, [⟨0, 32, .ro, 0⟩]⟩,
   ⟨0x5860, 0x4, 1, 0x4, 1, [⟨0, 32, .rc, 0⟩]⟩,
   ⟨0x5864, 0x4, 1, 0x4, 1, [⟨0, 32, .rc, 0⟩]⟩,
   ⟨0x5868, 0x4, 1, 0x4, 1, [⟨0, 32, .rc, 0⟩]⟩]
  ++ [⟨0x586C, 0x4, 1, 0x4, 1, [⟨0, 32, .rc, 0⟩]⟩,
   ⟨0x5870, 0x4, 1, 0x4, 1, [⟨0, 32, .rc, 0⟩]⟩,
   ⟨0x5874, 0x4, 1, 0x4, 1, [⟨0, 32, .rc, 0⟩]⟩,
   ⟨0x5878, 0x4, 1, 0x4, 1, [⟨0, 32, .rc, 0⟩]⟩,
   ⟨0x587C, 0x4, 1, 0x4, 1, [⟨0, 32, .rc, 0⟩]⟩,
   ⟨0x5880, 0x4, 1, 0x4, 1, [⟨0, 32, .rc, 0⟩]⟩,
   ⟨0x5884, 0x4, 1, 0x4, 1, [⟨0, 32, .rc, 0⟩]⟩]

/-- The registers of the UA1 block (R387). -/
def rowsUa1 : List RegRow :=
  [⟨0x5C00, 0x4, 1, 0x4, 1, [⟨0, 1, .rw, 0⟩, ⟨1, 1, .w1s, 0⟩, ⟨2, 1, .w1s, 0⟩, ⟨3, 1, .w1s, 0⟩]⟩,
   ⟨0x5C04, 0x4, 1, 0x4, 1, [⟨0, 5, .lk, 6⟩, ⟨5, 1, .lk, 0⟩, ⟨6, 3, .lk, 4⟩, ⟨9, 1, .lk, 0⟩]⟩,
   ⟨0x5C08, 0x4, 1, 0x4, 1, [⟨0, 3, .ro, 0⟩, ⟨3, 1, .ro, 0⟩, ⟨4, 1, .ro, 0⟩, ⟨5, 1, .ro, 0⟩, ⟨8, 1, .w1c, 0⟩, ⟨9, 1, .w1c, 0⟩, ⟨10, 1, .w1c, 0⟩, ⟨16, 4, .ro, 0⟩, ⟨24, 8, .ro, 0⟩]⟩,
   ⟨0x5C0C, 0x4, 1, 0x4, 1, [⟨0, 12, .ro, 0⟩, ⟨12, 9, .ro, 0⟩, ⟨24, 8, .ro, 0⟩]⟩,
   ⟨0x5C10, 0x4, 1, 0x4, 1, [⟨0, 8, .rw, 0⟩, ⟨8, 8, .rw, 0⟩, ⟨16, 8, .rw, 0⟩, ⟨24, 8, .rw, 0⟩]⟩,
   ⟨0x5C14, 0x4, 1, 0x4, 1, [⟨0, 8, .rw, 0⟩, ⟨8, 1, .rw, 0⟩, ⟨9, 1, .rw, 0⟩]⟩,
   ⟨0x5C18, 0x4, 1, 0x4, 1, [⟨0, 8, .rw, 0⟩, ⟨8, 1, .ro, 0⟩]⟩,
   ⟨0x5C1C, 0x4, 1, 0x4, 1, [⟨0, 32, .rw, 0⟩]⟩,
   ⟨0x5C20, 0x4, 1, 0x4, 1, [⟨0, 8, .ro, 0⟩, ⟨8, 8, .ro, 0⟩, ⟨16, 9, .ro, 0⟩]⟩,
   ⟨0x5C40, 0x4, 1, 0x4, 9, [⟨0, 32, .ro, 0⟩]⟩,
   ⟨0x5C64, 0x4, 1, 0x4, 1, [⟨0, 6, .ro, 0⟩]⟩,
   ⟨0x5C80, 0x4, 1, 0x4, 1, [⟨0, 32, .rc, 0⟩]⟩,
   ⟨0x5C84, 0x4, 1, 0x4, 1, [⟨0, 32, .rc, 0⟩]⟩,
   ⟨0x5C88, 0x4, 1, 0x4, 1, [⟨0, 32, .rc, 0⟩]⟩,
   ⟨0x5C8C, 0x4, 1, 0x4, 1, [⟨0, 32, .rc, 0⟩]⟩,
   ⟨0x5C90, 0x4, 1, 0x4, 1, [⟨0, 32, .rc, 0⟩]⟩]

/-- The registers of the UPD block (R448). -/
def rowsUpd : List RegRow :=
  [⟨0x6000, 0x4, 1, 0x4, 1, [⟨0, 8, .wo, 0⟩]⟩,
   ⟨0x6004, 0x4, 1, 0x4, 1, [⟨0, 1, .rw, 0⟩, ⟨1, 1, .rw, 0⟩]⟩,
   ⟨0x6008, 0x4, 1, 0x4, 1, [⟨0, 2, .ro, 0⟩, ⟨2, 1, .ro, 0⟩, ⟨3, 4, .ro, 0⟩, ⟨7, 1, .ro, 0⟩, ⟨8, 1, .ro, 0⟩, ⟨9, 1, .ro, 0⟩, ⟨10, 1, .ro, 0⟩, ⟨11, 1, .ro, 0⟩, ⟨12, 1, .ro, 0⟩, ⟨13, 1, .ro, 0⟩, ⟨14, 2, .ro, 0⟩, ⟨16, 8, .ro, 0⟩, ⟨24, 8, .ro, 0⟩]⟩,
   ⟨0x600C, 0x4, 1, 0x4, 1, [⟨0, 8, .ro, 0⟩, ⟨8, 8, .ro, 0⟩, ⟨16, 16, .ro, 0⟩]⟩,
   ⟨0x6010, 0x4, 1, 0x4, 1, [⟨0, 16, .ro, 0⟩, ⟨16, 16, .ro, 0⟩]⟩,
   ⟨0x6014, 0x4, 1, 0x4, 1, [⟨0, 32, .ro, 0⟩]⟩,
   ⟨0x6018, 0x4, 1, 0x4, 1, [⟨0, 8, .ro, 0⟩, ⟨8, 8, .ro, 0⟩, ⟨16, 9, .ro, 0⟩]⟩,
   ⟨0x6020, 0x4, 1, 0x4, 4, [⟨0, 8, .ro, 0⟩, ⟨16, 16, .ro, 0⟩]⟩,
   ⟨0x6030, 0x4, 1, 0x4, 4, [⟨0, 16, .ro, 0⟩]⟩,
   ⟨0x6040, 0x4, 1, 0x4, 1, [⟨0, 32, .ro, 0⟩]⟩,
   ⟨0x6044, 0x4, 1, 0x4, 1, [⟨0, 32, .wo, 0⟩]⟩,
   ⟨0x6048, 0x4, 1, 0x4, 1, [⟨0, 17, .ro, 0⟩]⟩,
   ⟨0x604C, 0x4, 1, 0x4, 1, [⟨0, 16, .ro, 0⟩, ⟨16, 1, .ro, 0⟩, ⟨17, 1, .ro, 0⟩]⟩,
   ⟨0x6050, 0x4, 1, 0x4, 1, [⟨0, 1, .w1c, 0⟩, ⟨1, 1, .w1c, 0⟩, ⟨2, 1, .w1c, 0⟩, ⟨3, 1, .w1c, 0⟩, ⟨4, 1, .w1c, 0⟩, ⟨5, 1, .w1c, 0⟩, ⟨6, 1, .w1c, 0⟩, ⟨7, 1, .w1c, 0⟩]⟩,
   ⟨0x6054, 0x4, 1, 0x4, 1, [⟨0, 8, .rw, 0xff⟩]⟩,
   ⟨0x6060, 0x4, 1, 0x4, 1, [⟨0, 32, .rc, 0⟩]⟩,
   ⟨0x6064, 0x4, 1, 0x4, 1, [⟨0, 32, .rc, 0⟩]⟩,
   ⟨0x6068, 0x4, 1, 0x4, 1, [⟨0, 32, .rc, 0⟩]⟩,
   ⟨0x606C, 0x4, 1, 0x4, 1, [⟨0, 32, .rc, 0⟩]⟩,
   ⟨0x6070, 0x4, 1, 0x4, 1, [⟨0, 32, .rc, 0⟩]⟩]
  ++ [⟨0x6074, 0x4, 1, 0x4, 1, [⟨0, 32, .rc, 0⟩]⟩,
   ⟨0x6078, 0x4, 1, 0x4, 1, [⟨0, 32, .rc, 0⟩]⟩,
   ⟨0x607C, 0x4, 1, 0x4, 1, [⟨0, 32, .rc, 0⟩]⟩,
   ⟨0x6080, 0x4, 1, 0x4, 1, [⟨0, 32, .rc, 0⟩]⟩]

/-- The registers of the FLT block (R467). -/
def rowsFlt : List RegRow :=
  [⟨0x6800, 0x4, 1, 0x4, 1, [⟨0, 1, .w1c, 0⟩, ⟨1, 1, .w1c, 0⟩, ⟨2, 1, .w1c, 0⟩, ⟨3, 1, .w1c, 0⟩, ⟨4, 1, .w1c, 0⟩]⟩,
   ⟨0x6804, 0x4, 1, 0x4, 1, [⟨0, 5, .rw, 0x1f⟩]⟩,
   ⟨0x6808, 0x4, 1, 0x4, 1, [⟨0, 10, .ro, 0⟩]⟩,
   ⟨0x680C, 0x4, 1, 0x4, 1, [⟨0, 10, .w1s, 0⟩]⟩,
   ⟨0x6810, 0x4, 1, 0x4, 1, [⟨0, 1, .ro, 0⟩, ⟨1, 1, .ro, 0⟩, ⟨2, 1, .ro, 0⟩, ⟨3, 1, .ro, 0⟩, ⟨4, 1, .ro, 1⟩, ⟨5, 1, .ro, 0⟩, ⟨8, 1, .rw, 0⟩]⟩,
   ⟨0x6814, 0x4, 1, 0x4, 1, [⟨0, 1, .rw, 0⟩, ⟨1, 1, .rw, 0⟩, ⟨2, 1, .rw, 0⟩, ⟨8, 1, .ro, 0⟩, ⟨9, 1, .ro, 0⟩, ⟨10, 1, .ro, 0⟩]⟩,
   ⟨0x6820, 0x4, 1, 0x4, 1, [⟨0, 6, .ro, 0⟩]⟩,
   ⟨0x6824, 0x4, 1, 0x4, 1, [⟨0, 4, .ro, 0⟩, ⟨4, 2, .ro, 0⟩, ⟨8, 6, .ro, 0⟩, ⟨31, 1, .ro, 0⟩]⟩,
   ⟨0x6828, 0x4, 1, 0x4, 1, [⟨0, 32, .ro, 0⟩]⟩,
   ⟨0x682C, 0x4, 1, 0x4, 1, [⟨0, 32, .ro, 0⟩]⟩,
   ⟨0x6830, 0x4, 1, 0x4, 1, [⟨0, 32, .rc, 0⟩]⟩,
   ⟨0x6840, 0x4, 1, 0x4, 1, [⟨0, 3, .rw, 0⟩]⟩,
   ⟨0x6844, 0x4, 1, 0x4, 1, [⟨0, 32, .rw, 0⟩]⟩,
   ⟨0x6848, 0x4, 1, 0x4, 1, [⟨0, 32, .rw, 0⟩]⟩,
   ⟨0x684C, 0x4, 1, 0x4, 1, [⟨0, 2, .ro, 0⟩]⟩,
   ⟨0x6850, 0x4, 1, 0x4, 1, [⟨0, 32, .rc, 0⟩]⟩,
   ⟨0x6854, 0x4, 1, 0x4, 1, [⟨0, 32, .rc, 0⟩]⟩,
   ⟨0x6858, 0x4, 1, 0x4, 1, [⟨0, 32, .rc, 0⟩]⟩,
   ⟨0x6900, 0x4, 1, 0x4, 1, [⟨0, 20, (.rws .block), 0x3e8⟩]⟩,
   ⟨0x6910, 0x4, 1, 0x4, 1, [⟨0, 20, (.rws .block), 0x3e8⟩]⟩]
  ++ [⟨0x6920, 0x4, 1, 0x4, 1, [⟨0, 20, (.rws .block), 0x3e8⟩]⟩,
   ⟨0x6930, 0x4, 1, 0x4, 1, [⟨0, 20, (.rws .block), 0x2710⟩]⟩,
   ⟨0x6940, 0x4, 1, 0x4, 1, [⟨0, 20, (.rws .block), 0x3e8⟩]⟩,
   ⟨0x6950, 0x4, 1, 0x4, 1, [⟨0, 20, (.rws .block), 0xea60⟩]⟩,
   ⟨0x6960, 0x4, 1, 0x4, 1, [⟨0, 20, (.rws .block), 0xea60⟩]⟩,
   ⟨0x6970, 0x4, 1, 0x4, 1, [⟨0, 20, (.rws .block), 0x3e8⟩]⟩,
   ⟨0x6980, 0x4, 1, 0x4, 1, [⟨0, 20, (.rws .block), 0x3e8⟩]⟩,
   ⟨0x6990, 0x4, 1, 0x4, 1, [⟨0, 20, (.rws .block), 1⟩]⟩,
   ⟨0x6904, 0x4, 1, 0x4, 1, [⟨0, 6, (.rws .block), 8⟩]⟩,
   ⟨0x6914, 0x4, 1, 0x4, 1, [⟨0, 6, (.rws .block), 0x10⟩]⟩,
   ⟨0x6924, 0x4, 1, 0x4, 1, [⟨0, 6, (.rws .block), 4⟩]⟩,
   ⟨0x6934, 0x4, 1, 0x4, 1, [⟨0, 6, (.rws .block), 2⟩]⟩,
   ⟨0x6944, 0x4, 1, 0x4, 1, [⟨0, 6, (.rws .block), 4⟩]⟩,
   ⟨0x6954, 0x4, 1, 0x4, 1, [⟨0, 6, (.rws .block), 0x20⟩]⟩,
   ⟨0x6964, 0x4, 1, 0x4, 1, [⟨0, 6, (.rws .block), 3⟩]⟩,
   ⟨0x6974, 0x4, 1, 0x4, 1, [⟨0, 6, (.rws .block), 3⟩]⟩,
   ⟨0x6984, 0x4, 1, 0x4, 1, [⟨0, 6, (.rws .block), 4⟩]⟩,
   ⟨0x6994, 0x4, 1, 0x4, 1, [⟨0, 6, (.rws .block), 1⟩]⟩,
   ⟨0x6908, 0x4, 1, 0x4, 1, [⟨0, 1, (.rws .block), 0⟩, ⟨1, 1, (.rws .block), 0⟩, ⟨2, 1, (.rws .block), 0⟩, ⟨4, 4, .ro, 1⟩]⟩,
   ⟨0x6918, 0x4, 1, 0x4, 1, [⟨0, 1, (.rws .block), 0⟩, ⟨1, 1, (.rws .block), 0⟩, ⟨2, 1, (.rws .block), 0⟩, ⟨4, 4, .ro, 0⟩]⟩]
  ++ [⟨0x6928, 0x4, 1, 0x4, 1, [⟨0, 1, (.rws .block), 0⟩, ⟨1, 1, (.rws .block), 0⟩, ⟨2, 1, (.rws .block), 0⟩, ⟨4, 4, .ro, 0⟩]⟩,
   ⟨0x6938, 0x4, 1, 0x4, 1, [⟨0, 1, (.rws .block), 1⟩, ⟨1, 1, (.rws .block), 0⟩, ⟨2, 1, (.rws .block), 1⟩, ⟨4, 4, .ro, 0⟩]⟩,
   ⟨0x6948, 0x4, 1, 0x4, 1, [⟨0, 1, (.rws .block), 1⟩, ⟨1, 1, (.rws .block), 0⟩, ⟨2, 1, (.rws .block), 1⟩, ⟨4, 4, .ro, 0⟩]⟩,
   ⟨0x6958, 0x4, 1, 0x4, 1, [⟨0, 1, (.rws .block), 0⟩, ⟨1, 1, (.rws .block), 0⟩, ⟨2, 1, (.rws .block), 0⟩, ⟨4, 4, .ro, 0⟩]⟩,
   ⟨0x6968, 0x4, 1, 0x4, 1, [⟨0, 1, (.rws .block), 1⟩, ⟨1, 1, (.rws .block), 0⟩, ⟨2, 1, (.rws .block), 1⟩, ⟨4, 4, .ro, 0⟩]⟩,
   ⟨0x6978, 0x4, 1, 0x4, 1, [⟨0, 1, (.rws .block), 0⟩, ⟨1, 1, (.rws .block), 0⟩, ⟨2, 1, (.rws .block), 0⟩, ⟨4, 4, .ro, 0⟩]⟩,
   ⟨0x6988, 0x4, 1, 0x4, 1, [⟨0, 1, (.rws .block), 0⟩, ⟨1, 1, (.rws .block), 0⟩, ⟨2, 1, (.rws .block), 0⟩, ⟨4, 4, .ro, 0⟩]⟩,
   ⟨0x6998, 0x4, 1, 0x4, 1, [⟨0, 1, (.rws .block), 1⟩, ⟨1, 1, (.rws .block), 1⟩, ⟨2, 1, (.rws .block), 1⟩, ⟨4, 4, .ro, 0⟩]⟩,
   ⟨0x690C, 0x4, 1, 0x10, 10, [⟨0, 6, .ro, 0⟩, ⟨8, 1, .ro, 0⟩]⟩,
   ⟨0x6A00, 0x4, 1, 0x4, 10, [⟨0, 32, .rc, 0⟩]⟩]

/-- The registers of the DBG block (R492). -/
def rowsDbg : List RegRow :=
  [⟨0x7000, 0x4, 1, 0x4, 1, [⟨0, 1, .w1s, 0⟩, ⟨1, 1, .w1s, 0⟩, ⟨2, 1, .w1s, 0⟩]⟩,
   ⟨0x7004, 0x4, 1, 0x4, 1, [⟨0, 1, .ro, 0⟩, ⟨1, 1, .ro, 0⟩, ⟨2, 1, .ro, 0⟩]⟩,
   ⟨0x7008, 0x4, 1, 0x4, 1, [⟨0, 32, .ro, 0⟩]⟩,
   ⟨0x7010, 0x4, 1, 0x4, 128, [⟨0, 2, .ro, 0⟩, ⟨2, 1, .ro, 0⟩, ⟨3, 1, .ro, 0⟩, ⟨4, 1, .ro, 0⟩, ⟨8, 5, .ro, 0⟩, ⟨16, 5, .ro, 0⟩]⟩]

/-- The rows of the block that holds register address `a` (Table 15.15). -/
def blockRows (a : Nat) : List RegRow :=
  if a / 0x400 = 0x0 then rowsSys
  else if a / 0x400 = 0x1 then rowsPwr
  else if a / 0x400 = 0x2 then rowsHt
  else if a / 0x400 = 0x4 then rowsRef
  else if a / 0x400 = 0x6 then rowsSwm
  else if a / 0x400 = 0x8 then rowsAlc
  else if a / 0x400 = 0xA then rowsCue
  else if a / 0x400 = 0xC then rowsHcp
  else if a / 0x400 = 0xD then rowsMem
  else if a / 0x400 = 0xE then rowsOut
  else if a / 0x400 = 0x10 then rowsDac
  else if a / 0x400 = 0x11 then rowsAes
  else if a / 0x400 = 0x12 then rowsTcu
  else if a / 0x400 = 0x14 then rowsTwt
  else if a / 0x400 = 0x15 then rowsTwc
  else if a / 0x400 = 0x16 then rowsUa0
  else if a / 0x400 = 0x17 then rowsUa1
  else if a / 0x400 = 0x18 then rowsUpd
  else if a / 0x400 = 0x1A then rowsFlt
  else if a / 0x400 = 0x1C then rowsDbg
  else []

/-- BLOCK_STICKY at offset 0x3F8 of every block (R53, Table 1.6). -/
def stickyFields : List Field :=
  [⟨0, 1, .w1c, 0⟩, ⟨1, 1, .w1c, 0⟩, ⟨2, 1, .w1c, 0⟩, ⟨8, 2, .ro, 0⟩, ⟨12, 4, .ro, 0⟩]

/-- BLOCK_APPLY at offset 0x3FC of every block (R53, Table 1.6). -/
def applyFields : List Field := [⟨0, 1, .w1s, 0⟩, ⟨1, 1, .w1s, 0⟩, ⟨8, 1, .ro, 0⟩]

/-- The fields of the register at `a`; none where the register space holds no register there. -/
def regFields (a : Nat) : List Field :=
  match (blockRows a).find? (·.has a) with
  | some r => r.fields
  | none =>
    if (blockRows a).isEmpty then []
    else if a % 0x400 = 0x3F8 then stickyFields
    else if a % 0x400 = 0x3FC then applyFields
    else []

/-- The reset value of the register at `a`: its fields' reset values in their places. -/
def regReset (a : Nat) : Word :=
  (regFields a).foldl (fun w f => w ||| BitVec.ofNat 32 (f.reset <<< f.lo)) 0

/-- The base address of the block that holds register address `a`. -/
def blockBase (a : Nat) : Nat := a / 0x400 * 0x400

/-! The fields by the names of the register tables (R8). -/
namespace F

def sysIdPart : Fld := ⟨0x0000, 0, 16⟩
def sysIdRev : Fld := ⟨0x0000, 16, 8⟩
def sysIdVariant : Fld := ⟨0x0000, 24, 8⟩
def sysStatusReady : Fld := ⟨0x0004, 0, 1⟩
def sysStatusLcWipe : Fld := ⟨0x0004, 1, 1⟩
def sysRstCausePor : Fld := ⟨0x0008, 0, 1⟩
def sysRstCausePin : Fld := ⟨0x0008, 1, 1⟩
def sysRstCauseMgmtSys : Fld := ⟨0x0008, 2, 1⟩
def sysRstCauseMgmtCore : Fld := ⟨0x0008, 3, 1⟩
def sysRstCauseBorCore : Fld := ⟨0x0008, 4, 1⟩
def sysRstCauseWdog : Fld := ⟨0x0008, 5, 1⟩
def sysRstCauseDbg : Fld := ⟨0x0008, 6, 1⟩
def sysRstCauseLc : Fld := ⟨0x0008, 7, 1⟩
def sysRstReq : Fld := ⟨0x000C, 0, 2⟩
def sysLcState : Fld := ⟨0x0010, 0, 2⟩
def sysLcTarget : Fld := ⟨0x0010, 4, 2⟩
def sysLcPend : Fld := ⟨0x0010, 8, 1⟩
def sysLcReqTarget : Fld := ⟨0x0014, 0, 2⟩
def sysLcReqConfirm : Fld := ⟨0x0014, 7, 1⟩
def sysStartMs : Fld := ⟨0x0018, 0, 16⟩
def sysFeatOfferLo : Fld := ⟨0x0020, 0, 32⟩
def sysFeatOfferHi : Fld := ⟨0x0024, 0, 32⟩
def sysFeatAcceptLo : Fld := ⟨0x0028, 0, 32⟩
def sysFeatAcceptHi : Fld := ⟨0x002C, 0, 32⟩

def pwrCtrlLimit : Fld := ⟨0x0400, 0, 2⟩
def pwrCtrlQuiet : Fld := ⟨0x0400, 2, 1⟩
def pwrHost : Fld := ⟨0x0404, 0, 1⟩
def pwrGuard : Fld := ⟨0x0408, 0, 16⟩
def pwrFloorState : Fld := ⟨0x040C, 0, 2⟩
def pwrFloorArm : Fld := ⟨0x040C, 8, 1⟩
def pwrFloorClr : Fld := ⟨0x040C, 9, 1⟩
def pwrFloorPend : Fld := ⟨0x040C, 16, 1⟩
def pwrFloorActive : Fld := ⟨0x040C, 17, 1⟩
def pwrFloorAtLo : Fld := ⟨0x0410, 0, 32⟩
def pwrFloorAtHi : Fld := ⟨0x0414, 0, 32⟩
def pwrStatusState : Fld := ⟨0x0418, 0, 2⟩
def pwrStatusChosen : Fld := ⟨0x0418, 2, 2⟩
def pwrStatusEntering : Fld := ⟨0x0418, 4, 1⟩
def pwrStatusWaking : Fld := ⟨0x0418, 5, 1⟩
def pwrStatusSxiOk : Fld := ⟨0x0418, 6, 1⟩
def pwrBlock : Fld := ⟨0x041C, 0, 18⟩
def pwrNextLo : Fld := ⟨0x0420, 0, 32⟩
def pwrNextHi : Fld := ⟨0x0424, 0, 32⟩
def pwrNextSrc : Fld := ⟨0x0428, 0, 3⟩
def pwrSupplyVcoreOk : Fld := ⟨0x042C, 0, 1⟩
def pwrSupplyVioAOk : Fld := ⟨0x042C, 1, 1⟩
def pwrSupplyVioBOk : Fld := ⟨0x042C, 2, 1⟩
def pwrSupplyVanaOk : Fld := ⟨0x042C, 3, 1⟩
def pwrSupplyVioB18 : Fld := ⟨0x042C, 4, 1⟩
def pwrLastWake : Fld := ⟨0x0430, 0, 4⟩
def pwrCntIdle : Fld := ⟨0x0440, 0, 32⟩
def pwrCntDoze : Fld := ⟨0x0444, 0, 32⟩
def pwrCntNap : Fld := ⟨0x0448, 0, 32⟩
def pwrCntLatewake : Fld := ⟨0x044C, 0, 32⟩

def htNowLo : Fld := ⟨0x0800, 0, 32⟩
def htNowHi : Fld := ⟨0x0804, 0, 32⟩
def htSmpLo : Fld := ⟨0x0808, 0, 32⟩
def htSmpHi : Fld := ⟨0x080C, 0, 32⟩
def htFrmLo : Fld := ⟨0x0810, 0, 32⟩
def htFrmHi : Fld := ⟨0x0814, 0, 32⟩
def htLineLine : Fld := ⟨0x0818, 0, 20⟩
def htLineField : Fld := ⟨0x0818, 20, 1⟩
def htSub : Fld := ⟨0x081C, 0, 24⟩
def htSeqFrame : Fld := ⟨0x0820, 0, 3⟩
def htSeqActive : Fld := ⟨0x0820, 7, 1⟩
def htSeqSample : Fld := ⟨0x0820, 16, 16⟩
def htIncrFrac : Fld := ⟨0x0824, 0, 32⟩
def htIncrInt : Fld := ⟨0x0828, 0, 8⟩
def htSetLo : Fld := ⟨0x0830, 0, 32⟩
def htSetHi : Fld := ⟨0x0834, 0, 32⟩
def htCtrl : Fld := ⟨0x0838, 0, 1⟩
def htUtc : Fld := ⟨0x0840, 0, 16⟩
def htLeapCtrlDir : Fld := ⟨0x0844, 0, 2⟩
def htLeapCtrlDone : Fld := ⟨0x0844, 8, 1⟩
def htLeapLo : Fld := ⟨0x0848, 0, 32⟩
def htLeapHi : Fld := ⟨0x084C, 0, 32⟩
def htTsEn : Fld := ⟨0x0860, 0, 16⟩
def htTsEdge : Fld := ⟨0x0864, 0, 32⟩
def htTsRouteGp : Fld := ⟨0x0868, 0, 16⟩
def htTsRouteHost : Fld := ⟨0x0868, 16, 1⟩
def htTsStatLogLvl : Fld := ⟨0x086C, 0, 5⟩
def htTsStatStkLvl : Fld := ⟨0x086C, 8, 5⟩
def htTsLo : Fld := ⟨0x0870, 0, 32⟩
def htTsHi : Fld := ⟨0x0874, 0, 32⟩
def htTsDrop : Fld := ⟨0x0878, 0, 16⟩
def htTsSrcSrc : Fld := ⟨0x087C, 0, 5⟩
def htTsSrcEdge : Fld := ⟨0x087C, 5, 1⟩
def htTsSrcValid : Fld := ⟨0x087C, 8, 1⟩
def htGpOe : Fld := ⟨0x0880, 0, 16⟩
def htGpOut : Fld := ⟨0x0884, 0, 16⟩
def htGpIn : Fld := ⟨0x0888, 0, 16⟩

def refCtrlStd : Fld := ⟨0x1000, 0, 4⟩
def refCtrlRun : Fld := ⟨0x1000, 4, 1⟩
def refCtrlTodSrc : Fld := ⟨0x1000, 5, 2⟩
def refCtrlLabelTrack : Fld := ⟨0x1000, 7, 1⟩
def refCtrlBw : Fld := ⟨0x1000, 8, 2⟩
def refCtrlPpsPol : Fld := ⟨0x1000, 10, 1⟩
def refStatusState : Fld := ⟨0x1004, 0, 3⟩
def refStatusAnchored : Fld := ⟨0x1004, 3, 1⟩
def refStatusSlewing : Fld := ⟨0x1004, 4, 1⟩
def refStatusReanchorPend : Fld := ⟨0x1004, 5, 1⟩
def refStatusFlywheel : Fld := ⟨0x1004, 6, 1⟩
def refStatusGood : Fld := ⟨0x1004, 7, 1⟩
def refStatusRate : Fld := ⟨0x1004, 8, 2⟩
def refStatusGradeOk : Fld := ⟨0x1004, 10, 1⟩
def refStatusLabelValid : Fld := ⟨0x1004, 11, 1⟩
def refPhase : Fld := ⟨0x1008, 0, 32⟩
def refLabelErr : Fld := ⟨0x100C, 0, 32⟩
def refFreq : Fld := ⟨0x1010, 0, 32⟩
def refHoldAge : Fld := ⟨0x1014, 0, 32⟩
def refDly : Fld := ⟨0x1018, 0, 32⟩
def refPpsDly : Fld := ⟨0x101C, 0, 32⟩
def refWin : Fld := ⟨0x1020, 0, 16⟩
def refLossN : Fld := ⟨0x1024, 0, 8⟩
def refLossRequal : Fld := ⟨0x1024, 16, 8⟩
def refLossConfirm : Fld := ⟨0x1024, 24, 4⟩
def refHoldLim : Fld := ⟨0x1028, 0, 16⟩
def refAesZofs : Fld := ⟨0x1030, 0, 8⟩
def refLtcOfs : Fld := ⟨0x1034, 0, 32⟩
def refLtcTimeFrames : Fld := ⟨0x1038, 0, 8⟩
def refLtcTimeSeconds : Fld := ⟨0x1038, 8, 8⟩
def refLtcTimeMinutes : Fld := ⟨0x1038, 16, 8⟩
def refLtcTimeHours : Fld := ⟨0x1038, 24, 8⟩
def refLtcFlagsValid : Fld := ⟨0x103C, 0, 1⟩
def refLtcFlagsDrop : Fld := ⟨0x103C, 1, 1⟩
def refLtcFlagsColour : Fld := ⟨0x103C, 2, 1⟩
def refLtcFlagsReverse : Fld := ⟨0x103C, 3, 1⟩
def refLtcFlagsRate : Fld := ⟨0x103C, 4, 2⟩
def refLtcUb : Fld := ⟨0x1040, 0, 32⟩
def refCntAnom : Fld := ⟨0x1050, 0, 32⟩
def refCntHold : Fld := ⟨0x1054, 0, 32⟩
def refCntReanchor : Fld := ⟨0x1058, 0, 32⟩
def refCntLabelBad : Fld := ⟨0x105C, 0, 32⟩
def refCntRange : Fld := ⟨0x1060, 0, 32⟩

def swmCtrlRun : Fld := ⟨0x1800, 0, 1⟩
def swmCtrlRate : Fld := ⟨0x1800, 1, 1⟩
def swmStatusRunning : Fld := ⟨0x1804, 0, 1⟩
def swmStatusActive : Fld := ⟨0x1804, 8, 8⟩
def swmStatusHusks : Fld := ⟨0x1804, 16, 5⟩
def swmActive (i : Nat) : Fld := ⟨0x1810 + 0x4 * i, 0, 32⟩
def swmGlfoCfgShape (i : Nat) : Fld := ⟨0x1820 + 0x10 * i, 0, 3⟩
def swmGlfoCfgPh (i : Nat) : Fld := ⟨0x1820 + 0x10 * i, 3, 1⟩
def swmGlfoCfgRun (i : Nat) : Fld := ⟨0x1820 + 0x10 * i, 4, 1⟩
def swmGlfoCfgPhi0 (i : Nat) : Fld := ⟨0x1820 + 0x10 * i, 16, 16⟩
def swmGlfoIncLo (i : Nat) : Fld := ⟨0x1824 + 0x10 * i, 0, 32⟩
def swmGlfoIncHiInc (i : Nat) : Fld := ⟨0x1828 + 0x10 * i, 0, 16⟩
def swmGlfoIncHiSeed (i : Nat) : Fld := ⟨0x1828 + 0x10 * i, 16, 16⟩
def swmGlfoVal (i : Nat) : Fld := ⟨0x182C + 0x10 * i, 0, 32⟩
def swmCtl (i : Nat) : Fld := ⟨0x1860 + 0x4 * i, 0, 24⟩
def swmCntSat : Fld := ⟨0x1880, 0, 32⟩
def swmCntClamp : Fld := ⟨0x1884, 0, 32⟩
def swmCntVirgin : Fld := ⟨0x1888, 0, 32⟩
def swmCntRderr : Fld := ⟨0x188C, 0, 32⟩
def swmCntBadcfg : Fld := ⟨0x1890, 0, 32⟩
def swmHuskBusy : Fld := ⟨0x1900, 0, 16⟩
def swmSenCtrlEn : Fld := ⟨0x1910, 0, 1⟩
def swmSenCtrlInject : Fld := ⟨0x1910, 1, 1⟩
def swmSenStatVoice : Fld := ⟨0x1914, 0, 7⟩
def swmSenStatValid : Fld := ⟨0x1914, 8, 1⟩
def swmSenStatMismatch : Fld := ⟨0x1914, 9, 1⟩
def swmSenStatAbandoned : Fld := ⟨0x1914, 10, 1⟩
def swmSenBlkLo : Fld := ⟨0x1918, 0, 32⟩
def swmSenBlkHi : Fld := ⟨0x191C, 0, 32⟩
def swmSenSigLive : Fld := ⟨0x1920, 0, 32⟩
def swmSenSigRef : Fld := ⟨0x1924, 0, 32⟩
def swmSenFailVoice : Fld := ⟨0x1928, 0, 7⟩
def swmSenFailBlkLo : Fld := ⟨0x192C, 0, 32⟩
def swmSenFailBlkHi : Fld := ⟨0x1930, 0, 32⟩
def swmSenCntCheck : Fld := ⟨0x1940, 0, 32⟩
def swmSenCntMismatch : Fld := ⟨0x1944, 0, 32⟩
def swmSenCntAbandon : Fld := ⟨0x1948, 0, 32⟩

def alcCtrl : Fld := ⟨0x2000, 0, 1⟩
def alcStatusRunning : Fld := ⟨0x2004, 0, 1⟩
def alcStatusStrike : Fld := ⟨0x2004, 1, 1⟩
def alcQstatTimed : Fld := ⟨0x2008, 0, 11⟩
def alcQstatImm : Fld := ⟨0x2008, 16, 11⟩
def alcBudget : Fld := ⟨0x200C, 0, 11⟩
def alcLoadNow : Fld := ⟨0x2010, 0, 11⟩
def alcLoadPeak : Fld := ⟨0x2010, 16, 11⟩
def alcCntAdmit : Fld := ⟨0x2020, 0, 32⟩
def alcCntRefuse : Fld := ⟨0x2024, 0, 32⟩
def alcCntQfull : Fld := ⟨0x2028, 0, 32⟩
def alcCntMolt : Fld := ⟨0x202C, 0, 32⟩
def alcCntRetrig : Fld := ⟨0x2030, 0, 32⟩
def alcCntHard : Fld := ⟨0x2034, 0, 32⟩
def alcCntDiscard : Fld := ⟨0x2038, 0, 32⟩
def alcCntOvercost : Fld := ⟨0x203C, 0, 32⟩
def alcCntLate : Fld := ⟨0x2040, 0, 32⟩
def alcStkCtrlEn : Fld := ⟨0x2060, 0, 1⟩
def alcStkCtrlQuant : Fld := ⟨0x2060, 8, 5⟩
def alcStkMap0 : Fld := ⟨0x2064, 0, 32⟩
def alcStkMap1 : Fld := ⟨0x2068, 0, 32⟩
def alcStkMap2 : Fld := ⟨0x206C, 0, 4⟩
def alcStkLastLo : Fld := ⟨0x2070, 0, 32⟩
def alcStkLastHi : Fld := ⟨0x2074, 0, 32⟩
def alcStkLastSrcSrc : Fld := ⟨0x2078, 0, 5⟩
def alcStkLastSrcSlot : Fld := ⟨0x2078, 8, 3⟩
def alcStkCntOk : Fld := ⟨0x2080, 0, 32⟩
def alcStkCntLate : Fld := ⟨0x2084, 0, 32⟩
def alcStkCntStale : Fld := ⟨0x2088, 0, 32⟩
def alcStkCntNohusk : Fld := ⟨0x208C, 0, 32⟩
def alcStkCntMerge : Fld := ⟨0x2090, 0, 32⟩
def alcStkCntUnmapped : Fld := ⟨0x2094, 0, 32⟩
def alcFamCfgPrio (i : Nat) : Fld := ⟨0x2100 + 0x8 * i, 0, 3⟩
def alcFamCfgPolicy (i : Nat) : Fld := ⟨0x2100 + 0x8 * i, 4, 2⟩
def alcFamCfgHuskMs (i : Nat) : Fld := ⟨0x2100 + 0x8 * i, 8, 4⟩
def alcFamCfgCost (i : Nat) : Fld := ⟨0x2100 + 0x8 * i, 16, 5⟩
def alcFamRangeFirst (i : Nat) : Fld := ⟨0x2104 + 0x8 * i, 0, 7⟩
def alcFamRangeLast (i : Nat) : Fld := ⟨0x2104 + 0x8 * i, 8, 7⟩
def alcFamRangeEn (i : Nat) : Fld := ⟨0x2104 + 0x8 * i, 15, 1⟩

def cueCtrl : Fld := ⟨0x2800, 0, 1⟩
def cueStatusActive : Fld := ⟨0x2804, 0, 16⟩
def cueStatusTrapped : Fld := ⟨0x2804, 16, 16⟩
def cueHalted : Fld := ⟨0x2808, 0, 16⟩
def cueRselThread : Fld := ⟨0x2810, 0, 4⟩
def cueRselReg : Fld := ⟨0x2810, 4, 5⟩
def cueRdata : Fld := ⟨0x2814, 0, 32⟩
def cueCntTrap : Fld := ⟨0x2820, 0, 32⟩
def cueCntLate : Fld := ⟨0x2824, 0, 32⟩
def cueCntTrigovr : Fld := ⟨0x2828, 0, 32⟩
def cueCntSoftref : Fld := ⟨0x282C, 0, 32⟩
def cueThCtrlStart (i : Nat) : Fld := ⟨0x2900 + 0x20 * i, 0, 1⟩
def cueThCtrlStop (i : Nat) : Fld := ⟨0x2900 + 0x20 * i, 1, 1⟩
def cueThCtrlResume (i : Nat) : Fld := ⟨0x2900 + 0x20 * i, 2, 1⟩
def cueThCfgErrtrap (i : Nat) : Fld := ⟨0x2904 + 0x20 * i, 0, 1⟩
def cueThCfgHaltattn (i : Nat) : Fld := ⟨0x2904 + 0x20 * i, 1, 1⟩
def cueThCfgLead (i : Nat) : Fld := ⟨0x2904 + 0x20 * i, 16, 12⟩
def cueThEntry (i : Nat) : Fld := ⟨0x2908 + 0x20 * i, 2, 16⟩
def cueThStatState (i : Nat) : Fld := ⟨0x290C + 0x20 * i, 0, 3⟩
def cueThStatOutst (i : Nat) : Fld := ⟨0x290C + 0x20 * i, 3, 1⟩
def cueThStatFlags (i : Nat) : Fld := ⟨0x290C + 0x20 * i, 4, 4⟩
def cueThStatWait (i : Nat) : Fld := ⟨0x290C + 0x20 * i, 8, 4⟩
def cueThStatDepth (i : Nat) : Fld := ⟨0x290C + 0x20 * i, 16, 4⟩
def cueThStatLastSt (i : Nat) : Fld := ⟨0x290C + 0x20 * i, 24, 8⟩
def cueThPc (i : Nat) : Fld := ⟨0x2910 + 0x20 * i, 0, 18⟩
def cueThTrapCause (i : Nat) : Fld := ⟨0x2914 + 0x20 * i, 0, 8⟩
def cueThTrapCode (i : Nat) : Fld := ⟨0x2914 + 0x20 * i, 16, 16⟩
def cueThSig (i : Nat) : Fld := ⟨0x2918 + 0x20 * i, 0, 16⟩
def cueThTrigMask (i : Nat) : Fld := ⟨0x291C + 0x20 * i, 0, 17⟩
def cueThTrigFull (i : Nat) : Fld := ⟨0x291C + 0x20 * i, 17, 1⟩

def hcpCtrl : Fld := ⟨0x3000, 0, 1⟩
def hcpCfg : Fld := ⟨0x3004, 0, 5⟩
def hcpStatusHeld : Fld := ⟨0x3008, 0, 5⟩
def hcpStatusRspLvl : Fld := ⟨0x3008, 8, 6⟩
def hcpStatusMsgLvl : Fld := ⟨0x3008, 16, 5⟩
def hcpStatusNegotiated : Fld := ⟨0x3008, 24, 1⟩
def hcpStatusMembsy : Fld := ⟨0x3008, 25, 1⟩
def hcpStatusUnderrun : Fld := ⟨0x3008, 26, 1⟩
def hcpTagsHeld : Fld := ⟨0x300C, 0, 16⟩
def hcpTagsExec : Fld := ⟨0x300C, 16, 16⟩
def hcpAttnCauseRsp : Fld := ⟨0x3010, 0, 1⟩
def hcpAttnCauseEvents : Fld := ⟨0x3010, 1, 5⟩
def hcpAttnCauseFault : Fld := ⟨0x3010, 6, 1⟩
def hcpAttnCauseReset : Fld := ⟨0x3010, 7, 1⟩
def hcpAttnCauseUpd : Fld := ⟨0x3010, 8, 1⟩
def hcpAttnEn : Fld := ⟨0x3014, 0, 9⟩
def hcpRejStatus : Fld := ⟨0x3018, 0, 8⟩
def hcpRejOpc : Fld := ⟨0x3018, 8, 8⟩
def hcpRejTag : Fld := ⟨0x3018, 16, 5⟩
def hcpRejValid : Fld := ⟨0x3018, 31, 1⟩
def hcpPerrAddr : Fld := ⟨0x301C, 0, 32⟩
def hcpPerrInfoStatus : Fld := ⟨0x3020, 0, 8⟩
def hcpPerrInfoOpc : Fld := ⟨0x3020, 8, 8⟩
def hcpPerrInfoTag : Fld := ⟨0x3020, 16, 5⟩
def hcpPerrInfoCmd : Fld := ⟨0x3020, 21, 1⟩
def hcpPerrInfoValid : Fld := ⟨0x3020, 31, 1⟩
def hcpCntCmd : Fld := ⟨0x3030, 0, 32⟩
def hcpCntReject : Fld := ⟨0x3034, 0, 32⟩
def hcpCntPosterr : Fld := ⟨0x3038, 0, 32⟩
def hcpCntMsgdrop : Fld := ⟨0x303C, 0, 32⟩
def hcpCntDiscard : Fld := ⟨0x3040, 0, 32⟩
def hcpCntFrame : Fld := ⟨0x3044, 0, 32⟩
def hcpCntBadaddr : Fld := ⟨0x3048, 0, 32⟩
def hcpCntUnderrun : Fld := ⟨0x304C, 0, 32⟩
def hcpCntMembsy : Fld := ⟨0x3050, 0, 32⟩

def memCtrlScrubEn : Fld := ⟨0x3400, 0, 1⟩
def memCtrlScrubWake : Fld := ⟨0x3400, 1, 1⟩
def memCfg : Fld := ⟨0x3404, 0, 8⟩
def memStatusWiping : Fld := ⟨0x3408, 0, 1⟩
def memStatusVirginRd : Fld := ⟨0x3408, 8, 1⟩
def memStatusPoisonRd : Fld := ⟨0x3408, 9, 1⟩
def memStatusCe : Fld := ⟨0x3408, 10, 1⟩
def memStatusUe : Fld := ⟨0x3408, 11, 1⟩
def memStatusColl : Fld := ⟨0x3408, 12, 1⟩
def memStatusEpoison : Fld := ⟨0x3408, 13, 1⟩
def memRetMask : Fld := ⟨0x340C, 0, 12⟩
def memErrAddr : Fld := ⟨0x3410, 0, 32⟩
def memErrInfoKind : Fld := ⟨0x3414, 0, 3⟩
def memErrInfoMaster : Fld := ⟨0x3414, 4, 3⟩
def memErrInfoWord : Fld := ⟨0x3414, 8, 2⟩
def memErrInfoBit : Fld := ⟨0x3414, 10, 7⟩
def memErrInfoValid : Fld := ⟨0x3414, 31, 1⟩
def memInjArm : Fld := ⟨0x3418, 0, 1⟩
def memInjDouble : Fld := ⟨0x3418, 1, 1⟩
def memInjState : Fld := ⟨0x3418, 2, 1⟩
def memInjBit : Fld := ⟨0x3418, 3, 7⟩
def memInjWord : Fld := ⟨0x3418, 10, 2⟩
def memInjBank : Fld := ⟨0x3418, 16, 4⟩
def memChkAddr : Fld := ⟨0x3420, 0, 32⟩
def memChkLen : Fld := ⟨0x3424, 0, 16⟩
def memChkCtrlStart : Fld := ⟨0x3428, 0, 1⟩
def memChkCtrlOp : Fld := ⟨0x3428, 1, 1⟩
def memChkCtrlStrict : Fld := ⟨0x3428, 2, 1⟩
def memChkStatBusy : Fld := ⟨0x342C, 0, 1⟩
def memChkStatDone : Fld := ⟨0x342C, 1, 1⟩
def memChkStatStatus : Fld := ⟨0x342C, 8, 8⟩
def memChkCrc : Fld := ⟨0x3430, 0, 32⟩
def memChkFail : Fld := ⟨0x3434, 0, 32⟩
def memCntConfSwm : Fld := ⟨0x3440, 0, 32⟩
def memCntConfCue : Fld := ⟨0x3444, 0, 32⟩
def memCntConfHost : Fld := ⟨0x3448, 0, 32⟩
def memCntConfMgmt : Fld := ⟨0x344C, 0, 32⟩
def memCntConfHkp : Fld := ⟨0x3450, 0, 32⟩
def memCntConfDma : Fld := ⟨0x3454, 0, 32⟩
def memCntConfChk : Fld := ⟨0x3458, 0, 32⟩
def memCntCe : Fld := ⟨0x3460, 0, 32⟩
def memCntUe : Fld := ⟨0x3464, 0, 32⟩
def memCntVirgin : Fld := ⟨0x3468, 0, 32⟩
def memCntPoison : Fld := ⟨0x346C, 0, 32⟩
def memCntEpoison : Fld := ⟨0x3470, 0, 32⟩
def memCntColl : Fld := ⟨0x3474, 0, 32⟩
def memRepairUsed (i : Nat) : Fld := ⟨0x3480 + 0x4 * i, 0, 3⟩
def memRepairFuseErr (i : Nat) : Fld := ⟨0x3480 + 0x4 * i, 8, 1⟩
def memFlStatusBusy : Fld := ⟨0x3500, 0, 1⟩
def memFlStatusErasing : Fld := ⟨0x3500, 1, 1⟩
def memFlStatusSuspended : Fld := ⟨0x3500, 2, 1⟩
def memFlStatusProgramming : Fld := ⟨0x3500, 3, 1⟩
def memFlStatusRecover : Fld := ⟨0x3500, 4, 1⟩
def memFlStatusSector : Fld := ⟨0x3500, 16, 10⟩
def memFlWinLo : Fld := ⟨0x3504, 0, 32⟩
def memFlWinHi : Fld := ⟨0x3508, 0, 32⟩
def memFlJrnlActive : Fld := ⟨0x350C, 0, 1⟩
def memFlJrnlNext : Fld := ⟨0x350C, 8, 8⟩
def memFlSeq : Fld := ⟨0x3510, 0, 32⟩
def memFlCntReerase : Fld := ⟨0x3520, 0, 32⟩
def memFlCntTorn : Fld := ⟨0x3524, 0, 32⟩
def memFlCntSusp : Fld := ⟨0x3528, 0, 32⟩
def memFlCntBusyrd : Fld := ⟨0x352C, 0, 32⟩

def outPortEn : Fld := ⟨0x3800, 0, 7⟩
def outPortRun : Fld := ⟨0x3804, 0, 7⟩
def outMuteMute : Fld := ⟨0x3808, 0, 1⟩
def outMuteFmute : Fld := ⟨0x3808, 1, 1⟩
def outMuteExempt : Fld := ⟨0x3808, 8, 7⟩
def outMuteStatZero : Fld := ⟨0x380C, 0, 7⟩
def outMuteStatFull : Fld := ⟨0x380C, 8, 7⟩
def outPortCfg (i : Nat) : Fld := ⟨0x3810 + 0x4 * i, 0, 5⟩
def outSigCtrlEn : Fld := ⟨0x3840, 0, 1⟩
def outSigCtrlInject : Fld := ⟨0x3840, 8, 7⟩
def outSigStat : Fld := ⟨0x3844, 0, 7⟩
def outCntClip : Fld := ⟨0x3848, 0, 32⟩
def outSigVal (i : Nat) : Fld := ⟨0x3850 + 0x8 * i, 0, 32⟩
def outSigBlk (i : Nat) : Fld := ⟨0x3854 + 0x8 * i, 0, 32⟩
def outRouteSrc (i : Nat) : Fld := ⟨0x3900 + 0x4 * i, 0, 5⟩
def outRouteInv (i : Nat) : Fld := ⟨0x3900 + 0x4 * i, 5, 1⟩
def outRouteGain (i : Nat) : Fld := ⟨0x3900 + 0x4 * i, 16, 16⟩
def outTdmCfgFslen : Fld := ⟨0x3A00, 0, 1⟩
def outTdmCfgDelay : Fld := ⟨0x3A00, 1, 1⟩
def outTdmCfgBckpol : Fld := ⟨0x3A00, 2, 1⟩
def outLtcCfgEn : Fld := ⟨0x3A10, 0, 1⟩
def outLtcCfgRate : Fld := ⟨0x3A10, 1, 3⟩
def outLtcCfgDf : Fld := ⟨0x3A10, 4, 1⟩
def outLtcCfgBgf : Fld := ⟨0x3A10, 8, 3⟩
def outLtcOfs : Fld := ⟨0x3A14, 0, 32⟩
def outLtcUb : Fld := ⟨0x3A18, 0, 32⟩
def outLtcTime : Fld := ⟨0x3A1C, 0, 32⟩
def outLtcFrmLo : Fld := ⟨0x3A20, 0, 32⟩
def outLtcFrmHi : Fld := ⟨0x3A24, 0, 32⟩

def dacCfgHeadroom : Fld := ⟨0x4000, 0, 1⟩
def dacCfgGaincomp : Fld := ⟨0x4000, 1, 1⟩
def dacCfgVrefExt : Fld := ⟨0x4000, 2, 1⟩
def dacCfgOtAuto : Fld := ⟨0x4000, 3, 1⟩
def dacGain : Fld := ⟨0x4004, 0, 8⟩
def dacRangeAct : Fld := ⟨0x4008, 0, 8⟩
def dacRangeBusy : Fld := ⟨0x4008, 8, 8⟩
def dacRangeFallback : Fld := ⟨0x4008, 16, 8⟩
def dacZc : Fld := ⟨0x400C, 0, 23⟩
def dacCtrl : Fld := ⟨0x4010, 0, 1⟩
def dacStatusClamp : Fld := ⟨0x4014, 0, 1⟩
def dacStatusHiOk : Fld := ⟨0x4014, 1, 1⟩
def dacStatusVrefOk : Fld := ⟨0x4014, 2, 1⟩
def dacStatusOt : Fld := ⟨0x4014, 3, 1⟩
def dacStatusOtSeen : Fld := ⟨0x4014, 4, 1⟩
def dacTemp : Fld := ⟨0x4018, 0, 16⟩
def dacOtLim : Fld := ⟨0x401C, 0, 8⟩
def dacCntZc : Fld := ⟨0x4020, 0, 32⟩
def dacCntFallback : Fld := ⟨0x4024, 0, 32⟩
def dacCntOt : Fld := ⟨0x4028, 0, 32⟩

def aesCfg : Fld := ⟨0x4400, 0, 1⟩
def aesCntShort : Fld := ⟨0x4404, 0, 32⟩
def aesTxMask (i : Nat) : Fld := ⟨0x4440 + 0x40 * i, 2, 21⟩
def aesTxCs (i : Nat) (j : Nat) : Fld := ⟨0x4444 + 0x40 * i + 0x4 * j, 0, 32⟩
def aesTxSent (i : Nat) (j : Nat) : Fld := ⟨0x4460 + 0x40 * i + 0x4 * j, 0, 32⟩

def tcuChCtrlArm (i : Nat) : Fld := ⟨0x4800 + 0x40 * i, 0, 1⟩
def tcuChCtrlStop (i : Nat) : Fld := ⟨0x4800 + 0x40 * i, 1, 1⟩
def tcuChCtrlSnap (i : Nat) : Fld := ⟨0x4800 + 0x40 * i, 2, 1⟩
def tcuChCtrlForceHi (i : Nat) : Fld := ⟨0x4800 + 0x40 * i, 3, 1⟩
def tcuChCtrlForceLo (i : Nat) : Fld := ⟨0x4800 + 0x40 * i, 4, 1⟩
def tcuChCtrlForceTgl (i : Nat) : Fld := ⟨0x4800 + 0x40 * i, 5, 1⟩
def tcuChCfgSrc (i : Nat) : Fld := ⟨0x4804 + 0x40 * i, 0, 3⟩
def tcuChCfgPresc (i : Nat) : Fld := ⟨0x4804 + 0x40 * i, 4, 4⟩
def tcuChCfgOneshot (i : Nat) : Fld := ⟨0x4804 + 0x40 * i, 8, 1⟩
def tcuChCfgRetrig (i : Nat) : Fld := ⟨0x4804 + 0x40 * i, 9, 1⟩
def tcuChCfgHtstart (i : Nat) : Fld := ⟨0x4804 + 0x40 * i, 10, 1⟩
def tcuChCfgCapstart (i : Nat) : Fld := ⟨0x4804 + 0x40 * i, 11, 1⟩
def tcuChCfgCapclr (i : Nat) : Fld := ⟨0x4804 + 0x40 * i, 12, 1⟩
def tcuChCfgAlways (i : Nat) : Fld := ⟨0x4804 + 0x40 * i, 13, 1⟩
def tcuChCfgSlow (i : Nat) : Fld := ⟨0x4804 + 0x40 * i, 14, 1⟩
def tcuChCfgWide (i : Nat) : Fld := ⟨0x4804 + 0x40 * i, 15, 1⟩
def tcuChCfgPinout (i : Nat) : Fld := ⟨0x4804 + 0x40 * i, 16, 1⟩
def tcuChCfgIdle (i : Nat) : Fld := ⟨0x4804 + 0x40 * i, 17, 1⟩
def tcuChCfgCmp64 (i : Nat) : Fld := ⟨0x4804 + 0x40 * i, 18, 1⟩
def tcuChActActa (i : Nat) : Fld := ⟨0x4808 + 0x40 * i, 0, 2⟩
def tcuChActActb (i : Nat) : Fld := ⟨0x4808 + 0x40 * i, 2, 2⟩
def tcuChActActo (i : Nat) : Fld := ⟨0x4808 + 0x40 * i, 4, 2⟩
def tcuChIcfgEdge (i : Nat) : Fld := ⟨0x480C + 0x40 * i, 0, 2⟩
def tcuChIcfgFlen (i : Nat) : Fld := ⟨0x480C + 0x40 * i, 8, 8⟩
def tcuChIcfgNth (i : Nat) : Fld := ⟨0x480C + 0x40 * i, 16, 8⟩
def tcuChStatRun (i : Nat) : Fld := ⟨0x4810 + 0x40 * i, 0, 1⟩
def tcuChStatArmed (i : Nat) : Fld := ⟨0x4810 + 0x40 * i, 1, 1⟩
def tcuChStatPin (i : Nat) : Fld := ⟨0x4810 + 0x40 * i, 2, 1⟩
def tcuChStatOvf (i : Nat) : Fld := ⟨0x4810 + 0x40 * i, 8, 1⟩
def tcuChStatCmpa (i : Nat) : Fld := ⟨0x4810 + 0x40 * i, 9, 1⟩
def tcuChStatCmpb (i : Nat) : Fld := ⟨0x4810 + 0x40 * i, 10, 1⟩
def tcuChStatCap (i : Nat) : Fld := ⟨0x4810 + 0x40 * i, 11, 1⟩
def tcuChStatCapovr (i : Nat) : Fld := ⟨0x4810 + 0x40 * i, 12, 1⟩
def tcuChStatLate (i : Nat) : Fld := ⟨0x4810 + 0x40 * i, 13, 1⟩
def tcuChCnt (i : Nat) : Fld := ⟨0x4814 + 0x40 * i, 0, 32⟩
def tcuChTop (i : Nat) : Fld := ⟨0x4818 + 0x40 * i, 0, 32⟩
def tcuChCmpa (i : Nat) : Fld := ⟨0x481C + 0x40 * i, 0, 32⟩
def tcuChCmpb (i : Nat) : Fld := ⟨0x4820 + 0x40 * i, 0, 32⟩
def tcuChCap (i : Nat) : Fld := ⟨0x4824 + 0x40 * i, 0, 32⟩
def tcuChStartLo (i : Nat) : Fld := ⟨0x4828 + 0x40 * i, 0, 32⟩
def tcuChStartHi (i : Nat) : Fld := ⟨0x482C + 0x40 * i, 0, 32⟩
def tcuChHil (i : Nat) : Fld := ⟨0x4830 + 0x40 * i, 0, 32⟩
def tcuChSnapLo (i : Nat) : Fld := ⟨0x4834 + 0x40 * i, 0, 32⟩
def tcuChSnapHi (i : Nat) : Fld := ⟨0x4838 + 0x40 * i, 0, 32⟩
def tcuGctrlArm : Fld := ⟨0x4A00, 0, 8⟩
def tcuGctrlStop : Fld := ⟨0x4A00, 8, 8⟩
def tcuRunRun : Fld := ⟨0x4A04, 0, 8⟩
def tcuRunArmed : Fld := ⟨0x4A04, 8, 8⟩
def tcuCntLate : Fld := ⟨0x4A08, 0, 32⟩

def twtCfgWake : Fld := ⟨0x5000, 0, 1⟩
def twtCfgIbaEn : Fld := ⟨0x5000, 1, 1⟩
def twtTimingHold : Fld := ⟨0x5004, 0, 8⟩
def twtTimingSetup : Fld := ⟨0x5004, 8, 8⟩
def twtTimingFilt : Fld := ⟨0x5004, 16, 4⟩
def twtIbaRepeat : Fld := ⟨0x5008, 0, 8⟩
def twtIbaIdle : Fld := ⟨0x5008, 8, 8⟩
def twtAddr : Fld := ⟨0x500C, 0, 7⟩
def twtStatusAddressed : Fld := ⟨0x5010, 0, 1⟩
def twtStatusStretch : Fld := ⟨0x5010, 1, 1⟩
def twtStatusStrExp : Fld := ⟨0x5010, 2, 1⟩
def twtStatusIba : Fld := ⟨0x5010, 3, 1⟩
def twtStatusPtr : Fld := ⟨0x5010, 8, 8⟩
def twtStatusPage : Fld := ⟨0x5010, 16, 16⟩
def twtErrAddr : Fld := ⟨0x5014, 0, 32⟩
def twtCntXfer : Fld := ⟨0x5020, 0, 32⟩
def twtCntNack : Fld := ⟨0x5024, 0, 32⟩
def twtCntStretchTo : Fld := ⟨0x5028, 0, 32⟩
def twtCntIba : Fld := ⟨0x502C, 0, 32⟩
def twtCntIbaAbort : Fld := ⟨0x5030, 0, 32⟩
def twtCntBuserr : Fld := ⟨0x5034, 0, 32⟩

def twcCfgEn : Fld := ⟨0x5400, 0, 1⟩
def twcCfgMulti : Fld := ⟨0x5400, 1, 1⟩
def twcCfgRecover : Fld := ⟨0x5400, 2, 1⟩
def twcCfgRetry : Fld := ⟨0x5400, 4, 3⟩
def twcTimingLow : Fld := ⟨0x5404, 0, 8⟩
def twcTimingHigh : Fld := ⟨0x5404, 8, 8⟩
def twcTimingHold : Fld := ⟨0x5404, 16, 8⟩
def twcTimingBuf : Fld := ⟨0x5404, 24, 8⟩
def twcToStuck : Fld := ⟨0x5408, 0, 8⟩
def twcToChain : Fld := ⟨0x5408, 8, 8⟩
def twcXferAddr : Fld := ⟨0x540C, 0, 7⟩
def twcXferRd : Fld := ⟨0x540C, 7, 1⟩
def twcXferStop : Fld := ⟨0x540C, 8, 1⟩
def twcXferDma : Fld := ⟨0x540C, 9, 1⟩
def twcXferGo : Fld := ⟨0x540C, 10, 1⟩
def twcXferLen : Fld := ⟨0x540C, 16, 12⟩
def twcDataByte : Fld := ⟨0x5410, 0, 8⟩
def twcDataValid : Fld := ⟨0x5410, 8, 1⟩
def twcDmaAddr : Fld := ⟨0x5414, 0, 32⟩
def twcStatusBusy : Fld := ⟨0x5418, 0, 1⟩
def twcStatusDone : Fld := ⟨0x5418, 1, 1⟩
def twcStatusHeld : Fld := ⟨0x5418, 2, 1⟩
def twcStatusNackAddr : Fld := ⟨0x5418, 3, 1⟩
def twcStatusNackData : Fld := ⟨0x5418, 4, 1⟩
def twcStatusArbLost : Fld := ⟨0x5418, 5, 1⟩
def twcStatusStuck : Fld := ⟨0x5418, 6, 1⟩
def twcStatusErr : Fld := ⟨0x5418, 7, 1⟩
def twcStatusTxLvl : Fld := ⟨0x5418, 8, 5⟩
def twcStatusRxLvl : Fld := ⟨0x5418, 16, 5⟩
def twcStatusLastSt : Fld := ⟨0x5418, 24, 8⟩
def twcCount : Fld := ⟨0x541C, 0, 13⟩
def twcCntXfer : Fld := ⟨0x5420, 0, 32⟩
def twcCntNack : Fld := ⟨0x5424, 0, 32⟩
def twcCntArb : Fld := ⟨0x5428, 0, 32⟩
def twcCntStuck : Fld := ⟨0x542C, 0, 32⟩
def twcCntRetry : Fld := ⟨0x5430, 0, 32⟩

def ua0CtrlEn : Fld := ⟨0x5800, 0, 1⟩
def ua0CtrlTxFlush : Fld := ⟨0x5800, 1, 1⟩
def ua0CtrlRxFlush : Fld := ⟨0x5800, 2, 1⟩
def ua0CfgBits7 : Fld := ⟨0x5804, 0, 1⟩
def ua0CfgPar : Fld := ⟨0x5804, 1, 2⟩
def ua0CfgStop2 : Fld := ⟨0x5804, 3, 1⟩
def ua0CfgNine : Fld := ⟨0x5804, 4, 1⟩
def ua0CfgDec : Fld := ⟨0x5804, 5, 1⟩
def ua0CfgFlow : Fld := ⟨0x5804, 6, 1⟩
def ua0CfgTodEn : Fld := ⟨0x5804, 7, 1⟩
def ua0CfgTodCopy : Fld := ⟨0x5804, 8, 1⟩
def ua0Baud : Fld := ⟨0x5808, 0, 24⟩
def ua0FlowRtsHi : Fld := ⟨0x580C, 0, 6⟩
def ua0FlowRtsLo : Fld := ⟨0x580C, 8, 6⟩
def ua0AddrAddr : Fld := ⟨0x5810, 0, 8⟩
def ua0AddrMask : Fld := ⟨0x5810, 8, 8⟩
def ua0AddrBcast : Fld := ⟨0x5810, 16, 8⟩
def ua0AddrBcastEn : Fld := ⟨0x5810, 24, 1⟩
def ua0StatusRxLvl : Fld := ⟨0x5814, 0, 6⟩
def ua0StatusTxLvl : Fld := ⟨0x5814, 8, 5⟩
def ua0StatusRts : Fld := ⟨0x5814, 16, 1⟩
def ua0StatusCts : Fld := ⟨0x5814, 17, 1⟩
def ua0StatusSelected : Fld := ⟨0x5814, 18, 1⟩
def ua0StatusTxBusy : Fld := ⟨0x5814, 19, 1⟩
def ua0StatusOvr : Fld := ⟨0x5814, 24, 1⟩
def ua0StatusNoise : Fld := ⟨0x5814, 25, 1⟩
def ua0StatusFrame : Fld := ⟨0x5814, 26, 1⟩
def ua0StatusPar : Fld := ⟨0x5814, 27, 1⟩
def ua0StatusBreak : Fld := ⟨0x5814, 28, 1⟩
def ua0StatusDmaErr : Fld := ⟨0x5814, 29, 1⟩
def ua0StatusWoke : Fld := ⟨0x5814, 30, 1⟩
def ua0DataData : Fld := ⟨0x5818, 0, 9⟩
def ua0DataFlags : Fld := ⟨0x5818, 9, 4⟩
def ua0DataValid : Fld := ⟨0x5818, 15, 1⟩
def ua0DmaCfgEn : Fld := ⟨0x5820, 0, 1⟩
def ua0DmaCfgWide : Fld := ⟨0x5820, 1, 1⟩
def ua0DmaCfgTo : Fld := ⟨0x5820, 8, 8⟩
def ua0DmaBase : Fld := ⟨0x5824, 0, 32⟩
def ua0DmaLen : Fld := ⟨0x5828, 0, 17⟩
def ua0DmaWptr : Fld := ⟨0x582C, 0, 16⟩
def ua0DmaRptr : Fld := ⟨0x5830, 0, 16⟩
def ua0DmaStatLastSt : Fld := ⟨0x5834, 0, 8⟩
def ua0DmaStatFlushed : Fld := ⟨0x5834, 8, 1⟩
def ua0SlowEn : Fld := ⟨0x5840, 0, 1⟩
def ua0SlowBaud : Fld := ⟨0x5840, 1, 1⟩
def ua0TodStatReason : Fld := ⟨0x5850, 0, 4⟩
def ua0TodStatValid : Fld := ⟨0x5850, 8, 1⟩
def ua0TodSecLo : Fld := ⟨0x5854, 0, 32⟩
def ua0TodSecHi : Fld := ⟨0x5858, 0, 32⟩
def ua0CntRx : Fld := ⟨0x5860, 0, 32⟩
def ua0CntOvr : Fld := ⟨0x5864, 0, 32⟩
def ua0CntNoise : Fld := ⟨0x5868, 0, 32⟩
def ua0CntFrame : Fld := ⟨0x586C, 0, 32⟩
def ua0CntPar : Fld := ⟨0x5870, 0, 32⟩
def ua0CntFalse : Fld := ⟨0x5874, 0, 32⟩
def ua0CntFlaglost : Fld := ⟨0x5878, 0, 32⟩
def ua0CntTodBad : Fld := ⟨0x587C, 0, 32⟩
def ua0CntWake : Fld := ⟨0x5880, 0, 32⟩
def ua0CntFlush : Fld := ⟨0x5884, 0, 32⟩

def ua1CtrlEn : Fld := ⟨0x5C00, 0, 1⟩
def ua1CtrlAct : Fld := ⟨0x5C00, 1, 1⟩
def ua1CtrlDeact : Fld := ⟨0x5C00, 2, 1⟩
def ua1CtrlGo : Fld := ⟨0x5C00, 3, 1⟩
def ua1CfgClkdiv : Fld := ⟨0x5C04, 0, 5⟩
def ua1CfgDec : Fld := ⟨0x5C04, 5, 1⟩
def ua1CfgRetry : Fld := ⟨0x5C04, 6, 3⟩
def ua1CfgDetPol : Fld := ⟨0x5C04, 9, 1⟩
def ua1StatusState : Fld := ⟨0x5C08, 0, 3⟩
def ua1StatusConv : Fld := ⟨0x5C08, 3, 1⟩
def ua1StatusPresent : Fld := ⟨0x5C08, 4, 1⟩
def ua1StatusUpd : Fld := ⟨0x5C08, 5, 1⟩
def ua1StatusDone : Fld := ⟨0x5C08, 8, 1⟩
def ua1StatusErr : Fld := ⟨0x5C08, 9, 1⟩
def ua1StatusNoise : Fld := ⟨0x5C08, 10, 1⟩
def ua1StatusFail : Fld := ⟨0x5C08, 16, 4⟩
def ua1StatusLastSt : Fld := ⟨0x5C08, 24, 8⟩
def ua1ParamEtu : Fld := ⟨0x5C0C, 0, 12⟩
def ua1ParamGt : Fld := ⟨0x5C0C, 12, 9⟩
def ua1ParamWi : Fld := ⟨0x5C0C, 24, 8⟩
def ua1HdrCla : Fld := ⟨0x5C10, 0, 8⟩
def ua1HdrIns : Fld := ⟨0x5C10, 8, 8⟩
def ua1HdrP1 : Fld := ⟨0x5C10, 16, 8⟩
def ua1HdrP2 : Fld := ⟨0x5C10, 24, 8⟩
def ua1XcfgP3 : Fld := ⟨0x5C14, 0, 8⟩
def ua1XcfgDir : Fld := ⟨0x5C14, 8, 1⟩
def ua1XcfgDma : Fld := ⟨0x5C14, 9, 1⟩
def ua1DataByte : Fld := ⟨0x5C18, 0, 8⟩
def ua1DataValid : Fld := ⟨0x5C18, 8, 1⟩
def ua1DmaAddr : Fld := ⟨0x5C1C, 0, 32⟩
def ua1ResultSw1 : Fld := ⟨0x5C20, 0, 8⟩
def ua1ResultSw2 : Fld := ⟨0x5C20, 8, 8⟩
def ua1ResultCount : Fld := ⟨0x5C20, 16, 9⟩
def ua1Atr (i : Nat) : Fld := ⟨0x5C40 + 0x4 * i, 0, 32⟩
def ua1AtrLen : Fld := ⟨0x5C64, 0, 6⟩
def ua1CntApdu : Fld := ⟨0x5C80, 0, 32⟩
def ua1CntRepeat : Fld := ⟨0x5C84, 0, 32⟩
def ua1CntParerr : Fld := ⟨0x5C88, 0, 32⟩
def ua1CntNoise : Fld := ⟨0x5C8C, 0, 32⟩
def ua1CntFail : Fld := ⟨0x5C90, 0, 32⟩

def updCmd : Fld := ⟨0x6000, 0, 8⟩
def updCfgMgmtConfirm : Fld := ⟨0x6004, 0, 1⟩
def updCfgActReset : Fld := ⟨0x6004, 1, 1⟩
def updStatusState : Fld := ⟨0x6008, 0, 2⟩
def updStatusScanned : Fld := ⟨0x6008, 2, 1⟩
def updStatusStaged : Fld := ⟨0x6008, 3, 4⟩
def updStatusVerified : Fld := ⟨0x6008, 7, 1⟩
def updStatusArmed : Fld := ⟨0x6008, 8, 1⟩
def updStatusFallback : Fld := ⟨0x6008, 9, 1⟩
def updStatusSettingsUnread : Fld := ⟨0x6008, 10, 1⟩
def updStatusSelftestOk : Fld := ⟨0x6008, 11, 1⟩
def updStatusLibCommit : Fld := ⟨0x6008, 12, 1⟩
def updStatusRunSlot : Fld := ⟨0x6008, 13, 1⟩
def updStatusAttempts : Fld := ⟨0x6008, 14, 2⟩
def updStatusStep : Fld := ⟨0x6008, 16, 8⟩
def updStatusLastSt : Fld := ⟨0x6008, 24, 8⟩
def updReasonCode : Fld := ⟨0x600C, 0, 8⟩
def updReasonPart : Fld := ⟨0x600C, 8, 8⟩
def updReasonBlock : Fld := ⟨0x600C, 16, 16⟩
def updProgressDone : Fld := ⟨0x6010, 0, 16⟩
def updProgressTotal : Fld := ⟨0x6010, 16, 16⟩
def updPkgId : Fld := ⟨0x6014, 0, 32⟩
def updPkgInfoClass : Fld := ⟨0x6018, 0, 8⟩
def updPkgInfoNparts : Fld := ⟨0x6018, 8, 8⟩
def updPkgInfoBlocks : Fld := ⟨0x6018, 16, 9⟩
def updPartKind (i : Nat) : Fld := ⟨0x6020 + 0x4 * i, 0, 8⟩
def updPartVer (i : Nat) : Fld := ⟨0x6020 + 0x4 * i, 16, 16⟩
def updRunver (i : Nat) : Fld := ⟨0x6030 + 0x4 * i, 0, 16⟩
def updToken : Fld := ⟨0x6040, 0, 32⟩
def updConfirm : Fld := ⟨0x6044, 0, 32⟩
def updDeadline : Fld := ⟨0x6048, 0, 17⟩
def updSettingsSchema : Fld := ⟨0x604C, 0, 16⟩
def updSettingsOwnRec : Fld := ⟨0x604C, 16, 1⟩
def updSettingsMigrated : Fld := ⟨0x604C, 17, 1⟩
def updEventStepDone : Fld := ⟨0x6050, 0, 1⟩
def updEventTrial : Fld := ⟨0x6050, 1, 1⟩
def updEventConfirmed : Fld := ⟨0x6050, 2, 1⟩
def updEventFallback : Fld := ⟨0x6050, 3, 1⟩
def updEventRejected : Fld := ⟨0x6050, 4, 1⟩
def updEventSettingsUnread : Fld := ⟨0x6050, 5, 1⟩
def updEventLibDone : Fld := ⟨0x6050, 6, 1⟩
def updEventCard : Fld := ⟨0x6050, 7, 1⟩
def updEventEn : Fld := ⟨0x6054, 0, 8⟩
def updCntStep : Fld := ⟨0x6060, 0, 32⟩
def updCntCarderr : Fld := ⟨0x6064, 0, 32⟩
def updCntCrcerr : Fld := ⟨0x6068, 0, 32⟩
def updCntSigfail : Fld := ⟨0x606C, 0, 32⟩
def updCntTrial : Fld := ⟨0x6070, 0, 32⟩
def updCntFallback : Fld := ⟨0x6074, 0, 32⟩
def updCntReject : Fld := ⟨0x6078, 0, 32⟩
def updCntBadtoken : Fld := ⟨0x607C, 0, 32⟩
def updCntSeterr : Fld := ⟨0x6080, 0, 32⟩

def fltEventStateSplit : Fld := ⟨0x6800, 0, 1⟩
def fltEventRefLoss : Fld := ⟨0x6800, 1, 1⟩
def fltEventHoldLapse : Fld := ⟨0x6800, 2, 1⟩
def fltEventReanchor : Fld := ⟨0x6800, 3, 1⟩
def fltEventLasting : Fld := ⟨0x6800, 4, 1⟩
def fltEventEn : Fld := ⟨0x6804, 0, 5⟩
def fltLasting : Fld := ⟨0x6808, 0, 10⟩
def fltClear : Fld := ⟨0x680C, 0, 10⟩
def fltHealthHealthy : Fld := ⟨0x6810, 0, 1⟩
def fltHealthReadyOk : Fld := ⟨0x6810, 1, 1⟩
def fltHealthEngineOk : Fld := ⟨0x6810, 2, 1⟩
def fltHealthRefOk : Fld := ⟨0x6810, 3, 1⟩
def fltHealthClassOk : Fld := ⟨0x6810, 4, 1⟩
def fltHealthPowerOk : Fld := ⟨0x6810, 5, 1⟩
def fltHealthForceLow : Fld := ⟨0x6810, 8, 1⟩
def fltMuteCfgRefLapse : Fld := ⟨0x6814, 0, 1⟩
def fltMuteCfgRefBad : Fld := ⟨0x6814, 1, 1⟩
def fltMuteCfgUnhealthy : Fld := ⟨0x6814, 2, 1⟩
def fltMuteCfgByClass : Fld := ⟨0x6814, 8, 1⟩
def fltMuteCfgByRef : Fld := ⟨0x6814, 9, 1⟩
def fltMuteCfgByHealth : Fld := ⟨0x6814, 10, 1⟩
def fltLogStat : Fld := ⟨0x6820, 0, 6⟩
def fltLogInfoClass : Fld := ⟨0x6824, 0, 4⟩
def fltLogInfoKind : Fld := ⟨0x6824, 4, 2⟩
def fltLogInfoWcnt : Fld := ⟨0x6824, 8, 6⟩
def fltLogInfoValid : Fld := ⟨0x6824, 31, 1⟩
def fltLogBlk : Fld := ⟨0x6828, 0, 32⟩
def fltLogDetail : Fld := ⟨0x682C, 0, 32⟩
def fltLogLost : Fld := ⟨0x6830, 0, 32⟩
def fltPeerCfg : Fld := ⟨0x6840, 0, 3⟩
def fltPeerBlk : Fld := ⟨0x6844, 0, 32⟩
def fltPeerSig : Fld := ⟨0x6848, 0, 32⟩
def fltPeerStat : Fld := ⟨0x684C, 0, 2⟩
def fltPeerCntMatch : Fld := ⟨0x6850, 0, 32⟩
def fltPeerCntMismatch : Fld := ⟨0x6854, 0, 32⟩
def fltPeerCntUnknown : Fld := ⟨0x6858, 0, 32⟩
def fltWin (i : Nat) : Fld := ⟨0x6900 + 0x10 * i, 0, 20⟩
def fltThr (i : Nat) : Fld := ⟨0x6904 + 0x10 * i, 0, 6⟩
def fltActHealth (i : Nat) : Fld := ⟨0x6908 + 0x10 * i, 0, 1⟩
def fltActMute (i : Nat) : Fld := ⟨0x6908 + 0x10 * i, 1, 1⟩
def fltActLatch (i : Nat) : Fld := ⟨0x6908 + 0x10 * i, 2, 1⟩
def fltActFixed (i : Nat) : Fld := ⟨0x6908 + 0x10 * i, 4, 4⟩
def fltStatWcnt (i : Nat) : Fld := ⟨0x690C + 0x10 * i, 0, 6⟩
def fltStatLasting (i : Nat) : Fld := ⟨0x690C + 0x10 * i, 8, 1⟩
def fltCnt (i : Nat) : Fld := ⟨0x6A00 + 0x4 * i, 0, 32⟩

def dbgCtrlHalt : Fld := ⟨0x7000, 0, 1⟩
def dbgCtrlRelease : Fld := ⟨0x7000, 1, 1⟩
def dbgCtrlReset : Fld := ⟨0x7000, 2, 1⟩
def dbgStatusHalted : Fld := ⟨0x7004, 0, 1⟩
def dbgStatusByTap : Fld := ⟨0x7004, 1, 1⟩
def dbgStatusByMgmt : Fld := ⟨0x7004, 2, 1⟩
def dbgIdcode : Fld := ⟨0x7008, 0, 32⟩
def dbgVoiceState (i : Nat) : Fld := ⟨0x7010 + 0x4 * i, 0, 2⟩
def dbgVoiceHeld (i : Nat) : Fld := ⟨0x7010 + 0x4 * i, 2, 1⟩
def dbgVoiceVictim (i : Nat) : Fld := ⟨0x7010 + 0x4 * i, 3, 1⟩
def dbgVoiceStrike (i : Nat) : Fld := ⟨0x7010 + 0x4 * i, 4, 1⟩
def dbgVoiceFamily (i : Nat) : Fld := ⟨0x7010 + 0x4 * i, 8, 5⟩
def dbgVoiceCost (i : Nat) : Fld := ⟨0x7010 + 0x4 * i, 16, 5⟩

/-- LOCK_VIOL of the block at `b` (R53). -/
def stickyLockViol (b : Nat) : Fld := ⟨b + 0x3F8, 0, 1⟩
/-- CONFLICT of the block at `b` (R53). -/
def stickyConflict (b : Nat) : Fld := ⟨b + 0x3F8, 1, 1⟩
/-- SPLIT_LOSS of the block at `b` (R53). -/
def stickySplitLoss (b : Nat) : Fld := ⟨b + 0x3F8, 2, 1⟩
/-- CONF_SRC of the block at `b` (R53). -/
def stickyConfSrc (b : Nat) : Fld := ⟨b + 0x3F8, 8, 2⟩
/-- CONF_THREAD of the block at `b` (R53). -/
def stickyConfThread (b : Nat) : Fld := ⟨b + 0x3F8, 12, 4⟩

end F

end Sys2Proof.Machine
end

