-- ==== Sys2Proof/Machine/Tab.lean ====
section
/-! DEFINITION. Sparse tables: lists of key and value in one canonical form (keys strictly rising, no entry equal to what
an unlisted key reads as), so that equal tables are equal data. Memory, the register files and the per-voice state
are kept this way. -/

namespace Sys2Proof.Machine

/-- A sparse table. What an unlisted key reads as is an argument of its operations. -/
abbrev Tab (α : Type) := List (Nat × α)

/-- The listed value at key `k`. -/
def Tab.find {α : Type} : Tab α → Nat → Option α
  | [], _ => none
  | (k', v) :: t, k => if k = k' then some v else Tab.find t k

/-- The value at key `k`; `d` says what an unlisted key reads as. -/
def Tab.get {α : Type} (d : Nat → α) (t : Tab α) (k : Nat) : α := (Tab.find t k).getD (d k)

/-- List `v` at `k`, keeping the keys rising. -/
def Tab.put {α : Type} : Tab α → Nat → α → Tab α
  | [], k, v => [(k, v)]
  | (k', v') :: t, k, v =>
    if k = k' then (k, v) :: t
    else if k < k' then (k, v) :: (k', v') :: t
    else (k', v') :: Tab.put t k v

/-- Take key `k` off the list. -/
def Tab.del {α : Type} (t : Tab α) (k : Nat) : Tab α := t.filter fun x => x.1 != k

/-- Write `v` at `k`: writing what an unlisted key reads as removes the entry. -/
def Tab.set {α : Type} [DecidableEq α] (d : Nat → α) (t : Tab α) (k : Nat) (v : α) : Tab α :=
  if v = d k then Tab.del t k else Tab.put t k v

/-- Every key of the table is above `b`. -/
def Tab.above {α : Type} (b : Nat) : Tab α → Bool
  | [] => true
  | (k, _) :: _ => decide (b < k)

/-- The canonical form: keys strictly rising and no default entry. -/
def Tab.wf {α : Type} [DecidableEq α] (d : Nat → α) : Tab α → Bool
  | [] => true
  | (k, v) :: t => decide (v ≠ d k) && Tab.above k t && Tab.wf d t

end Sys2Proof.Machine
end

