-- ==== Sys2Proof/Machine/State.lean ====
section
/-! DEFINITION. The state of the CT128 as plain data: the register files, and one structure for each block's state that
is in no register. INVENTORY.md lists every field with its rule. -/

namespace Sys2Proof.Machine

/-- Reasons a step can stop with a fault. -/
inductive Fault where
  /-- Raised by no meaning: the manual gives every row of the table an effect, and an access to an address outside
  every region has the effect R213, R330 and R195 give it. Safe. -/
  | outsideManual
  deriving DecidableEq, Repr

/-- Reasons a command is refused. -/
inductive Refusal where
  /-- A row of the opcode table without a meaning in the model. Safe. -/
  | notModelled (mnemonic : String)
  deriving DecidableEq, Repr

/-- The status codes of Table 0.5 (R18), in the precedence order of R19. -/
inductive Status where
  | ok | late | etag | efeature | eperm | earg | estate | econflict | evirgin | epoison | ebusy | eqfull | eledger
  deriving DecidableEq, Repr

/-- What the last command answered to its sender: statuses, data words (or bytes), acknowledge bits. -/
structure Answer where
  status : List Status
  data : List Word
  acks : List Bool
  deriving DecidableEq, Repr

/-- One path's snapshot of the house-time views (R56). -/
structure Snap where
  now : Word64
  smp : Word64
  frm : Word64
  line : Word
  sub : Word
  seq : Word
  deriving DecidableEq, Repr

/-- A timestamp FIFO entry (R79, R80); `tag` is the host tag of a TRIGGER (16 once a FLUSH discarded its response), `posted`
whether it has no response. -/
structure Stamp where
  ts : Nat
  src : Nat
  falling : Bool
  tag : Nat
  posted : Bool
  deriving DecidableEq, Repr

/-- The house-time counter, its views, the timestamper and the GP pins (chapter 2). -/
structure TimeS where
  ht : Word64
  frac : Word
  incr : BitVec 40
  counting : Bool
  smp : Word64
  blk : Word64
  half : Bool
  frame : Word64
  snaps : Tab Snap
  logFifo : List Stamp
  strikeFifo : List Stamp
  lastEdge : Tab Nat
  gpLevel : BitVec 16
  gpSettle : BitVec 16
  deriving DecidableEq, Repr

/-- A pending re-anchor (R69, R85): the step Δ, the boundary B, and whether R85 requested it. -/
structure Anchor where
  delta : Int
  at' : Nat
  requested : Bool
  deriving DecidableEq, Repr

/-- A valid time-of-day sentence waiting for the next PPS edge (R77, R369): the label in TAI seconds, the offset, the
leap direction (0, 1, 2) and S_L. -/
structure Sentence where
  sec : Int
  ofs : Int
  dir : Nat
  leapAt : Int
  deriving DecidableEq, Repr

/-- The reference front end and loop (chapter 2). `found` counts the edges of the search (R496), `unitAt` is the unit counted last
as anomalous (for codes 10 to 12 its block, else the unit's place counted from the one that begins at `lastEdge`), `slew` the slew's offset in
2^-32 tk (R68), `ltcPrev` the time address of the last valid LTC frame and `ltcLast` that of the last one read forwards. -/
structure RefS where
  established : Bool
  lineCnt : Nat
  frameCnt : Nat
  lastEdge : Option Int
  offFrame : Option Nat
  searching : Bool
  found : Nat
  fromHold : Bool
  clean : Nat
  dirty : Bool
  rangeSec : Nat
  unitAnom : Bool
  unitAt : Int
  slew : Int
  incrHist : List (Nat × Nat)
  heldIncr : BitVec 40
  holdAt : Option Int
  everLocked : Bool
  aesRate : Nat
  newRate : Nat
  confirmL : Int
  confirmN : Nat
  labelL : Option Int
  hostLabel : Option (Nat × Nat)
  reanchor : Option Anchor
  waitSet : Option Nat
  anchoredOnce : Bool
  sentence : Option Sentence
  lastPps : Option Int
  ltcPrev : Option (Nat × Nat × Nat × Nat)
  ltcLast : Option (Nat × Nat × Nat × Nat)
  ltcAt : Option Nat
  leapAt : Option (Nat × Int)
  deriving DecidableEq, Repr

/-- An oscillator or LFO of a voice (R99 to R103, R110, R125): phase or position, the offsets B and D unreduced, the
effective increment of the last sample, the INC last used, and the phase wraps since binding. -/
structure Osc where
  ph : Int
  b : Int
  d : Int
  inc : Nat
  base : Nat
  wraps : Nat
  started : Bool
  deriving DecidableEq, Repr

/-- An envelope (R120 to R122): segment, its start instant, the level there, the present level, and the release. -/
structure Env where
  seg : Nat
  start : Int
  l0 : Int
  level : Int
  done : Bool
  released : Bool
  release : Option Int
  deriving DecidableEq, Repr

/-- The runtime state of a voice (R97, R132). -/
structure Voice where
  bound : Bool
  late : Bool
  bindSmp : Nat
  dEff : Int
  dNom : Int
  fam : Nat
  oscA : Osc
  oscB : Osc
  lfo1 : Osc
  lfo2 : Osc
  env1 : Env
  env2 : Env
  noise : Word
  f1s1 : Int
  f1s2 : Int
  f2s1 : Int
  f2s2 : Int
  y : Int
  sendA : Int
  sendB : Int
  overCost : Bool
  hard : Nat
  deriving DecidableEq, Repr

/-- A husk (R156): the handed-over sends, their buses and EN bits, the length R in samples and the samples done. -/
structure Husk where
  aA : Int
  aB : Int
  busA : Nat
  busB : Nat
  enA : Bool
  enB : Bool
  len : Nat
  k : Nat
  deriving DecidableEq, Repr

/-- A running VRAMP (R98): voice, field code of Table 5.8, end points, start instant and duration in tk. -/
structure Ramp where
  voice : Nat
  field : Nat
  v0 : Int
  v1 : Int
  start : Int
  dur : Nat
  deriving DecidableEq, Repr

/-- A global LFO's phase, wraps, INC of the last sample, RUN as last seen, and output (R126). -/
structure Glfo where
  ph : Nat
  wraps : Nat
  inc : Nat
  run : Bool
  val : Int
  deriving DecidableEq, Repr

/-- The sentinel lane (R163 to R166): the voice under check, its copied runtime state, both CRC registers, the block, one
more than the voice checked last, and a complete check that waits for the end of its block (voice, both CRCs, block). -/
structure Sentinel where
  active : Bool
  voice : Nat
  copy : Voice
  live : Word
  ref : Word
  blk : Nat
  last : Nat
  done : Option (Nat × Word × Word × Nat)
  inject : Bool
  deriving DecidableEq, Repr

/-- The swarm (chapter 3). `snap` holds the parameter words +0x000 to +0x12C of the sample under render (R93), `snapErr`
the voices whose snapshot met an uncorrectable or POISON line, `ramped` the voices and fields that a ramp moved in it, and
`ctl` the global controls as they applied. -/
structure SwmS where
  voices : Tab Voice
  husks : Tab Husk
  ramps : List Ramp
  acc : Tab Int
  glfo : Tab Glfo
  sen : Sentinel
  snap : Tab (List Word)
  snapErr : List Nat
  ramped : List (Nat × Nat)
  ctl : List Int
  deriving DecidableEq, Repr

/-- A swarm operation (R142). -/
inductive SwOp where
  | von (allocated : Bool) (patch : Option Nat) (velocity : Nat)
  | voff
  | vset (word : Nat) (value : Word)
  | vramp (field : Nat) (v1 : Nat) (dur : Nat)
  | vkill
  | valloc
  | vfree
  | modset (slot : Nat) (value : Word)
  | busset (send : Word) (lvl : Word)
  deriving DecidableEq, Repr

/-- A request to the ledger (R50, R188): the operation, the family or voice it names, its class and due time. -/
structure SwReq where
  op : SwOp
  target : Nat
  imm : Bool
  due : Nat
  deriving DecidableEq, Repr

/-- The ledger's answer (R153, R189). -/
structure LedgerAns where
  status : Status
  voice : Nat
  molt : Bool
  hard : Bool
  etime : Nat
  deriving DecidableEq, Repr

/-- An entry of the timed event queue (R154): admission order, effective and original due time, class, operation, voice,
family, binding charge, reserved husk with its length, and whether the entry steals a voice, molts or is hard. -/
structure QEntry where
  seq : Nat
  due : Nat
  dNom : Nat
  imm : Bool
  late : Bool
  op : SwOp
  voice : Nat
  fam : Nat
  charge : Nat
  steals : Bool
  husk : Bool
  huskLen : Nat
  hard : Bool
  carried : Bool
  deriving DecidableEq, Repr

/-- The voice table (R140, R148): HELD and the family of the binding or pending onset. -/
structure VEntry where
  held : Bool
  fam : Nat
  deriving DecidableEq, Repr

/-- A strike onset waiting for its window (R159, R160). -/
structure Strike where
  src : Nat
  slot : Nat
  ts : Nat
  onset : Nat
  late : Bool
  tag : Nat
  posted : Bool
  deriving DecidableEq, Repr

/-- The allocator, ledger and strike path (chapter 4). A reserved husk is (admission order, first sample, last sample);
`charge` is the sum of the binding charges of the sample under render. -/
structure AlcS where
  queue : List QEntry
  seq : Nat
  vtab : Tab VEntry
  huskRes : List (Nat × Nat × Nat)
  strikes : List Strike
  window : Nat
  charge : Nat
  deriving DecidableEq, Repr

/-- Thread states of Table 5.1. -/
inductive ThState where
  | stopped | ready | waiting | halted | trapped
  deriving DecidableEq, Repr

/-- An outstanding swarm operation (R188, R189): its destination register, the request, and the answer when given. -/
structure Outst where
  rd : Nat
  req : SwReq
  ans : Option LedgerAns
  deriving DecidableEq, Repr

/-- The trigger latch (R194). -/
structure Latch where
  mask : BitVec 17
  full : Bool
  ts : Nat
  src : Nat
  deriving DecidableEq, Repr

/-- A cue thread (R175). `wait` is the reason of CUE_THn_STAT.WAIT, `target` the release instant of a timed wait, `winst`
the waiting WAITTRIG or WAITSIG and `wmask` its mask. -/
structure Thread where
  state : ThState
  wait : Nat
  target : Nat
  g : Tab Word
  t : Tab Word64
  fz : Bool
  fn : Bool
  fc : Bool
  fl : Bool
  pc : Nat
  cursor : Word64
  stack : List Nat
  sigWord : BitVec 16
  latch : Latch
  outst : Option Outst
  errTrap : Option Status
  etime : Word64
  trigTs : Word64
  lastSt : Nat
  cause : Nat
  code : Nat
  winst : Word
  wmask : Word
  deriving DecidableEq, Repr

/-- The cue engine (chapter 5): the thread that issued last, and of each thread the cycles of its instruction still to come (R179). -/
structure CueS where
  threads : Tab Thread
  last : Nat
  busy : Tab Nat
  deriving DecidableEq, Repr

/-- A response record (Table 6.6). -/
structure Record where
  kind : Nat
  src : Nat
  status : Nat
  flags : Nat
  val0 : Word
  val1 : Word64
  deriving DecidableEq, Repr

/-- An accepted command in the input stream (Table 6.4); `ts` is the timestamp of a TRIGGER. -/
structure HostCmd where
  opc : Nat
  tag : Nat
  imm : Bool
  post : Bool
  due : Nat
  args : List Byte
  ts : Nat
  deriving DecidableEq, Repr

/-- An item of the input stream (R220). -/
inductive HostItem where
  | wr (addr : Nat) (data : List Byte) (rivals : List Req)
  | cmd (c : HostCmd)
  | flush
  deriving DecidableEq, Repr

/-- The host command port (chapter 6). -/
structure HcpS where
  held : BitVec 16
  exec : BitVec 16
  stream : List HostItem
  ledgerReq : Option SwReq
  rsp : List Record
  active : Word64
  deriving DecidableEq, Repr

/-- A line's tag (R238): the stored state code, and for each of the four words the difference between its stored 72 bits
and the encoding of its data, which is where an injected or spontaneous error shows. -/
structure LineTag where
  code : BitVec 2
  e0 : BitVec 72
  e1 : BitVec 72
  e2 : BitVec 72
  e3 : BitVec 72
  deriving DecidableEq, Repr

/-- The region engine (R253): whether it wipes, the next line, the lines left, the CRC register, STRICT. -/
structure Region where
  wipe : Bool
  line : Nat
  left : Nat
  strict : Bool
  deriving DecidableEq, Repr

/-- The flash controller (R257 to R262): the sector being erased, the address of its journal record, whether the erase
is suspended, and the page being programmed. -/
structure FlashS where
  erasing : Option Nat
  journal : Nat
  suspended : Bool
  page : Option (Nat × List Byte)
  deriving DecidableEq, Repr

/-- The on-chip memory (chapter 7). -/
structure MemS where
  bytes : List Host.Cell
  tags : Tab LineTag
  ceQueue : List Nat
  ueQueue : List Nat
  scrub : Nat
  scrubbed : Nat
  pass : Nat
  region : Option Region
  wiping : BitVec 13
  rr : Tab Nat
  flash : FlashS
  windowOpen : Bool
  deriving DecidableEq, Repr

/-- An output port (R268 to R274, R285, R290): whether it runs and whether the DAC's stop ramp is under way, its FIFO (a
value per channel and the sample index), mute factor, samples given since the start, the signature under way, the codes
last sent, and the frames since the last Z preamble. -/
structure Port where
  run : Bool
  stopping : Bool
  fifo : List (List Int × Nat)
  m : Nat
  count : Nat
  crc : Word
  sigN : Nat
  sigBlk : Nat
  sigOpen : Bool
  codes : List Int
  frames : Option Nat
  deriving DecidableEq, Repr

/-- A DAC channel's range state (R278 to R281): range in force, factor r, search and fallback positions. -/
structure DacCh where
  act : Bool
  r : Nat
  search : Option Nat
  fall : Option Nat
  prev : Int
  deriving DecidableEq, Repr

/-- The outputs (chapter 8). `startClamp` and `faultClamp` clamp the DAC (R276, R283), `otRamp` is the ramp down to the
latter, `okBlocks` counts towards its release, `restart` is OT_RESTART, `inject` the signatures to invert, `muteLow` the
level of MUTE_N, `vals` the OUT_SIGp_VAL each path latched. -/
structure OutS where
  ports : Tab Port
  dac : Tab DacCh
  startClamp : Bool
  faultClamp : Bool
  otRamp : Bool
  okBlocks : Nat
  restart : Bool
  inject : BitVec 7
  muteLow : Bool
  ltcWord : Option (BitVec 80)
  ltcFrame : Nat
  vals : Tab (Option Word)
  deriving DecidableEq, Repr

/-- A TCU channel's state outside its registers (R300). -/
structure Channel where
  acc : Nat
  edges : Nat
  level : Bool
  pinIn : Bool
  run : Bool
  armed : Bool
  deriving DecidableEq, Repr

/-- The Timer/Counter Unit (chapter 9). -/
structure TcuS where
  ch : Tab Channel
  hil : Tab Word
  deriving DecidableEq, Repr

/-- In-band attention (R341, R342): the XI cycles that the request on the bus still lasts, the instant of the last complete request since
the condition became true, and the instant of the last STOP. -/
structure IbaS where
  onBus : Nat
  sent : Option Nat
  stopAt : Nat
  deriving DecidableEq, Repr

/-- The two-wire target (chapter 10). `cmd` is the running management command: its code, its argument, and its outcome once
known. `attn` and `attnEn` are the AON copies of HCP_ATTN_CAUSE and HCP_ATTN_EN while the CORE domain is off, and `w1c` the
causes cleared meanwhile (R334). `cmdBad` says that an item of the running command's own transfer failed (R333). -/
structure TwtS where
  ptr : Nat
  page : Nat
  pageHi : Option Nat
  arg : Byte
  lastSt : Nat
  err : Bool
  seq : Byte
  cmd : Option (Nat × Nat × Option Status)
  strExp : Bool
  addressed : Bool
  stretch : Bool
  attn : BitVec 9
  attnEn : BitVec 9
  w1c : BitVec 9
  addrPins : BitVec 2
  cmdBad : Bool
  iba : IbaS
  deriving DecidableEq, Repr

/-- The two-wire controller (chapter 10): FIFOs, the transfer under way (TWC_XFER and TWC_DMA_ADDR as GO found them), the data
bytes moved, the bytes it has sent, the received bytes of a line that DMA has not yet written, the retries made, whether the
transfer waits for a retry, the bytes that a retry sends again (R347), and whether RX was ever popped. -/
structure TwcS where
  tx : List Byte
  rx : List Byte
  xfer : Word
  dma : Nat
  moved : Nat
  sent : List Byte
  buf : List Byte
  retries : Nat
  lost : Bool
  again : List Byte
  popped : Bool
  deriving DecidableEq, Repr

/-- A UART0 receive entry (R359): nine data bits and the flags NOISE, FRAME, PAR, BREAK. -/
structure RxEntry where
  data : BitVec 9
  flags : BitVec 4
  deriving DecidableEq, Repr

/-- UART0 (chapter 11). `shift` is the character being sent with the instant at which it ends, `cand` a candidate sentence,
`first` says that no character has come since the port started; `line` is the DMA line buffer, `lineAt` its line's offset in
the ring and `written` how many of its bytes are written; `slowOn` says that the slow receiver watches, `slowSel` that it has
matched, `rxBusy` that a character is being received (R372). -/
structure Ua0S where
  rx : List RxEntry
  tx : List (BitVec 9)
  shift : Option (BitVec 9 × Nat)
  cand : Option (List RxEntry)
  first : Bool
  prevLf : Bool
  selected : Bool
  rtsLow : Bool
  ctsLow : Bool
  line : List Byte
  lineAt : Nat
  written : Nat
  slowBuf : List RxEntry
  slowSel : Bool
  slowOn : Bool
  rxBusy : Bool
  deriving DecidableEq, Repr

/-- UART1, the card interface (chapter 11): the level of CARD_DET, whether CARD_CLK runs, the ATR's bytes so far, the header
bytes sent and data bytes moved of an exchange, its procedure state and SW1, the queues, the DMA line buffer, the repetitions
of the present character, the instant until which ACT is refused, the levels of CARD_RST_N and CARD_VCC_EN, whether CARD_IO is released
(R373, R381), the XI cycles of the deactivation still to come with its CLKDIV, the characters sent in the exchange, and received bytes that
wait for room in the queue (R380). -/
structure Ua1S where
  det : Bool
  clk : Bool
  atr : List Byte
  sent : Nat
  pos : Nat
  all : Bool
  one : Bool
  sw1 : Option Byte
  tx : List Byte
  rx : List Byte
  line : List Byte
  rep : Nat
  lockout : Nat
  rstHigh : Bool
  vccEn : Bool
  ioFree : Bool
  deact : Option (Nat × Nat)
  out : List Byte
  wait : List Byte
  deriving DecidableEq, Repr

/-- The power controller (chapter 12): the supplies above their thresholds, whether the power-on reset is held (Table 12.7), the VIO_B
level detected at power-on, the state being entered, the floor's instant and state as ARM found them, whether QCS_N is low, the house
times at which a state of IDLE, DOZE or NAP was entered (`idleAt`, `sleptAt`, `napAt`: the instants from which the clocks of the swarm, of
the cue engine and of the rest of CORE stood), whether a known event passed during the sleep (R415), the event that the scheduled wake
serves with the guard it was scheduled with (R416), and the next event and the conditions of Table 12.4 as last evaluated (R393). -/
structure PwrS where
  vaon : Bool
  vioA : Bool
  porHeld : Bool
  vcore : Bool
  vioB : Bool
  vioB18 : Bool
  vana : Bool
  vref : Bool
  vdacHi : Bool
  target : Nat
  floorAt : Word64
  floorState : Nat
  qcsLow : Bool
  idleAt : Word64
  sleptAt : Word64
  napAt : Word64
  late : Bool
  sched : Option (Nat × Nat)
  seenNext : Option (Nat × Nat)
  seenFails : List Bool
  deriving DecidableEq, Repr

/-- How far start-up has come (Table 12.7). -/
inductive Phase where
  | awaitXi | awaitPll | awaitJournal | awaitStart | awaitSettings | ready
  deriving DecidableEq, Repr

/-- Reset, start-up and life cycle (chapter 12). `lc`, `wiped` and `keysOff` are fuses; `lcPend` is the target of a pending
request, made at `lcSince`, and `lcGo` that of a confirmed transition. -/
structure SysS where
  phase : Phase
  lc : BitVec 2
  wiped : BitVec 4
  keysOff : Bool
  lcPend : Option (BitVec 2)
  lcSince : Nat
  lcGo : Option (BitVec 2)
  startAt : Nat
  fuseErr : BitVec 13
  repair : Tab (BitVec 3)
  mgmtReset : Bool
  deriving DecidableEq, Repr

/-- The update control (chapter 13): the running step and its outcome (status, reason, part, block), whether the card's
application is selected and which EF, whether a trial runs, the last token, whether the CONFIRMED marker is
being programmed, the attempt (1 or 2) whose copy start-up is to make,
the instant at which the deadline expires, and whether the step that ends asks for a CORE reset. -/
structure UpdS where
  step : Option Nat
  outcome : Option (Status × Nat × Nat × Nat)
  app : Bool
  ef : Option Nat
  trial : Bool
  token : Word
  confirming : Bool
  copy : Option Nat
  deadline : Nat
  wantReset : Bool
  deriving DecidableEq, Repr

/-- A fault log entry (R455). -/
structure LogEntry where
  cls : Nat
  kind : Nat
  wcnt : Nat
  blk : Word64
  detail : Word
  deriving DecidableEq, Repr

/-- The fault classes and log (chapter 14). -/
structure FltS where
  hist : Tab (List Nat)
  log : List LogEntry
  latch : Tab (Word × Word)
  peer : List (Word × Word × Bool)
  lastUe : Option (Nat × Nat)
  aonLog : List LogEntry
  aonLost : Nat
  aonEvents : BitVec 5
  aonWin : Nat
  aonThr : Nat
  aonAct : BitVec 3
  healthPin : Bool
  deriving DecidableEq, Repr

/-- The TAP instructions of Table 15.13. -/
inductive Tap where
  | extest | samplePreload | idcode | clamp | highz | bypass | dbgHalt | dbgRelease | dbgReg
  deriving DecidableEq, Repr

/-- JTAG and debug halt (chapter 15). -/
structure DbgS where
  ir : Tap
  cells : List Bool
  capture : Word64
  deriving DecidableEq, Repr

/-- The device: everything the manual gives the block. `regs` is the state of record of every register (shadows for
STAGED fields), `applied` the applied values of STAGED fields, `setters` the last setter of each field or byte set in
this block (R35), `held` the held low words (R94). -/
structure Dev where
  out : Answer
  fresh : Nat
  regs : Tab Word
  applied : Tab Word
  setters : Tab Nat
  held : Tab (Option Word)
  time : TimeS
  ref : RefS
  swm : SwmS
  alc : AlcS
  cue : CueS
  hcp : HcpS
  mem : MemS
  outp : OutS
  tcu : TcuS
  twt : TwtS
  twc : TwcS
  ua0 : Ua0S
  ua1 : Ua1S
  pwr : PwrS
  sys : SysS
  upd : UpdS
  flt : FltS
  dbg : DbgS
  deriving DecidableEq, Repr

/-- The state: the queue of waiting commands, first in first out, and the device. -/
structure State where
  pending : List Instr
  dev : Dev
  deriving DecidableEq, Repr

/-- The nominal increment 128.0 tk (R54). -/
def nominalIncr : BitVec 40 := 0x8000000000

def Answer.empty : Answer := ⟨[], [], []⟩
def Osc.zero : Osc := ⟨0, 0, 0, 0, 0, 0, false⟩
def Env.zero : Env := ⟨0, 0, 0, 0, false, false, none⟩

/-- A voice that is not bound: its runtime words read 0 (R132). -/
def Voice.free : Voice :=
  ⟨false, false, 0, 0, 0, 0, .zero, .zero, .zero, .zero, .zero, .zero, 0, 0, 0, 0, 0, 0, 0, 0, false, 0⟩

def Husk.free : Husk := ⟨0, 0, 0, 0, false, false, 0, 0⟩
def Glfo.zero : Glfo := ⟨0, 0, 0, false, 0⟩
def Sentinel.zero : Sentinel := ⟨false, 0, .free, 0, 0, 0, 0, none, false⟩
def VEntry.free : VEntry := ⟨false, 0⟩

/-- A thread after reset (Table 5.1, R175). -/
def Thread.zero : Thread :=
  ⟨.stopped, 0, 0, [], [], false, false, false, false, 0, 0, [], 0, ⟨0, false, 0, 0⟩, none, none, 0, 0, 0, 0, 0, 0, 0⟩

/-- The tag of a VIRGIN line (Table 7.2). -/
def LineTag.virgin : LineTag := ⟨0, 0, 0, 0, 0⟩
def Snap.zero : Snap := ⟨0, 0, 0, 1, 0, 0⟩
def Port.zero : Port := ⟨false, false, [], 64, 0, 0, 0, 0, false, [], none⟩
def DacCh.zero : DacCh := ⟨false, 64, none, none, 0⟩
def Channel.zero : Channel := ⟨0, 0, false, false, false, false⟩

/-- The header that slot A is shipped with (R423): GEN 1, PKG_ID 0, COPIED and CONFIRMED set. The manual gives no OWN_REC, schema
or versions for it: they are 0 (DESIGN CHOICE, log 15). -/
def shippedHeader : List Byte :=
  [0x53, 0x4C, 0x4F, 0x54, 1, 0, 0, 0] ++ List.replicate 120 0 ++ [0xFF, 0x66, 0xFF, 0xCF]

/-- The shipped flash: slot A's header, the rest erased; a byte 0xFF is as erased flash reads. -/
def shippedFlash : List Host.Cell :=
  ((shippedHeader.zipIdx.map fun p => (0x04000000 + p.2, p.1)).filter fun c => c.2 != 0xFF#8)
    ++ ((List.range 4).map fun i => (0x04000100 + i, 0#8)) ++ ((List.range 4).map fun i => (0x0400010C + i, 0#8))

/-- The AON blocks' and the CORE blocks' state after reset, block by block. -/
def TimeS.reset : TimeS := ⟨0, 0, nominalIncr, false, 0, 0, false, 0, [], [], [], [], 0, 0⟩
def RefS.reset : RefS where
  established := false
  lineCnt := 0
  frameCnt := 0
  lastEdge := none
  offFrame := none
  searching := false
  found := 0
  fromHold := false
  clean := 0
  dirty := true
  rangeSec := 0
  unitAnom := false
  unitAt := 0
  slew := 0
  incrHist := []
  heldIncr := nominalIncr
  holdAt := none
  everLocked := false
  aesRate := 0
  newRate := 0
  confirmL := 0
  confirmN := 0
  labelL := none
  hostLabel := none
  reanchor := none
  waitSet := none
  anchoredOnce := false
  sentence := none
  lastPps := none
  ltcPrev := none
  ltcLast := none
  ltcAt := none
  leapAt := none

def SwmS.reset : SwmS := ⟨[], [], [], [], [], .zero, [], [], [], []⟩
def AlcS.reset : AlcS := ⟨[], 0, [], [], [], 0, 0⟩
def CueS.reset : CueS := ⟨[], 15, []⟩
def HcpS.reset : HcpS := ⟨0, 0, [], none, [], 0⟩
def FlashS.reset : FlashS := ⟨none, 0, false, none⟩
def MemS.reset : MemS := ⟨shippedFlash, [], [], [], 0, 0, 0, none, 0x1FFF, [], .reset, false⟩
def OutS.reset : OutS := ⟨[], [], false, false, false, 0, false, 0, true, none, 0, []⟩
def TcuS.reset : TcuS := ⟨[], []⟩
def TwtS.reset : TwtS := ⟨0, 0, none, 0, 0, false, 0, none, false, false, false, 0x080, 0x1FF, 0, 0, false, ⟨0, none, 0⟩⟩
def TwcS.reset : TwcS := ⟨[], [], 0, 0, 0, [], [], 0, false, [], false⟩
def Ua0S.reset : Ua0S := ⟨[], [], none, none, false, false, false, false, false, [], 0, 0, [], false, false, false⟩
def Ua1S.reset : Ua1S := ⟨false, false, [], 0, 0, false, false, none, [], [], [], 0, 0, false, false, false, none, [], []⟩
def PwrS.reset : PwrS := ⟨true, true, false, true, true, false, true, true, false, 0, 0, 3, false, 0, 0, 0, false, none, none, []⟩
def SysS.reset : SysS := ⟨.awaitXi, 0, 0, false, none, 0, none, 0, 0, [], false⟩
def UpdS.reset : UpdS := ⟨none, none, false, none, false, 0, false, none, 0, false⟩
def FltS.reset : FltS := ⟨[], [], [], [], none, [], 0, 0, 1000, 8, 0, false⟩
def DbgS.reset : DbgS := ⟨.idcode, [], 0⟩

/-- The device right after a power-on reset: start-up stands at step 2 of Table 12.7 (AON released, house time held at
0), every register at the Reset column of its table, every array being wiped (R256). -/
def Dev.reset : Dev where
  out := .empty
  fresh := 0
  regs := []
  applied := []
  setters := []
  held := []
  time := .reset
  ref := .reset
  swm := .reset
  alc := .reset
  cue := .reset
  hcp := .reset
  mem := .reset
  outp := .reset
  tcu := .reset
  twt := .reset
  twc := .reset
  ua0 := .reset
  ua1 := .reset
  pwr := .reset
  sys := .reset
  upd := .reset
  flt := .reset
  dbg := .reset

/-- The machine right after reset: no command waits. -/
def State.reset : State := ⟨[], Dev.reset⟩

end Sys2Proof.Machine
end

