-- ==== Sys2Proof/Machine/Ops.lean ====
section
/-! DEFINITION. The named operations of the block: fields and registers, statuses, counters, house time, and the shape of
every meaning. -/

namespace Sys2Proof

/-! ### Paths (R32, R36) -/

def Path.isMgmt : Path → Bool
  | .mgmt => true
  | _ => false

/-- Precedence in one ECLK cycle (R36): the lower wins. It also numbers the paths in per-path tables. -/
def Path.rank : Path → Nat
  | .mgmt => 0
  | .host => 1
  | .cue th => 2 + th.val

/-- CONF_SRC of Table 1.6. -/
def Path.confSrc : Path → Nat
  | .mgmt => 1
  | .host => 2
  | .cue _ => 3

/-- CONF_THREAD of Table 1.6. -/
def Path.confThread : Path → Nat
  | .cue th => th.val
  | _ => 0

/-- The two sides of R32: 1 management, 2 data path and cue threads. -/
def Path.side : Path → Nat
  | .mgmt => 1
  | _ => 2

end Sys2Proof

namespace Sys2Proof.Machine

/-! ### Meanings -/

/-- A meaning that acts on the device and leaves the queue to `step`. -/
def State.effect (s : State) (f : Dev → Dev) : Host.Outcome State Fault Refusal := .next { s with dev := f s.dev }

/-- The device with the answer of the command just run: statuses, data words and acknowledge bits. -/
def Dev.answer (d : Dev) (st : List Status) (data : List Word := []) (acks : List Bool := []) : Dev :=
  { d with out := ⟨st, data, acks⟩ }

/-! ### Fields and registers (R7, R8) -/

/-- Bits `[lo + n - 1 : lo]` of a word. -/
def bitsOf (w : Word) (lo n : Nat) : Nat := (w >>> lo).toNat % 2 ^ n

/-- The mask of bits `[lo + n - 1 : lo]`. -/
def fieldMask (lo n : Nat) : Word := BitVec.ofNat 32 (2 ^ n - 1) <<< lo

/-- The word with `v` in bits `[lo + n - 1 : lo]`. -/
def insBits (w : Word) (lo n v : Nat) : Word :=
  (w &&& ~~~fieldMask lo n) ||| (BitVec.ofNat 32 (v % 2 ^ n) <<< lo)

/-- The state of record of the register at `a` (R33); for STAGED fields the shadow. -/
def Dev.reg (d : Dev) (a : Nat) : Word := Tab.get regReset d.regs a

/-- The register at `a` takes `w`. -/
def Dev.setReg (d : Dev) (a : Nat) (w : Word) : Dev := { d with regs := Tab.set regReset d.regs a w }

/-- A field of the state of record. -/
def Dev.get (d : Dev) (f : Fld) : Nat := bitsOf (d.reg f.addr) f.lo f.w

/-- A one-bit field. -/
def Dev.on (d : Dev) (f : Fld) : Bool := d.get f != 0

/-- A field takes `v`. -/
def Dev.put (d : Dev) (f : Fld) (v : Nat) : Dev := d.setReg f.addr (insBits (d.reg f.addr) f.lo f.w v)

/-- The applied value of a STAGED field (R41). -/
def Dev.ap (d : Dev) (f : Fld) : Nat := bitsOf (Tab.get regReset d.applied f.addr) f.lo f.w

/-- An applied one-bit field. -/
def Dev.apOn (d : Dev) (f : Fld) : Bool := d.ap f != 0

/-- Give the applied value of a field. -/
def Dev.putAp (d : Dev) (f : Fld) (v : Nat) : Dev :=
  { d with applied := Tab.set regReset d.applied f.addr (insBits (Tab.get regReset d.applied f.addr) f.lo f.w v) }

/-- A 64-bit quantity in two registers, low word first (R7). -/
def Dev.get64 (d : Dev) (lo hi : Fld) : Nat := d.get lo + 2 ^ 32 * d.get hi

/-- Both words of a 64-bit quantity. -/
def Dev.put64 (d : Dev) (lo hi : Fld) (v : Nat) : Dev := (d.put lo (v % 2 ^ 32)).put hi (v / 2 ^ 32)

/-- A counter counts `n` events: it saturates (R86, R137, R235, R265, R466). -/
def Dev.bumpBy (d : Dev) (f : Fld) (n : Nat) : Dev := d.put f (min (2 ^ f.w - 1) (d.get f + n))

/-- A counter counts one event. -/
def Dev.bump (d : Dev) (f : Fld) : Dev := d.bumpBy f 1

/-- Do `f` when `c` holds. -/
def Dev.whenB (d : Dev) (c : Bool) (f : Dev → Dev) : Dev := if c then f d else d

/-- Do `f` for every element of a list, in order. -/
def Dev.each {α : Type} (d : Dev) (l : List α) (f : α → Dev → Dev) : Dev := l.foldl (fun d a => f a d) d

/-- A draw number for a free value; each draw is fresh. -/
def Dev.draw (d : Dev) : Nat × Dev := (d.fresh, { d with fresh := d.fresh + 1 })

/-! ### Statuses (R18, R19, R225) -/

/-- The numeric value of a status (Table 6.7). -/
def Status.code : Status → Nat
  | .ok => 0x00 | .late => 0x01 | .etag => 0x10 | .efeature => 0x11 | .eperm => 0x12 | .earg => 0x13
  | .estate => 0x14 | .econflict => 0x15 | .evirgin => 0x16 | .epoison => 0x17 | .ebusy => 0x18
  | .eqfull => 0x19 | .eledger => 0x1A

/-- Whether a status is an error: every code but OK and LATE. -/
def Status.isError (s : Status) : Bool := decide (0x10 ≤ s.code)

/-- The rank of a status in the order of R19: the lower is reported. -/
def Status.rank : Status → Nat
  | .late => 0x1E
  | .ok => 0x1F
  | s => s.code

/-- The status that R19 reports of two that apply. -/
def Status.worse (a b : Status) : Status := if b.rank < a.rank then b else a

/-- The status that R19 reports of those that apply; OK when none does. -/
def Status.first (l : List Status) : Status := l.foldl Status.worse .ok

/-! ### House time (R4, R28) -/

/-- House time now. -/
def Dev.now (d : Dev) : Nat := d.time.ht.toNat

/-- One block in ticks (R4). -/
def blockTk : Nat := 3145728

/-- One second in ticks (R4). -/
def secondTk : Nat := 3145728000

/-- Whether the sample rate is 96 kHz. -/
def Dev.rate96 (d : Dev) : Bool := d.on F.swmCtrlRate

/-- The sample period P (R28). -/
def Dev.period (d : Dev) : Nat := if d.rate96 then 32768 else 65536

/-- Ticks of `j` ECLK cycles (R4), rounded. -/
def eclkTk (j : Nat) : Nat := (j * 128 + 5) / 10

/-- The block of house time (R449). -/
def Dev.blockIx (d : Dev) : Nat := d.now / blockTk

/-- House time divided by `n` with halves rounded up. -/
def roundDiv (a : Int) (n : Nat) : Int := (2 * a + n) / (2 * n)

/-! ### Power (R389) and features (R14) -/

/-- PWR_STATUS.STATE: 0 RUN, 1 IDLE, 2 DOZE, 3 NAP. -/
def Dev.power (d : Dev) : Nat := d.get F.pwrStatusState

/-- Whether the CORE domain runs (R389, R405). -/
def Dev.coreOn (d : Dev) : Bool :=
  decide (d.power < 2) && decide (d.sys.phase ≠ .awaitXi) && decide (d.sys.phase ≠ .awaitPll)

/-- Whether the CORE domain is switched off or not yet released (R389, R405). -/
def Dev.coreOff (d : Dev) : Bool :=
  decide (d.power = 3) || decide (d.sys.phase = .awaitXi) || decide (d.sys.phase = .awaitPll)

/-- Whether start-up has ended (R405). -/
def Dev.isReady (d : Dev) : Bool := d.on F.sysStatusReady

/-- Whether feature bit `b` of Table 0.4 is in the active set (R14). -/
def Dev.feature (d : Dev) (b : Nat) : Bool := d.hcp.active.getLsbD b

/-- The feature bits of Table 0.4. -/
def Feat.swarm : Nat := 0
def Feat.cue : Nat := 1
def Feat.housePhase : Nat := 2
def Feat.strike : Nat := 3
def Feat.sentinel : Nat := 4
def Feat.outSig : Nat := 5
def Feat.ltcOut : Nat := 6
def Feat.tdm : Nat := 7
def Feat.aesCsOvr : Nat := 8
def Feat.rate96 : Nat := 9
def Feat.memRotate : Nat := 10
def Feat.pwrNap : Nat := 11
def Feat.tcuHost : Nat := 12
def Feat.gpHost : Nat := 13

/-! ### CRC-32C (R164): reflected, polynomial 0x1EDC_6F41, initial value and final exclusive-or all ones. -/

/-- One bit of the reflected CRC register. -/
def crcBit (c : Word) : Word := if c.getLsbD 0 then (c >>> 1) ^^^ 0x82F63B78#32 else c >>> 1

/-- One byte into the CRC register. -/
def crcByte (c : Word) (b : Byte) : Word := Nat.repeat crcBit 8 (c ^^^ b.zeroExtend 32)

/-- Bytes into the CRC register. -/
def crcBytes (c : Word) (l : List Byte) : Word := l.foldl crcByte c

/-- CRC-32C of a list of bytes. -/
def crc32c (l : List Byte) : Word := crcBytes 0xFFFFFFFF#32 l ^^^ 0xFFFFFFFF#32

/-! ### Sorting -/

/-- `x` before the first element that it is not to follow. -/
def insertBy {α : Type} (le : α → α → Bool) (x : α) : List α → List α
  | [] => [x]
  | y :: t => if le x y then x :: y :: t else y :: insertBy le x t

/-- A stable sort. -/
def sortBy {α : Type} (le : α → α → Bool) (l : List α) : List α := l.foldr (insertBy le) []

/-! ### Bytes, little-endian (R7) -/

/-- The `n` bytes of a number, lowest first. -/
def bytesOf (v : Nat) : Nat → List Byte
  | 0 => []
  | n + 1 => BitVec.ofNat 8 v :: bytesOf (v / 256) n

/-- The number that bytes spell, lowest first. -/
def ofBytes : List Byte → Nat
  | [] => 0
  | b :: t => b.toNat + 256 * ofBytes t

/-- The two's complement value of the low `n` bits. -/
def signed (n v : Nat) : Int := if v % 2 ^ n < 2 ^ (n - 1) then (v % 2 ^ n : Nat) else (v % 2 ^ n : Nat) - (2 ^ n : Nat)

end Sys2Proof.Machine
end

