-- ==== Sys2Proof/Machine/Tables.lean ====
section
/-! DEFINITION. The tables of the swarm's arithmetic, computed to the formulas that the manual gives them: pitch factors
X (R102), the sine table T (R104), the envelope table E (R121) and the filter table G (R117). Reals are held as integers
at 2^160 = 1.0, far finer than any entry's distance from a rounding tie. -/

namespace Sys2Proof.Machine

/-- 1.0 at 160 binary places. -/
def fxOne : Nat := 1 <<< 160

/-- π at 160 binary places. -/
def fxPi : Nat := 4591442807048218921384805199743311128454155024418

/-- The natural logarithm of 2 at 160 binary places. -/
def fxLn2 : Nat := 1013035739299659071135698605846798551586536899366

/-- The sum of `n` further terms of the exponential series from term `t` of index `i`. -/
def expTerms (x : Nat) : Nat → Nat → Nat → Nat
  | 0, _, _ => 0
  | n + 1, i, t => t + expTerms x n (i + 1) (t * x / ((i + 1) * fxOne))

/-- e^x for 0 ≤ x ≤ 6. -/
def fxExp (x : Nat) : Nat := expTerms x 90 0 fxOne

/-- The alternating sum of the terms of sine (from index 1) or cosine (from index 0), squares of `x` at a time. -/
def trigTerms (x2 : Nat) : Nat → Nat → Nat → Int
  | 0, _, _ => 0
  | n + 1, i, t => (t : Int) - trigTerms x2 n (i + 2) (t * x2 / ((i + 1) * (i + 2) * fxOne))

/-- sin x for 0 ≤ x ≤ 2. -/
def fxSin (x : Nat) : Int := trigTerms (x * x / fxOne) 30 1 x

/-- cos x for 0 ≤ x ≤ 2. -/
def fxCos (x : Nat) : Int := trigTerms (x * x / fxOne) 30 0 fxOne

/-- The nearest integer to `num / den`, halves up. -/
def fxRound (num : Int) (den : Nat) : Int := (2 * num + den) / (2 * den)

/-- T[i] = round((2^23 − 1) × sin(π·i/2,048)), i from 0 to 1,024 (R104). -/
def sineTable (i : Nat) : Int := fxRound ((2 ^ 23 - 1) * fxSin (fxPi * i / 2048)) fxOne

/-- 2^(k/4096) for k below 4,096, at 160 binary places. -/
def fxPow2 (k : Nat) : Nat := fxExp (fxLn2 * k / 4096)

/-- X[k] = round(2^30 × 2^(k/4096)) (R102). -/
def pitchTable (k : Nat) : Nat := (fxRound ((2 ^ 30 * fxPow2 k : Nat) : Int) fxOne).toNat

/-- E[k] = round(65,536 × (1 − e^(−5k/256)) / (1 − e^(−5))), k from 0 to 256 (R121). -/
def envTable (k : Nat) : Int :=
  let inv (x : Nat) : Nat := fxOne * fxOne / fxExp x
  fxRound (65536 * ((fxOne - inv (5 * k * fxOne / 256) : Nat) : Int)) (fxOne - inv (5 * fxOne))

/-- G = round(2^29 × tan(π × fc / fs)) with fc = 20 × 2^(C/4,096) Hz (R117). -/
def filterTable (fs c : Nat) : Int :=
  let x := fxPi * 20 * (fxPow2 (c % 4096) * 2 ^ (c / 4096)) / (fs * fxOne)
  fxRound (2 ^ 29 * fxSin x) (fxCos x).toNat

end Sys2Proof.Machine
end

