-- ==== Sys2Proof/Machine/Count.lean ====
section
/-! DEFINITION. How the channels of the Timer/Counter Unit count (R301, R302, R305, R307, R311, R312). -/

namespace Sys2Proof.Machine

/-- The state of channel `n` that stands in no register. -/
def Dev.chan (d : Dev) (n : Nat) : Channel := Tab.get (fun _ => Channel.zero) d.tcu.ch n

def Dev.setChan (d : Dev) (n : Nat) (c : Channel) : Dev :=
  { d with tcu := { d.tcu with ch := Tab.set (fun _ => Channel.zero) d.tcu.ch n c } }

/-- Whether channel `n` counts the wraps of channel `n − 1` (R311). -/
def Dev.chained (d : Dev) (n : Nat) : Bool := decide (n % 2 = 1) && decide (d.get (F.tcuChCfgSrc n) = 5)

/-- The channel that gives `n` its run control: the low channel of a pair (R311). -/
def Dev.lowOf (d : Dev) (n : Nat) : Nat := if d.chained n then n - 1 else n

/-- Whether channel `n` is the low channel of a pair. -/
def Dev.paired (d : Dev) (n : Nat) : Bool := decide (n % 2 = 0) && d.chained (n + 1)

/-- Whether the pair whose low channel is `n` has 64-bit compares (R312). -/
def Dev.cmp64 (d : Dev) (n : Nat) : Bool := d.paired n && d.on (F.tcuChCfgCmp64 n)

/-- The channels that `n` controls: itself and its chained high channel. -/
def Dev.members (d : Dev) (n : Nat) : List Nat := if d.paired n then [n, n + 1] else [n]

/-- Whether debug halt is in force. -/
def Dev.halted (d : Dev) : Bool := d.on F.dbgStatusHalted

/-- Whether channel `n` is frozen, in debug halt (R317) or in NAP (R318). -/
def Dev.frozen (d : Dev) (n : Nat) : Bool :=
  let l := d.lowOf n
  (d.halted && !d.on (F.tcuChCfgAlways l)) || (decide (d.power = 3) && !d.on (F.tcuChCfgSlow l))

/-! ### Actions (R307) -/

/-- A pin action: 0 none, 1 drive high, 2 drive low, 3 toggle. -/
def pinAct (a : Nat) (level : Bool) : Bool :=
  if a = 1 then true else if a = 2 then false else if a = 3 then !level else level

def Dev.setLevel (d : Dev) (n : Nat) (f : Bool → Bool) : Dev :=
  d.setChan n { d.chan n with level := f (d.chan n).level }

/-- The firings of one step on channel `n`, in the order overflow, compare A, compare B. -/
def Dev.fire (d : Dev) (n : Nat) (ovf a b : Bool) : Dev :=
  let d := if ovf then (d.put (F.tcuChStatOvf n) 1).setLevel n (pinAct (d.get (F.tcuChActActo n))) else d
  let d := if a then (d.put (F.tcuChStatCmpa n) 1).setLevel n (pinAct (d.get (F.tcuChActActa n))) else d
  if b then (d.put (F.tcuChStatCmpb n) 1).setLevel n (pinAct (d.get (F.tcuChActActb n))) else d

/-! ### Steps (R302, R305, R307) -/

/-- A count's step: the counter before, the steps, the wrap value. -/
structure CntStep where
  old : Nat
  s : Nat
  top : Nat
  deriving DecidableEq, Repr

def CntStep.wraps (k : CntStep) : Nat := (k.old + k.s) / (k.top + 1)
def CntStep.new (k : CntStep) : Nat := (k.old + k.s) % (k.top + 1)

/-- How many counts until the counter next stands at `c`, at least one. -/
def CntStep.dist (k : CntStep) (c : Nat) : Nat := (c + (k.top + 1) - (k.old + 1) % (k.top + 1)) % (k.top + 1) + 1

/-- Whether the step reaches `c` (R307); with `once`, only before the wrap (R305). -/
def CntStep.reaches (k : CntStep) (c : Nat) (once : Bool) : Bool :=
  decide (c ≤ k.top) && (if once && decide (0 < k.wraps) then decide (k.old < c) else decide (k.dist c ≤ k.s))

/-- Whether a pair's step reaches the 64-bit compare `(hi, lo)` (R312): the low count passes `lo` while the high count
stands at `hi`. -/
def pairReaches (lo : CntStep) (hiOld hiTop chi clo : Nat) (once : Bool) : Bool :=
  if !lo.reaches clo once || decide (hiTop < chi) then false
  else
    let d0 := lo.dist clo
    let w0 := (lo.old + d0) / (lo.top + 1)
    let more := if once then 0 else (lo.s - d0) / (lo.top + 1)
    decide ((chi + (hiTop + 1) - (hiOld + w0) % (hiTop + 1)) % (hiTop + 1) ≤ more)

/-- The high counter after a step: with ONESHOT, which it takes from the low channel, an overflow leaves it at 0 (R305, R311). -/
def CntStep.left (k : CntStep) (once : Bool) : Nat := if once && decide (0 < k.wraps) then 0 else k.new

/-- The counts of one ECLK cycle with `e` source events on the run-controlling channel `n` (R302, R311). -/
def Dev.stepChan (d : Dev) (n e : Nat) : Dev :=
  let c := d.chan n
  if !c.run || d.frozen n || d.chained n then d
  else
    let p := d.get (F.tcuChCfgPresc n)
    let lo : CntStep := ⟨d.get (F.tcuChCnt n), (c.acc + e) / 2 ^ p, d.get (F.tcuChTop n)⟩
    let once := d.on (F.tcuChCfgOneshot n)
    let stops := once && decide (0 < lo.wraps)
    let wide := d.cmp64 n
    let hi : CntStep := ⟨d.get (F.tcuChCnt (n + 1)), lo.wraps, d.get (F.tcuChTop (n + 1))⟩
    let pairA := pairReaches lo hi.old hi.top (d.get (F.tcuChCmpa (n + 1))) (d.get (F.tcuChCmpa n)) once
    let pairB := pairReaches lo hi.old hi.top (d.get (F.tcuChCmpb (n + 1))) (d.get (F.tcuChCmpb n)) once
    let hiA := if wide then pairA else hi.reaches (d.get (F.tcuChCmpa (n + 1))) once
    let hiB := if wide then pairB else hi.reaches (d.get (F.tcuChCmpb (n + 1))) once
    let loA := !wide && lo.reaches (d.get (F.tcuChCmpa n)) once
    let loB := !wide && lo.reaches (d.get (F.tcuChCmpb n)) once
    let d := (d.put (F.tcuChCnt n) (lo.left once)).setChan n
      { c with acc := (c.acc + e) % 2 ^ p, run := !stops }
    let d := d.fire n (decide (0 < lo.wraps)) loA loB
    if d.paired n then
      -- the high channel steps with the wraps it is handed
      let moves := decide (0 < lo.wraps)
      let d := (d.put (F.tcuChCnt (n + 1)) (if moves then hi.left once else hi.old)).setChan (n + 1)
        { d.chan (n + 1) with run := !stops }
      d.fire (n + 1) (moves && decide (0 < hi.wraps)) hiA hiB
    else d

/-! ### Sources (Table 9.1) -/

/-- One event of source `src` to every running channel that counts it (Table 9.1). -/
def Dev.sourceEvent (d : Dev) (src : Nat) : Dev :=
  d.each (List.range 8) fun n d => if d.get (F.tcuChCfgSrc n) = src then d.stepChan n 1 else d

/-- The ECLK cycles that begin by house time `t` (12.8 tk each, R4, R27). -/
def eclkOf (t : Nat) : Nat := t * 10 / 128

/-- The first tick of the next ECLK cycle. -/
def nextEclk (t : Nat) : Nat := ((eclkOf t + 1) * 128 + 9) / 10

/-- `k` ECLK cycles of every channel on ECLK; ECLK does not count in NAP (R318). -/
def Dev.eclkRun (d : Dev) (k : Nat) : Dev :=
  if (List.range 8).any (fun n => decide (d.get (F.tcuChCfgSrc n) = 0) && (d.chan n).run) && decide (d.power ≠ 3) then
    Nat.repeat (fun d => d.sourceEvent 0) k d
  else d

/-- One SXI rising edge: channels on SXI count it, and in NAP a SLOW channel on ECLK counts 7,500 (Table 9.1). -/
def Dev.sxiEdge (d : Dev) : Dev :=
  let d := d.sourceEvent 3
  if d.power = 3 then d.each (List.range 8) fun n d => if d.get (F.tcuChCfgSrc n) = 0 then d.stepChan n 7500 else d else d

end Sys2Proof.Machine
end

