-- ==== Sys2Proof/Machine/Flags.lean ====
section
/-! DEFINITION. Status and fault flags: sticky bits, attention causes, the fault classes with their log and actions, the
states of the reference loop, HEALTH, and same-block ownership. -/

namespace Sys2Proof.Machine

/-! ### Sticky bits (R53) and attention (R230, R334) -/

/-- Record the path of the most recent loser under R35 or R36 in the block of `a`. -/
def Dev.loser (d : Dev) (a : Nat) (p : Path) : Dev :=
  (d.put (F.stickyConfSrc (blockBase a)) p.confSrc).put (F.stickyConfThread (blockBase a)) p.confThread

/-- An event attention cause of Table 6.9, bits 1 to 5 (the others are levels, or RESET). -/
def Dev.cause (d : Dev) (n : Nat) : Dev :=
  d.put F.hcpAttnCauseEvents (((BitVec.ofNat 5 (d.get F.hcpAttnCauseEvents)) ||| (1#5 <<< (n - 1))).toNat)

def Cause.cmdRej : Nat := 1
def Cause.postErr : Nat := 2
def Cause.msgDrop : Nat := 3
def Cause.cueTrap : Nat := 4
def Cause.cueHalt : Nat := 5

/-- FLT_EVENT AND FLT_EVENT_EN (R454). -/
def Dev.faultLevel (d : Dev) : Bool :=
  ((d.reg F.fltEventStateSplit.addr) &&& (d.reg F.fltEventEn.addr) &&& 0x1F#32) != 0#32

/-- UPD_EVENT AND UPD_EVENT_EN. -/
def Dev.updLevel (d : Dev) : Bool :=
  ((d.reg F.updEventEn.addr) &&& (d.reg F.updEventStepDone.addr) &&& 0xFF#32) != 0#32

/-- HCP_ATTN_CAUSE: event bits as stored, level bits as their conditions stand (R230). -/
def Dev.causes (d : Dev) : BitVec 9 :=
  BitVec.ofNat 9 ((if d.hcp.rsp.isEmpty then 0 else 1) + 2 * d.get F.hcpAttnCauseEvents
    + (if d.faultLevel then 64 else 0) + 128 * d.get F.hcpAttnCauseReset + (if d.updLevel then 256 else 0))

/-- The causes as the AON domain shows them (R334): its copy stands in while the CORE domain does not run. -/
def Dev.attnCopy (d : Dev) : BitVec 9 := if d.coreOff then d.twt.attn else d.causes

/-- The enables as the AON domain shows them (R334). -/
def Dev.attnEnCopy (d : Dev) : BitVec 9 :=
  if d.coreOff then d.twt.attnEn else BitVec.ofNat 9 (d.get F.hcpAttnEn)

/-- Whether ATTN_N is low (R230, R231). -/
def Dev.attnLow (d : Dev) : Bool := (d.attnCopy &&& d.attnEnCopy) != 0#9

/-! ### The fault log (R455, R463) -/

/-- Write a log entry; a full log discards its oldest. While the CORE domain is off the AON domain holds four. -/
def Dev.logPut (d : Dev) (e : LogEntry) : Dev :=
  if d.coreOff then
    if d.flt.aonLog.length < 4 then { d with flt := { d.flt with aonLog := d.flt.aonLog ++ [e] } }
    else { d with flt := { d.flt with aonLost := d.flt.aonLost + 1 } }
  else if d.flt.log.length < 32 then { d with flt := { d.flt with log := d.flt.log ++ [e] } }
  else { d with flt := { d.flt with log := d.flt.log.drop 1 ++ [e] } }.bump F.fltLogLost

/-- Kinds of Table 14.2. -/
def Kind.event : Nat := 0
def Kind.lasting : Nat := 1
def Kind.transient : Nat := 2
def Kind.direct : Nat := 3

/-- Set a bit of FLT_EVENT (R454); while the CORE domain is off it waits in the AON domain (R463). -/
def Dev.fltEvent (d : Dev) (n : Nat) : Dev :=
  if d.coreOff then { d with flt := { d.flt with aonEvents := d.flt.aonEvents ||| (1#5 <<< n) } }
  else d.setReg F.fltEventStateSplit.addr (d.reg F.fltEventStateSplit.addr ||| (1#32 <<< n))

/-- A direct event with its log entry (R454, Table 14.2): bit `n` of FLT_EVENT, CLASS `n - 1`. -/
def Dev.direct (d : Dev) (n : Nat) : Dev :=
  (d.fltEvent n).logPut ⟨n - 1, Kind.direct, 0, BitVec.ofNat 64 d.blockIx, 0⟩

def Direct.refLoss : Nat := 1
def Direct.holdLapse : Nat := 2
def Direct.reanchor : Nat := 3

/-! ### HEALTH (R458, R459) -/

/-- Whether class `x` is LASTING. -/
def Dev.lasting (d : Dev) (x : Nat) : Bool := d.on (F.fltStatLasting x)

/-- Whether no LASTING class has its applied HEALTH bit at 1. -/
def Dev.classOk (d : Dev) : Bool := (List.range 10).all fun x => !(d.lasting x && d.apOn (F.fltActHealth x))

/-- The HEALTH condition but for FORCE_LOW (R458, R460). -/
def Dev.healthyButForce (d : Dev) : Bool :=
  d.isReady && d.on F.swmCtrlRun && d.on F.alcCtrl && d.on F.refStatusGood && d.classOk && decide (d.power < 3)

/-- The HEALTH condition (R458). -/
def Dev.healthy (d : Dev) : Bool := d.healthyButForce && !d.on F.fltHealthForceLow

/-- HEALTH falls as soon as the condition fails, and stays low (R459). -/
def Dev.dropHealth (d : Dev) : Dev :=
  if d.healthy then d else { d with flt := { d.flt with healthPin := false } }

/-! ### Loop states (R64, R71, R72, R495) -/

def Loop.free : Nat := 0
def Loop.acquire : Nat := 1
def Loop.locked : Nat := 2
def Loop.holdover : Nat := 3
def Loop.lapsed : Nat := 4

def Dev.loop (d : Dev) : Nat := d.get F.refStatusState

/-- The loop enters a state; GOOD is 1 in LOCKED and HOLDOVER (R64). -/
def Dev.setLoop (d : Dev) (s : Nat) : Dev :=
  ((d.put F.refStatusState s).put F.refStatusGood (if s = Loop.locked ∨ s = Loop.holdover then 1 else 0)).dropHealth

/-- Holdover age in ms since the original entry (R71, R495). -/
def Dev.holdAge (d : Dev) : Nat :=
  match d.ref.holdAt with
  | some t => (((d.now : Int) - t) / (blockTk : Int)).toNat
  | none => 0

/-- Whether the estimate 0.5e-6 × age exceeds REF_HOLD_LIM microseconds (R72). -/
def Dev.holdOver (d : Dev) : Bool := decide (2000 * d.get F.refHoldLim < d.holdAge)

/-- Ticks each value of HT_INCR was in force within the last 10 s, with the value; newest first in `l`. -/
def incrWeights (from' : Nat) : List (Nat × Nat) → Nat → List (Nat × Nat)
  | [], _ => []
  | (t, v) :: l, until' => (until' - max t from', v) :: (if t ≤ from' then [] else incrWeights from' l t)

/-- The mean of HT_INCR over the last 10 s of LOCKED (R71); the value in force where no time has passed. -/
def Dev.meanIncr (d : Dev) : BitVec 40 :=
  let ws := incrWeights (d.now - 10 * secondTk) d.ref.incrHist d.now
  let tot := (ws.map (·.1)).sum
  if tot = 0 then d.time.incr else BitVec.ofNat 40 ((ws.map fun p => p.1 * p.2).sum / tot)

/-- The loop writes HT_INCR (R54); while LOCKED the value joins the history of R71. -/
def Dev.setIncr (d : Dev) (v : BitVec 40) : Dev :=
  let d := { d with time := { d.time with incr := v } }
  if d.loop = Loop.locked then
    { d with ref := { d.ref with incrHist :=
        (d.now, v.toNat) :: d.ref.incrHist.filter (fun p => decide (d.now ≤ p.1 + 20 * secondTk)) } }
  else d

/-- Whether the loop steers HT_INCR (Table 2.4): in LOCKED, and in ACQUIRE but while the reference is lost or class 0 is LASTING
(R495). -/
def Dev.steers (d : Dev) : Bool :=
  decide (d.loop = Loop.locked) || (decide (d.loop = Loop.acquire) && !d.ref.searching && !d.lasting 0)

/-- 100 ppm and 50 ppm of the nominal increment in 8.32 fixed point, rounded down (R55). -/
def ppm100 : Nat := 54975581
def ppm50 : Nat := 27487790

/-- The loop writes HT_INCR (R54): a free frequency steering within ±100 ppm, and the slew's offset within ±50 ppm (R55, R68). -/
def Dev.steer (d : Dev) : Dev :=
  let (n, d) := d.draw
  let base : Int := max (549755813888 - ppm100) (min (549755813888 + ppm100) (Config.loopIncrement n).toNat)
  d.setIncr (BitVec.ofInt 40 (base + d.ref.slew))

/-- The loop writes HT_INCR in every XI cycle in which it steers. -/
def Dev.xiWrite (d : Dev) : Dev := if d.steers then d.steer else d

/-- House time moves forward to `t` (an event defined by an instant has been reached): the loop has written HT_INCR in the XI cycles on the
way (R54), and the channels on ECLK have counted its cycles (R301). -/
def Dev.reach (d : Dev) (t : Nat) : Dev :=
  if t ≤ d.now then d
  else ({ d with time := { d.time with ht := BitVec.ofNat 64 t } }.xiWrite).eclkRun (eclkOf t - eclkOf d.now)

/-- The slew takes an offset proportional to the error `e` and at most 50 ppm (R68); the gain is the loop's own. SLEWING shows
whether it is 0. -/
def Dev.slewBy (d : Dev) (e : Int) : Dev :=
  let s := max (-(ppm50 : Int)) (min (ppm50 : Int) ((e * (Config.slewGain : Int)).tdiv 65536))
  { d with ref := { d.ref with slew := s } }.put F.refStatusSlewing (if s = 0 then 0 else 1)

/-- The slew ends. -/
def Dev.slewEnd (d : Dev) : Dev := { d with ref := { d.ref with slew := 0 } }.put F.refStatusSlewing 0

/-- Loss of the reference or a lasting class 0 (R64, R495): from LOCKED to HOLDOVER, and from ACQUIRE as it was entered;
FLT_EVENT.REF_LOSS in both. -/
def Dev.enterHoldover (d : Dev) : Dev :=
  if d.loop = Loop.locked then
    let v := d.meanIncr
    let d := (d.setLoop Loop.holdover).slewEnd
    ({ d with time := { d.time with incr := v },
              ref := { d.ref with heldIncr := v, holdAt := some (d.now : Int), clean := 0, incrHist := [] } }.bump
      F.refCntHold).direct Direct.refLoss
  else if d.loop = Loop.acquire then
    if d.ref.fromHold then
      ({ d with time := { d.time with incr := d.ref.heldIncr }, ref := { d.ref with clean := 0 } }.setLoop
        (if d.holdOver then Loop.lapsed else Loop.holdover)).direct Direct.refLoss
    else { d with ref := { d.ref with clean := 0 } }.direct Direct.refLoss
  else d

/-! ### Fault classes (R449 to R452, R461) -/

/-- The applied WIN, THR and LATCH of class `x`; class 0 works from its AON copy (R463). -/
def Dev.clsWin (d : Dev) (x : Nat) : Nat := if x = 0 then d.flt.aonWin else d.ap (F.fltWin x)
def Dev.clsThr (d : Dev) (x : Nat) : Nat := if x = 0 then d.flt.aonThr else d.ap (F.fltThr x)
def Dev.clsLatch (d : Dev) (x : Nat) : Bool :=
  if x = 0 then d.flt.aonAct.getLsbD 2 else d.apOn (F.fltActLatch x)

def Dev.hist (d : Dev) (x : Nat) : List Nat := Tab.get (fun _ => []) d.flt.hist x

/-- WCNT: the history entries within (b − WIN, b] (R449). -/
def wcntOf (h : List Nat) (win b : Nat) : Nat := (h.filter fun e => decide (b < e + win) && decide (e ≤ b)).length

def Dev.wcnt (d : Dev) (x : Nat) : Nat := wcntOf (d.hist x) (d.clsWin x) d.blockIx

/-- Class `x` becomes LASTING or leaves it (FLT_STAT_x and FLT_LASTING show it). -/
def Dev.setLasting (d : Dev) (x : Nat) (on : Bool) : Dev :=
  let d := d.put (F.fltStatLasting x) (if on then 1 else 0)
  let bit : Word := 1#32 <<< x
  let w := d.reg F.fltLasting.addr
  d.setReg F.fltLasting.addr (if on then w ||| bit else w &&& ~~~bit)

/-- R450 after the count: the transition to LASTING with FLT_EVENT.LASTING, its log entry and its fixed action, whose direct
event comes after it in the log (R455). -/
def Dev.goLasting (d : Dev) (x : Nat) (wc : Nat) (detail : Word) : Dev :=
  let d := d.setLasting x true
  let d := (d.fltEvent 4).logPut ⟨x, Kind.lasting, wc, BitVec.ofNat 64 d.blockIx, detail⟩
  (if x = 0 then d.enterHoldover else d).dropHealth

/-- One event of class `x` with its DETAIL (R450): counted, entered in the history, logged, and tested. -/
def Dev.fault (d : Dev) (x : Nat) (detail : Word) : Dev :=
  let b := d.blockIx
  let h := (d.hist x ++ [b]).reverse.take 32 |>.reverse
  let d := { d with flt := { d.flt with hist := Tab.set (fun _ => []) d.flt.hist x h } }.bump (F.fltCnt x)
  let wc := d.wcnt x
  let d := (d.put (F.fltStatWcnt x) wc).logPut ⟨x, Kind.event, wc, BitVec.ofNat 64 b, detail⟩
  if !d.lasting x && decide (d.clsThr x ≤ wc) then d.goLasting x wc detail else d

/-- One event of class 4 (R452): counted if its line differs from the previous counted event's or the block is later. -/
def Dev.faultUe (d : Dev) (line : Nat) : Dev :=
  let counts := match d.flt.lastUe with
    | some (l, b) => decide (l ≠ line) || decide (b < d.blockIx)
    | none => true
  if counts then
    { d with flt := { d.flt with lastUe := some (line, d.blockIx) } }.fault 4 (BitVec.ofNat 32 line)
  else d

def Cls.refAnom : Nat := 0
def Cls.conflict : Nat := 1
def Cls.stateSplit : Nat := 2
def Cls.sentinel : Nat := 3
def Cls.memCe : Nat := 5
def Cls.overTemp : Nat := 6
def Cls.sigPeer : Nat := 7
def Cls.cueTrap : Nat := 8
def Cls.fuse : Nat := 9

/-- Class `x` leaves LASTING, with a log entry of kind TRANSIENT (R451, R461). -/
def Dev.goTransient (d : Dev) (x : Nat) : Dev :=
  (d.setLasting x false).logPut ⟨x, Kind.transient, d.wcnt x, BitVec.ofNat 64 d.blockIx, 0⟩

/-- At a block edge (R451, R462): WCNT is refreshed; a LASTING class without LATCH below its threshold leaves LASTING. -/
def Dev.classEdge (d : Dev) (x : Nat) : Dev :=
  let wc := d.wcnt x
  let d := d.put (F.fltStatWcnt x) wc
  if d.lasting x && !d.clsLatch x && decide (wc < d.clsThr x) then d.goTransient x else d

/-- FLT_CLEAR for class `x` (R461): history emptied, WCNT 0, TRANSIENT; logged if it was LASTING. -/
def Dev.classClear (d : Dev) (x : Nat) : Dev :=
  let d := { d with flt := { d.flt with hist := Tab.set (fun _ => []) d.flt.hist x [] } }.put (F.fltStatWcnt x) 0
  if d.lasting x then d.goTransient x else d

/-- A losing request under R36 and R37: CONFLICT class event, with CONF_SRC in DETAIL (Table 14.1). -/
def Dev.conflictEvent (d : Dev) (a : Nat) (p : Path) : Dev :=
  d.fault Cls.conflict (BitVec.ofNat 32 (a % 2 ^ 30 + p.confSrc * 2 ^ 30))

/-- A split under R35: FLT_EVENT.STATE_SPLIT and one event of class 2 (R454, R465). -/
def Dev.splitEvent (d : Dev) (a : Nat) : Dev := (d.fltEvent 0).fault Cls.stateSplit (BitVec.ofNat 32 a)

/-! ### Ownership within the block (R34, R35) -/

/-- Whether the management path owns the field at `a`, bit `lo` (R34, R398): mute and its exemption, output enables,
PWR_CTRL, reset and life-cycle requests; every other field is content state. -/
def mgmtOwned (a : Nat) : Bool :=
  decide (a = F.outMuteMute.addr) || decide (a = F.outPortEn.addr) || decide (a = F.pwrCtrlLimit.addr)
    || decide (a = F.sysRstReq.addr) || decide (a = F.sysLcReqTarget.addr)

/-- The side that owns the field. -/
def ownerSide (a : Nat) : Nat := if mgmtOwned a then 1 else 2

/-- Who last set the field (or memory byte) of this key in the current block: 0 nobody, else one more than the path's rank. -/
def Dev.setter (d : Dev) (key : Nat) : Nat := Tab.get (fun _ => 0) d.setters key

/-- Path `p` sets the key. -/
def Dev.setSetter (d : Dev) (key : Nat) (p : Path) : Dev :=
  { d with setters := Tab.set (fun _ => 0) d.setters key (p.rank + 1) }

/-- The side of a setter's code (R32): 0 nobody. -/
def setterSide (c : Nat) : Nat := if c ≤ 1 then c else 2

/-- The path of a setter's code. -/
def setterPath (c : Nat) : Path := if c ≤ 1 then .mgmt else if c = 2 then .host else .cue (Fin.ofNat 16 (c - 3))

/-- What R35 makes of a write that would change a field: an ordinary write, a win over the other path, or a refusal. -/
inductive Split where
  | plain | wins | refused
  deriving DecidableEq, Repr

/-- R35 for a field of address `a` and key `key`, written from `side` with a value that differs. -/
def Dev.splitOf (d : Dev) (a key side : Nat) : Split :=
  let last := setterSide (d.setter key)
  if last = 0 ∨ last = side then .plain
  else if ownerSide a = side then .wins else .refused

end Sys2Proof.Machine
end

