-- ==== Sys2Proof/Machine/Memory.lean ====
section
/-! DEFINITION. On-chip memory (chapter 7): address spaces, lines and their tags, reads, full-line and partial writes,
write-backs, wipes and flash. -/

namespace Sys2Proof.Machine

/-! ### Address spaces (Tables 6.3 and 7.1) -/

/-- The regions an address can name. -/
inductive Space where
  | reg | par | wave | cue | flash | none
  deriving DecidableEq, Repr

def spaceOf (a : Nat) : Space :=
  if a < 0x8000 then .reg
  else if 0x00100000 ≤ a ∧ a < 0x00110000 then .par
  else if 0x01000000 ≤ a ∧ a < 0x01100000 then .wave
  else if 0x02000000 ≤ a ∧ a < 0x02040000 then .cue
  else if 0x04000000 ≤ a ∧ a < 0x04400000 then .flash
  else .none

/-- The bank of an SRAM address (Table 7.1); 13 where there is none. -/
def bankOf (a : Nat) : Nat :=
  match spaceOf a with
  | .wave => (a - 0x01000000) / 0x20000
  | .cue => 8 + (a - 0x02000000) / 0x10000
  | .par => 12
  | _ => 13

/-- Whether the address lies in an SRAM array. -/
def isSram (a : Nat) : Bool := decide (bankOf a < 13)

/-- The line of an address (R238). -/
def lineOf (a : Nat) : Nat := a / 32 * 32

/-- Masters of Table 7.4. -/
def Master.swarm : Nat := 0
def Master.cue : Nat := 1
def Master.host : Nat := 2
def Master.mgmt : Nat := 3
def Master.hkp : Nat := 4
def Master.dma : Nat := 5
def Master.region : Nat := 6
def Master.scrub : Nat := 7

def pathMaster : Path → Nat
  | .mgmt => Master.mgmt
  | .host => Master.host
  | .cue _ => Master.cue

/-! ### Bytes and tags -/

/-- What an unlisted byte reads as: 0 in SRAM, whose lines are VIRGIN (R238), 0xFF in erased flash (R257). -/
def memDefault (a : Nat) : Byte := if 0x04000000 ≤ a then 0xFF#8 else 0#8

/-- The canonical form of the memory's list: addresses strictly rising, no entry equal to what it reads as unlisted. -/
def Memory.wf (m : List Host.Cell) : Bool := Tab.wf memDefault m

/-- One stored byte. -/
def Dev.byte (d : Dev) (a : Nat) : Byte := Tab.get memDefault d.mem.bytes a

/-- Store one byte. -/
def Dev.setByte (d : Dev) (a : Nat) (b : Byte) : Dev :=
  { d with mem := { d.mem with bytes := Tab.set memDefault d.mem.bytes a b } }

/-- Store bytes from address `a` on. -/
def Dev.setBytes (d : Dev) (a : Nat) : List Byte → Dev
  | [] => d
  | b :: t => (d.setByte a b).setBytes (a + 1) t

/-- The `n` stored bytes from address `a` on. -/
def Dev.bytesAt (d : Dev) (a n : Nat) : List Byte := (List.range n).map fun i => d.byte (a + i)

def Dev.tag (d : Dev) (line : Nat) : LineTag := Tab.get (fun _ => LineTag.virgin) d.mem.tags line

def Dev.setTag (d : Dev) (line : Nat) (t : LineTag) : Dev :=
  { d with mem := { d.mem with tags := Tab.set (fun _ => LineTag.virgin) d.mem.tags line t } }

def LineTag.mask (t : LineTag) (k : Nat) : BitVec 72 :=
  if k = 0 then t.e0 else if k = 1 then t.e1 else if k = 2 then t.e2 else t.e3

/-! ### Reading a line (R238, R240) -/

/-- How many bits of a word differ from its encoding. -/
def flips (e : BitVec 72) : Nat := ((List.range 72).filter fun i => e.getLsbD i).length

/-- The lowest differing bit. -/
def firstFlip (e : BitVec 72) : Nat := ((List.range 72).find? fun i => e.getLsbD i).getD 0

/-- What checking a line finds: its state, and for VALID the first corrected bit or the first uncorrectable word. -/
inductive LineState where
  | virgin
  | clean
  | corrected (word bit : Nat)
  | bad (word : Nat)
  | poison
  deriving DecidableEq, Repr

/-- One word against its check field: whether it is uncorrectable, the bit that reads as corrected, and its data. -/
def checkWord (n : Nat) (e : BitVec 72) (w : Word64) : Bool × Option Nat × Word64 :=
  let k := flips e
  if k = 0 then (false, none, w)
  else if k = 1 then (false, some (firstFlip e), w)
  else if k = 2 then (true, none, w)
  else if Config.detectsMany n e then (true, none, w)
  else (false, (Config.looksCorrected n e).map (·.val), Config.miscorrected n e w)

/-- Word `k` of a line as stored data. -/
def Dev.lineWord (d : Dev) (line k : Nat) : Word64 := BitVec.ofNat 64 (ofBytes (d.bytesAt (line + 8 * k) 8))

/-- A line as a read finds it: its state, and the 32 bytes a read returns (0 for VIRGIN, POISON and uncorrectable). -/
def Dev.lineView (d : Dev) (line : Nat) : LineState × List Byte :=
  let t := d.tag line
  let zeros := List.replicate 32 (0#8)
  if t.code = 0#2 then (.virgin, zeros)
  else if t.code ≠ 3#2 then (.poison, zeros)
  else
    let cs := (List.range 4).map fun k => checkWord (d.fresh + k) (t.mask k) (d.lineWord line k)
    match (List.range 4).find? fun k => (cs.getD k (false, none, 0)).1 with
    | some k => (.bad k, zeros)
    | none =>
      let data := cs.flatMap fun c => bytesOf c.2.2.toNat 8
      match (List.range 4).find? fun k => (cs.getD k (false, none, 0)).2.1.isSome with
      | some k => (.corrected k ((cs.getD k (false, none, 0)).2.1.getD 0), data)
      | none => (.clean, data)

/-- Fresh draws are used up where a word of the line has three or more flipped bits. -/
def Dev.lineDraws (d : Dev) (line : Nat) : Dev :=
  if (List.range 4).any fun k => decide (2 < flips ((d.tag line).mask k)) then { d with fresh := d.fresh + 4 } else d

/-- KIND codes of MEM_ERR_INFO. -/
def ErrKind.ce : Nat := 1
def ErrKind.ue : Nat := 2
def ErrKind.epoison : Nat := 3
def ErrKind.coll : Nat := 4
def ErrKind.virgin : Nat := 5

/-- The rank of R266; a POISON read is latched with KIND 2 (DEDUCED, log 12). -/
def errRank (kind : Nat) : Nat :=
  if kind = ErrKind.ue ∨ kind = ErrKind.epoison then 1 else if kind = ErrKind.coll then 2
  else if kind = ErrKind.ce then 3 else 4

/-- Latch an event in MEM_ERR_ADDR and MEM_ERR_INFO unless a higher-ranked one is latched (R266). -/
def Dev.errLatch (d : Dev) (kind master addr word bit : Nat) : Dev :=
  if d.on F.memErrInfoValid && decide (errRank (d.get F.memErrInfoKind) < errRank kind) then d
  else ((((((d.put F.memErrAddr addr).put F.memErrInfoKind kind).put F.memErrInfoMaster master).put
    F.memErrInfoWord word).put F.memErrInfoBit bit).put F.memErrInfoValid 1)

/-- Add to a list of lines without repeats. -/
def insertLine (l : List Nat) (a : Nat) : List Nat := if a ∈ l then l else l ++ [a]

/-- Schedule the write-back of a corrected line (R241). -/
def Dev.queueCe (d : Dev) (line : Nat) : Dev :=
  { d with mem := { d.mem with ceQueue := insertLine d.mem.ceQueue line } }

/-- Schedule the POISON write of an uncorrectable line (R240, R241). -/
def Dev.queueUe (d : Dev) (line : Nat) : Dev :=
  { d with mem := { d.mem with ueQueue := insertLine d.mem.ueQueue line } }

/-- A write that stores the line cancels its scheduled writes (R241). -/
def Dev.unqueue (d : Dev) (line : Nat) : Dev :=
  { d with mem := { d.mem with ceQueue := d.mem.ceQueue.filter (· ≠ line), ueQueue := d.mem.ueQueue.filter (· ≠ line) } }

/-- Record a correction (R240). -/
def Dev.recordCe (d : Dev) (m line word bit : Nat) : Dev :=
  ((((d.put F.memStatusCe 1).bump F.memCntCe).errLatch ErrKind.ce m (line + 8 * word) word bit).fault Cls.memCe
    (BitVec.ofNat 32 line))

/-- Record an uncorrectable read (R240). -/
def Dev.recordUe (d : Dev) (m line word : Nat) : Dev :=
  (((d.put F.memStatusUe 1).bump F.memCntUe).errLatch ErrKind.ue m (line + 8 * word) word 0).faultUe line

/-- Record a POISON read (R240). -/
def Dev.recordPoison (d : Dev) (m line : Nat) : Dev :=
  (((d.put F.memStatusPoisonRd 1).bump F.memCntPoison).errLatch ErrKind.ue m line 0 0).faultUe line

/-- Record a VIRGIN read (R240). -/
def Dev.recordVirgin (d : Dev) (m line : Nat) : Dev :=
  ((d.put F.memStatusVirginRd 1).bump F.memCntVirgin).errLatch ErrKind.virgin m line 0 0

/-- Record a read's outcome (Table 7.3). The parameter snapshot records no VIRGIN line. -/
def Dev.recordRead (d : Dev) (m line : Nat) (snapshot : Bool) : LineState → Dev
  | .virgin => if snapshot then d else d.recordVirgin m line
  | .clean => d
  | .corrected k b => (d.recordCe m line k b).queueCe line
  | .bad k => (d.recordUe m line k).queueUe line
  | .poison => d.recordPoison m line

/-! ### Window-port turns (R246) -/

/-- The place of a master in the round robin's order. -/
def turnOf (m : Nat) : Nat :=
  if m = Master.mgmt then 0 else if m = Master.host then 1 else if m = Master.cue then 2 else if m = Master.hkp then 3
  else if m = Master.dma then 4 else 5

/-- Whether the master reaches the address through the window port, in turn (Table 7.4). -/
def takesTurn (m a : Nat) : Bool :=
  isSram a && decide (m ≠ Master.swarm) && decide (m ≠ Master.scrub) && (decide (m ≠ Master.cue) || decide (spaceOf a = .par))

/-- A master is served at the window port of its address: the round robin goes on after it. -/
def Dev.grant (d : Dev) (m a : Nat) : Dev :=
  if takesTurn m a then { d with mem := { d.mem with rr := Tab.set (fun _ => 0) d.mem.rr (bankOf a) ((turnOf m + 1) % 6) } } else d

/-! ### Wipes (R256) -/

/-- Wipe the arrays whose bit of `banks` is set: data 0, check bits 0, VIRGIN. -/
def Dev.wipe (d : Dev) (banks : BitVec 13) : Dev :=
  { d with mem := { d.mem with
      bytes := d.mem.bytes.filter (fun c => !(banks.getLsbD (bankOf c.1)))
      tags := d.mem.tags.filter (fun c => !(banks.getLsbD (bankOf c.1)))
      ceQueue := d.mem.ceQueue.filter (fun a => !(banks.getLsbD (bankOf a)))
      ueQueue := d.mem.ueQueue.filter (fun a => !(banks.getLsbD (bankOf a))) } }

/-- Every array still being wiped ends its wipe; all wipe in parallel. -/
def Dev.endWipe (d : Dev) : Dev :=
  let d := d.wipe d.mem.wiping
  { d with mem := { d.mem with wiping := 0 } }.put F.memStatusWiping 0

/-- An access to an array that is being wiped waits until its wipe ends. -/
def Dev.waitWipe (d : Dev) (a : Nat) : Dev := if d.mem.wiping.getLsbD (bankOf a) then d.endWipe else d

/-- Read a line on behalf of master `m`: its state and data, with everything R240 records. -/
def Dev.readLine (d : Dev) (m line : Nat) (snapshot : Bool := false) : (LineState × List Byte) × Dev :=
  let d := (d.waitWipe line).grant m line
  let v := d.lineView line
  (v, (d.lineDraws line).recordRead m line snapshot v.1)

/-! ### Writing a line (R242, R243, R264) -/

/-- The masks MEM_INJ inverts in word `k` of the line. -/
def Dev.injMask (d : Dev) (k : Nat) : BitVec 72 :=
  if k = d.get F.memInjWord ∧ ¬ d.on F.memInjState then
    (1#72 <<< (d.get F.memInjBit)) ^^^ (if d.on F.memInjDouble then 1#72 <<< ((d.get F.memInjBit + 1) % 72) else 0)
  else 0

/-- The state code inversion of MEM_INJ with STATE set. -/
def Dev.injCode (d : Dev) : BitVec 2 :=
  if d.on F.memInjState then (if d.on F.memInjDouble then 3#2 else 1#2 <<< (d.get F.memInjBit % 2)) else 0

/-- Whether MEM_INJ strikes a store in the bank of `line`. -/
def Dev.injects (d : Dev) (line : Nat) : Bool := d.on F.memInjArm && decide (d.get F.memInjBank = bankOf line)

/-- Store a whole line with the state `code`, freshly encoded, as a master's store (R242, R264). -/
def Dev.storeLine (d : Dev) (line : Nat) (code : BitVec 2) (data : List Byte) : Dev :=
  let t : LineTag :=
    if d.injects line then ⟨code ^^^ d.injCode, d.injMask 0, d.injMask 1, d.injMask 2, d.injMask 3⟩ else ⟨code, 0, 0, 0, 0⟩
  let d := if d.injects line then d.put F.memInjArm 0 else d
  ((d.setBytes line data).setTag line t).unqueue line

/-- A write of part of a line or all of it: address and bytes, within one line. -/
abbrev Chunk := Nat × List Byte

/-- Cut a write into its parts line by line, in ascending address order. -/
def chunks : Nat → Nat → List Byte → List Chunk
  | 0, _, _ => []
  | fuel + 1, a, data =>
    if data.isEmpty then [] else
      let n := lineOf a + 32 - a
      (a, data.take n) :: chunks fuel (a + n) (data.drop n)

/-- The parts of a write line by line. -/
def chunksOf (a : Nat) (data : List Byte) : List Chunk := chunks (data.length + 1) a data

/-- Whether a part covers its whole line (R239). -/
def Chunk.full (c : Chunk) : Bool := decide (c.1 % 32 = 0) && decide (c.2.length = 32)

/-- A line's bytes with a part merged in. -/
def mergeBytes (base : List Byte) (off : Nat) (data : List Byte) : List Byte :=
  base.take off ++ data ++ base.drop (off + data.length)

/-- Record a refused partial write (R243). -/
def Dev.recordRefusal (d : Dev) (m addr word : Nat) : Dev :=
  ((d.put F.memStatusEpoison 1).bump F.memCntEpoison).errLatch ErrKind.epoison m addr word 0

/-- The read half of a partial write (R243): the line's bytes if it accepts the write, with what is recorded. -/
def Dev.partialCheck (d : Dev) (m : Nat) (c : Chunk) : Option (List Byte) × Dev :=
  let line := lineOf c.1
  let v := d.lineView line
  let d := d.lineDraws line
  match v.1 with
  | .virgin | .clean => (some v.2, d)
  | .corrected k b => (some v.2, (d.recordCe m line k b).queueCe line)
  | .bad k =>
    (none, (((d.recordUe m line k).setTag line ⟨1, 0, 0, 0, 0⟩).unqueue line).recordRefusal m (line + 8 * k) k)
  | .poison => (none, (d.recordPoison m line).recordRefusal m line 0)

/-- The checking half of a write's part: a full line needs none. -/
def Dev.chunkCheck (d : Dev) (m : Nat) (c : Chunk) : Option (List Byte) × Dev :=
  if c.full then (some [], d) else d.partialCheck m c

/-- The storing half of a write's part, into the bytes that its read half found. -/
def Dev.chunkStore (d : Dev) (x : Chunk × List Byte) : Dev :=
  let line := lineOf x.1.1
  d.storeLine line 3 (if x.1.full then x.1.2 else mergeBytes x.2 (x.1.1 - line) x.1.2)

/-- A partial write of one line that stands or falls by itself, though it covers the line (R239). -/
def Dev.writePart (d : Dev) (m : Nat) (c : Chunk) : Dev :=
  let r := ((d.waitWipe c.1).grant m c.1).partialCheck m c
  match r.1 with
  | some b => r.2.storeLine (lineOf c.1) 3 (mergeBytes b (c.1 - lineOf c.1) c.2)
  | none => r.2

/-- Check every part before storing any (R251): each part with its line's bytes, or none if one is refused. -/
def Dev.checkAll (d : Dev) (m : Nat) : List Chunk → Option (List (Chunk × List Byte)) × Dev
  | [] => (some [], d)
  | c :: cs =>
    let r := ((d.waitWipe c.1).grant m c.1).chunkCheck m c
    let r' := r.2.checkAll m cs
    (match r.1, r'.1 with
      | some b, some l => some ((c, b) :: l)
      | _, _ => none, r'.2)

/-- A write whose parts stand or fall together (R243, R251). -/
def Dev.writeWhole (d : Dev) (m addr : Nat) (data : List Byte) : Status × Dev :=
  let r := d.checkAll m (chunksOf addr data)
  match r.1 with
  | some l => (.ok, l.foldl Dev.chunkStore r.2)
  | none => (.epoison, r.2)

/-- A write whose lines stand or fall by themselves (R224): the status of each line's part, in address order. -/
def Dev.writeLines (d : Dev) (m : Nat) : List Chunk → List (Nat × Status) × Dev
  | [] => ([], d)
  | c :: cs =>
    let r := d.writeWhole m c.1 c.2
    let r' := r.2.writeLines m cs
    ((c.1, r.1) :: r'.1, r'.2)

/-- Read `n` bytes from `a` on, line by line: data and the states found. -/
def Dev.readLines (d : Dev) (m : Nat) : List Nat → List (Nat × LineState × List Byte) × Dev
  | [] => ([], d)
  | line :: ls =>
    let r := d.readLine m line
    let r' := r.2.readLines m ls
    ((line, r.1) :: r'.1, r'.2)

/-- The lines that hold `n` bytes from `a` on. -/
def linesOf (a n : Nat) : List Nat :=
  if n = 0 then [] else (List.range ((lineOf (a + n - 1) - lineOf a) / 32 + 1)).map fun i => lineOf a + 32 * i

/-- Read `n` SRAM bytes from `a` on: the states of the lines, and the bytes. -/
def Dev.readMem (d : Dev) (m a n : Nat) : List LineState × List Byte × Dev :=
  let r := d.readLines m (linesOf a n)
  (r.1.map (·.2.1), ((r.1.flatMap fun x => x.2.2).drop (a - lineOf a)).take n, r.2)

/-- Whether a line refuses a read: uncorrectable or POISON (R182, R196). -/
def LineState.isErr : LineState → Bool
  | .bad _ | .poison => true
  | _ => false

/-! ### Scheduled writes (R241) -/

/-- The first scheduled line of a bank. -/
def firstOfBank (l : List Nat) (bank : Nat) : Option Nat := l.find? fun a => bankOf a == bank

/-- A corrected line is written back. -/
def Dev.writeBack (d : Dev) (bank : Nat) : Dev :=
  match firstOfBank d.mem.ceQueue bank with
  | none => d
  | some line =>
    match d.lineView line with
    | (.corrected _ _, data) => ((d.lineDraws line).setBytes line data |>.setTag line ⟨3, 0, 0, 0, 0⟩).unqueue line
    | _ => d.unqueue line

/-- The POISON write after an uncorrectable read. -/
def Dev.poisonLine (d : Dev) (bank : Nat) : Dev :=
  match firstOfBank d.mem.ueQueue bank with
  | none => d
  | some line => (d.setTag line ⟨1, 0, 0, 0, 0⟩).unqueue line

/-! ### Flash (R257 to R262) -/

/-- The flash window's base. -/
def flashBase : Nat := 0x04000000

/-- MEM_FL_STATUS as the controller stands. -/
def Dev.flashShow (d : Dev) : Dev :=
  let fl := d.mem.flash
  let b (x : Bool) : Nat := if x then 1 else 0
  ((((d.put F.memFlStatusBusy (b (fl.erasing.isSome || fl.page.isSome))).put F.memFlStatusErasing
    (b fl.erasing.isSome)).put F.memFlStatusSuspended (b fl.suspended)).put F.memFlStatusProgramming
    (b fl.page.isSome)).put F.memFlStatusSector (fl.erasing.getD 0)

/-- Programming only changes bits from 1 to 0. -/
def Dev.flashProgram (d : Dev) (off : Nat) : List Byte → Dev
  | [] => d
  | b :: t =>
    (d.setByte (flashBase + off) (d.byte (flashBase + off) &&& b)).flashProgram (off + 1) t

/-- Erase a 4 KB sector: its bytes read 0xFF. -/
def Dev.flashErase (d : Dev) (sector : Nat) : Dev :=
  { d with mem := { d.mem with bytes := d.mem.bytes.filter fun c =>
      !(decide (flashBase + 4096 * sector ≤ c.1) && decide (c.1 < flashBase + 4096 * (sector + 1))) } }

/-- The page being programmed is programmed. -/
def Dev.pageDone (d : Dev) : Dev :=
  match d.mem.flash.page with
  | none => d
  | some (off, data) =>
    let d := d.flashProgram off data
    { d with mem := { d.mem with flash := { d.mem.flash with page := none } } }.flashShow

/-- The limits of the read window (Table 7.7), as MEM_FL_WIN_LO and MEM_FL_WIN_HI report them. -/
def Dev.flashLo (d : Dev) : Nat :=
  if d.sys.lc = 3 then 0xFFFFFFFF else if d.sys.lc = 2 then 0x04320000 else 0x04000000
def Dev.flashHi (d : Dev) : Nat :=
  if d.sys.lc = 3 then 0 else if d.sys.lc = 2 then 0x043FDFFF else 0x043FFFFF

/-- Whether a window read of this address is admitted (R258). -/
def Dev.flashAdmits (d : Dev) (a : Nat) : Bool :=
  d.mem.windowOpen && decide (d.flashLo ≤ a) && decide (a ≤ d.flashHi)

/-- Whether a read of the window must wait: a page is being programmed, or a sector erased (R259). -/
def Dev.flashWaits (d : Dev) : Bool := d.mem.flash.page.isSome || (d.mem.flash.erasing.isSome && !d.mem.flash.suspended)

/-- A page program begins (R259); it waits for the one before. -/
def Dev.pageBegin (d : Dev) (off : Nat) (data : List Byte) : Dev :=
  let d := d.pageDone
  { d with mem := { d.mem with flash := { d.mem.flash with page := some (off, data) } } }.flashShow

/-- Bytes are programmed page by page: each page ends before the next begins, and the last is under way (DESIGN CHOICE, log 27). -/
def Dev.program (d : Dev) (off : Nat) (data : List Byte) : Dev :=
  if data.isEmpty then d
  else
    let k := max off ((off + data.length - 1) / 256 * 256) - off
    (d.pageDone.flashProgram off (data.take k)).pageBegin (off + k) (data.drop k)

/-- Bytes of the flash as the HKP and the mask ROM read them, without regard to the window: a page program ends first. -/
def Dev.flashBytes (d : Dev) (off n : Nat) : List Byte := d.pageDone.bytesAt (flashBase + off) n

/-- A window read reaches the controller: it waits for a page program, and suspends an erase (R259). -/
def Dev.flashTouch (d : Dev) : Dev :=
  let d := d.pageDone
  if d.mem.flash.erasing.isSome && !d.mem.flash.suspended then
    ({ d with mem := { d.mem with flash := { d.mem.flash with suspended := true } } }.flashShow).bump F.memFlCntSusp
  else d

/-- Whether the sector of a flash address is being erased or its erase is suspended. -/
def Dev.flashBusyAt (d : Dev) (a : Nat) : Bool := d.mem.flash.erasing == some ((a - flashBase) / 4096)

/-- One window read of `n` bytes at `a` within one word: the bytes, and whether the window refuses the address. -/
def Dev.flashRead (d : Dev) (a n : Nat) : List Byte × Bool × Dev :=
  if !d.flashAdmits a then (List.replicate n 0, true, d)
  else
    let d := d.flashTouch
    if d.flashBusyAt a then (List.replicate n 0, false, d.bump F.memFlCntBusyrd) else (d.bytesAt a n, false, d)

/-! ### The erase journal (R260, R261) -/

/-- The offset of slot `k` of journal sector `j` (0 JA, 1 JB). -/
def slotOff (j k : Nat) : Nat := 0x3FE000 + 0x1000 * j + 16 * k

/-- A journal record's 16 bytes, DONE not yet programmed. -/
def recordBytes (sector seq : Nat) : List Byte :=
  let h := bytesOf 0x4A52 2 ++ bytesOf sector 2 ++ bytesOf seq 4
  h ++ List.replicate 4 (0xFF#8) ++ bytesOf (crc32c h).toNat 4

/-- What a slot holds: empty, torn, or a valid record with its sector, sequence number and DONE. -/
inductive Slot where
  | empty
  | torn
  | valid (sector seq : Nat) (done : Bool)
  deriving DecidableEq, Repr

def Dev.slot (d : Dev) (j k : Nat) : Slot :=
  let b := d.flashBytes (slotOff j k) 16
  if b.all (· == 0xFF#8) then .empty
  else if ofBytes (b.take 2) = 0x4A52 ∧ ofBytes (b.drop 12) = (crc32c (b.take 8)).toNat then
    .valid (ofBytes ((b.drop 2).take 2)) (ofBytes ((b.drop 4).take 4)) (decide (ofBytes ((b.drop 8).take 4) = 0))
  else .torn

/-- Program a record in a slot; MEM_FL_SEQ and MEM_FL_JRNL follow. -/
def Dev.writeRecord (d : Dev) (j k sector : Nat) : Dev :=
  let seq := d.get F.memFlSeq + 1
  (((d.flashProgram (slotOff j k) (recordBytes sector seq)).put F.memFlSeq seq).put F.memFlJrnlActive j).put
    F.memFlJrnlNext (k + 1)

/-- Program a record's DONE word to 0. -/
def Dev.recordDone (d : Dev) (off : Nat) : Dev := d.flashProgram (off + 8) (List.replicate 4 0)

/-- Start the erase of a sector: its record first (R260). With slot 254 used, slot 255 first records and makes the erase
of the other journal sector (R261). The offset of the record is kept for its DONE word. -/
def Dev.eraseStart (d : Dev) (sector : Nat) : Dev :=
  let j := d.get F.memFlJrnlActive
  let k := d.get F.memFlJrnlNext
  let d :=
    if d.slot j 255 ≠ .empty then d.writeRecord (1 - j) 0 sector
    else if k < 255 then d.writeRecord j k sector
    else
      let d := d.writeRecord j 255 (1022 + (1 - j))
      let d := (d.flashErase (1022 + (1 - j))).recordDone (slotOff j 255)
      d.writeRecord (1 - j) 0 sector
  let off := slotOff (d.get F.memFlJrnlActive) (d.get F.memFlJrnlNext - 1)
  { d with mem := { d.mem with flash := { d.mem.flash with erasing := some sector, journal := off, suspended := false } } }.flashShow

/-- The erase ends: the sector reads 0xFF and its record is DONE. -/
def Dev.eraseEnd (d : Dev) : Dev :=
  match d.mem.flash.erasing with
  | none => d
  | some s =>
    let d := (d.flashErase s).recordDone d.mem.flash.journal
    { d with mem := { d.mem with flash := { d.mem.flash with erasing := none, suspended := false } } }.flashShow

end Sys2Proof.Machine
end

