-- ==== Sys2Proof/Machine/HouseTime.lean ====
section
/-! DEFINITION. House time, the reference front end and loop, labels, the timestamper and the GP pins (chapter 2). -/

namespace Sys2Proof.Machine

/-! ### Standards and the frame grid (R57 to R59, R497) -/

/-- The AES frame period of codes 10 and 11: the rate last detected, or the device's own (R497). -/
def Dev.aesPeriod (d : Dev) : Nat :=
  if d.ref.aesRate = 1 then 65536 else if d.ref.aesRate = 2 then 32768 else d.period

/-- A standard's frame period F as the fraction a/b, and its lines per frame N (Table 2.1). -/
structure Std where
  a : Nat
  b : Nat
  n : Nat
  deriving DecidableEq, Repr

/-- Table 2.1. -/
def Dev.stdOf (d : Dev) (code : Nat) : Std :=
  let p := d.period
  match code with
  | 0 => ⟨125829120, 1, 625⟩
  | 1 => ⟨524812288, 5, 525⟩
  | 2 => ⟨131203072, 1, 1125⟩
  | 3 => ⟨131072000, 1, 1125⟩
  | 4 => ⟨125829120, 1, 1125⟩
  | 5 => ⟨524812288, 5, 1125⟩
  | 6 => ⟨104857600, 1, 1125⟩
  | 7 => ⟨62914560, 1, 750⟩
  | 8 => ⟨262406144, 5, 750⟩
  | 9 => ⟨52428800, 1, 750⟩
  | 12 => ⟨3145728, 1, 3145728 / p⟩
  | 13 => ⟨secondTk, 1, secondTk / p⟩
  | _ => ⟨192 * d.aesPeriod, 1, 192 * d.aesPeriod / p⟩

def Dev.code (d : Dev) : Nat := d.get F.refCtrlStd

/-- The selected standard. -/
def Dev.std (d : Dev) : Std := d.stdOf d.code

/-- The frame index of instant `t` (R58). -/
def Std.frameOf (f : Std) (t : Nat) : Nat := t * f.b / f.a

/-- The first tick of frame `k` (R58). -/
def Std.firstTick (f : Std) (k : Nat) : Nat := (k * f.a + f.b - 1) / f.b

/-- The 0-based line of instant `t` (R58). -/
def Std.lineOf (f : Std) (t : Nat) : Nat := (t * f.b % f.a) * f.n / f.a

/-- HT_SUB of instant `t` (R58). -/
def Std.subOf (f : Std) (t : Nat) : Nat := ((t * f.b % f.a) * f.n - f.lineOf t * f.a) / (f.b * f.n)

/-- HT_LINE of instant `t`: line number from 1, FIELD in bit 20. -/
def Std.lineWord (f : Std) (t : Nat) : Nat :=
  f.lineOf t + 1 + (if f.a ≤ 2 * (t * f.b % f.a) then 2 ^ 20 else 0)

/-- Whether a 1.001 standard is selected (R59). -/
def seqActive (code : Nat) : Bool := decide (code ∈ [1, 2, 5, 8])

/-- HT_SEQ of instant `t` (R59): FRAME, ACTIVE and SAMPLE. -/
def Dev.seqWord (d : Dev) (t : Nat) : Nat :=
  let f := d.std
  if seqActive d.code then f.frameOf t % 5 + 128 + (t % (5 * f.a / f.b)) / d.period * 65536 else 0

/-- The device's sample rate has changed; `was` is the period before. The sample grid goes on at the new rate's multiples (R28) from the
most recent edge; where F follows the device's rate, so does the frame grid (R497). -/
def Dev.regrid (d : Dev) (was : Nat) : Dev :=
  if was = d.period then d
  else
    let n := d.time.smp.toNat
    let t := max (n * was) (min d.now ((n + 1) * was - 1))
    { d with time := { d.time with
        smp := BitVec.ofNat 64 (t / d.period)
        frame := if d.code = 10 ∨ d.code = 11 then BitVec.ofNat 64 (d.std.frameOf d.now) else d.time.frame }
             alc := { d.alc with window := t / d.period } }

/-- The views of R56 at this instant. -/
def Dev.view (d : Dev) : Snap :=
  let t := d.now
  ⟨d.time.ht, BitVec.ofNat 64 (t / d.period), BitVec.ofNat 64 (d.std.frameOf t), BitVec.ofNat 32 (d.std.lineWord t),
   BitVec.ofNat 32 (d.std.subOf t), BitVec.ofNat 32 (d.seqWord t)⟩

/-- A path takes its snapshot (R56). -/
def Dev.takeSnap (d : Dev) (p : Path) : Dev :=
  { d with time := { d.time with snaps := Tab.set (fun _ => Snap.zero) d.time.snaps p.rank d.view } }

def Dev.snap (d : Dev) (p : Path) : Snap := Tab.get (fun _ => Snap.zero) d.time.snaps p.rank

/-- The first 1 s boundary at least one block after now (R69). -/
def Dev.nextBoundary (d : Dev) : Nat := (d.now + blockTk + secondTk - 1) / secondTk * secondTk

/-! ### Phase error (R60) -/

/-- `x` taken modulo `m` into (−m/2, m/2]. -/
def wrapHalf (x : Int) (m : Nat) : Int :=
  let r := x % (m : Int)
  if (m : Int) < 2 * r then r - m else r

/-- The AES frame period of the input on codes 10 and 11: while the front end searches, that of the rate it measures at the edge;
else that of the rate it detected (R496, R497). -/
def Dev.aesIn (d : Dev) (e : RefEdge) : Nat :=
  let r := if d.ref.searching then e.rate.val else d.ref.newRate
  if r = 1 then 65536 else if r = 2 then 32768 else d.aesPeriod

/-- The spacing of edges S of Table 2.2 as a fraction over `b * n` of the standard; codes 10 to 13 have whole ticks. -/
def Dev.spacing (d : Dev) (e : RefEdge) : Nat × Nat :=
  let f := d.std
  if d.code < 10 then (f.a, f.b * f.n)
  else if d.code < 12 then (d.aesIn e, 1)
  else if d.code = 12 then ((if e.rate.val = 2 then 32768 else if e.rate.val = 1 then 65536 else d.period), 1)
  else (secondTk, 1)

/-- Edges per alignment period at that spacing. -/
def Dev.edgesPerFrame (d : Dev) : Nat := if d.code < 10 then d.std.n else if d.code < 12 then 192 else 1

/-- REF_DLY and REF_PPS_DLY as applied (R84). -/
def Dev.refDly (d : Dev) : Int := signed 32 (d.ap F.refDly)
def Dev.ppsDly (d : Dev) : Int := signed 32 (d.ap F.refPpsDly)

/-- The phase error e of an accepted edge at `m` (already less REF_DLY), rounded to a tick: grid position minus measured
instant, in (−A/2, A/2]; modulo S until the counters are established. -/
def Dev.phaseError (d : Dev) (e : RefEdge) (m : Int) : Int :=
  let (num, den) := d.spacing e
  let k := d.edgesPerFrame
  if d.ref.established then roundDiv (wrapHalf ((d.ref.lineCnt * num : Nat) - m * den) (num * k)) den
  else roundDiv (wrapHalf (-(m * den)) num) den

/-- The current phase error as REF_PHASE holds it. -/
def Dev.phase (d : Dev) : Int := signed 32 (d.get F.refPhase)

/-- Write a signed register. -/
def Dev.putInt (d : Dev) (f : Fld) (v : Int) : Dev := d.put f (v % (2 ^ f.w : Nat)).toNat

/-! ### Total error and re-anchors (R67 to R70, R83, R85) -/

/-- The label error in force, whole frames; 0 with TOD_SRC at NONE. -/
def Dev.labelL (d : Dev) : Int := if d.get F.refCtrlTodSrc = 0 then 0 else d.ref.labelL.getD 0

/-- Whether a requested re-anchor is pending or waiting (R67). -/
def Dev.requestOpen (d : Dev) : Bool :=
  d.ref.waitSet.isSome || (d.ref.reanchor.map (·.requested)).getD false

/-- Decide a re-anchor by Δ at B; a pending decision of the loop keeps its B (R69, R83). -/
def Dev.decideAnchor (d : Dev) (delta : Int) (requested : Bool) : Dev :=
  let b := match d.ref.reanchor with
    | some r => if requested || r.requested then d.nextBoundary else r.at'
    | none => d.nextBoundary
  { d with ref := { d.ref with reanchor := some ⟨delta, b, requested⟩ } }.put F.refStatusReanchorPend 1

/-- Table 2.5 with the phase error e, in LOCKED or on entry to it. `fromHold`: just entered from HOLDOVER or
HOLD_LAPSED. -/
def Dev.actOnError (d : Dev) (e : Int) (fromHold : Bool) : Dev :=
  let f := d.std
  let total := d.labelL * f.a + e * f.b
  let anchor (d : Dev) : Dev := if d.requestOpen then d else d.decideAnchor (roundDiv total f.b) false
  if !d.on F.refStatusAnchored then
    if d.get F.refCtrlTodSrc = 0 || d.ref.labelL.isSome then anchor d else d
  else if total.natAbs ≤ f.a then d.slewBy (roundDiv total f.b)
  else if d.on F.refCtrlLabelTrack || fromHold then anchor d
  else d.slewBy e

/-- The Δ of a requested re-anchor decided at B in LOCKED, HOLDOVER or HOLD_LAPSED (R85). -/
def Dev.setDelta (d : Dev) (value b : Nat) (e : Int) : Int :=
  let f := d.std
  let x := (value : Int) - b
  roundDiv (x * f.b + wrapHalf ((e - x) * f.b) f.a) f.b

/-- Decide a requested re-anchor to `value` in the present loop state (R85). -/
def Dev.decideSet (d : Dev) (value : Nat) : Dev :=
  let b := d.nextBoundary
  let delta :=
    if d.loop = Loop.free then (value : Int) - b
    else d.setDelta value b (if d.loop = Loop.locked then d.phase else 0)
  { d with ref := { d.ref with reanchor := some ⟨delta, b, true⟩, waitSet := none } }.put F.refStatusReanchorPend 1

/-- HT_CTRL.SET (R85). -/
def Dev.htSet (d : Dev) : Dev :=
  let value := d.get64 F.htSetLo F.htSetHi
  if d.get F.refCtrlTodSrc = 3 then
    { d with ref := { d.ref with hostLabel := some (value, d.now + blockTk) } }
  else if d.loop = Loop.acquire then
    { d with ref := { d.ref with waitSet := some value, reanchor := none } }.put F.refStatusReanchorPend 1
  else d.decideSet value

/-! ### Labels (R66) -/

/-- Measure a label: `value` labels the instant `t`. Answers whether it was accepted. A discarded label between two labels with
the same L does not break their row (DESIGN CHOICE, log 8). -/
def Dev.label (d : Dev) (value t : Int) (atOnce : Bool) : Bool × Dev :=
  let f := d.std
  let elabel' := (value - t) * f.b
  let l := roundDiv elabel' f.a
  if (f.a : Int) < 4 * ((elabel' - l * f.a).natAbs : Int) then (false, d.bump F.refCntLabelBad)
  else
    let n := if d.ref.confirmL = l ∧ d.ref.confirmN ≠ 0 then d.ref.confirmN + 1 else 1
    let inForce := if l = 0 ∨ atOnce = true ∨ d.get F.refLossConfirm ≤ n then some l else d.ref.labelL
    (true, ({ d with ref := { d.ref with confirmL := l, confirmN := n, labelL := inForce } }.putInt F.refLabelErr l).put
      F.refStatusLabelValid 1)

/-! ### The front end (R60 to R63, R65, R496) -/

/-- A label measured between edges: where it was accepted in LOCKED, R67 acts on the total error at once. -/
def Dev.labelAct (r : Bool × Dev) : Bool × Dev :=
  if r.1 && decide (r.2.loop = Loop.locked) then (true, r.2.actOnError r.2.phase false) else r

/-- The loop enters LOCKED (R65, R67, R85). -/
def Dev.enterLocked (d : Dev) (e : Int) : Dev :=
  let hold := d.ref.fromHold || decide (d.loop = Loop.holdover) || decide (d.loop = Loop.lapsed)
  let d := { d with ref := { d.ref with everLocked := true, fromHold := false, holdAt := none, incrHist := [] } }.setLoop
    Loop.locked
  let d := d.setIncr d.time.incr
  match d.ref.waitSet with
  | some v => d.decideSet v
  | none => d.actOnError e hold

/-- An anomalous unit (R61, Table 2.3): counted once. -/
def Dev.anomaly (d : Dev) (unit : Int) : Dev :=
  let d := { d with ref := { d.ref with clean := 0, dirty := true } }
  let d := if d.code < 10 then d.put F.refStatusFlywheel 1 else d
  if d.ref.unitAnom && decide (d.ref.unitAt = unit) then d
  else
    let detail := if d.code < 10 then d.std.lineOf d.now + 1 else 0
    ({ d with ref := { d.ref with unitAnom := true, unitAt := unit } }.bump F.refCntAnom).fault Cls.refAnom
      (BitVec.ofNat 32 detail)

/-- The line and frame counters, or the block position, after `steps` more edges, and what a frame mark does to them:
established at the first mark, confirmed, or re-aligned when two consecutive marks agree on another boundary (R62). -/
def Dev.countEdge (d : Dev) (steps : Nat) (mark : Bool) : Dev :=
  let k := d.edgesPerFrame
  let pos := (d.ref.lineCnt + steps) % k
  let d := { d with ref := { d.ref with
    lineCnt := pos, frameCnt := d.ref.frameCnt + (d.ref.lineCnt + steps) / k } }
  if !mark then d
  else if !d.ref.established then { d with ref := { d.ref with established := true, lineCnt := 0, offFrame := none } }
  else if pos = 0 then { d with ref := { d.ref with offFrame := none } }
  else if d.ref.offFrame = some pos then { d with ref := { d.ref with lineCnt := 0, offFrame := none } }
  else { d with ref := { d.ref with offFrame := some pos } }

/-- The front end has detected the input's rate (R497): REF_STATUS.RATE shows it; on codes 10 and 11 it is the AES rate that the next
block edge takes up. -/
def Dev.detectRate (d : Dev) (e : RefEdge) : Dev :=
  if 10 ≤ d.code ∧ d.code ≤ 12 then
    { d with ref := { d.ref with newRate := if d.code = 12 then d.ref.newRate else e.rate.val } }.put F.refStatusRate e.rate.val
  else d

/-- The measurement of an accepted edge of a clean unit reaches the loop. -/
def Dev.measure (d : Dev) (e : RefEdge) (m : Int) : Dev :=
  let err := d.phaseError e m
  let d := ((d.putInt F.refPhase err).putInt F.refFreq e.ppb).detectRate e
  let d := if d.code = 10 ∨ d.code = 11 then
      d.put F.refStatusGradeOk (if e.ppb.natAbs ≤ (if d.code = 10 then 1000 else 10000) then 1 else 0)
    else d
  let d := if e.frame && decide (d.code = 10 ∨ d.code = 11) then
      d.put F.refAesZofs ((roundDiv (m % (d.std.a : Int)) d.aesPeriod).toNat % 192)
    else d
  let inRange := decide (e.ppb.natAbs ≤ 100000)
  let d := if !inRange && decide (d.ref.rangeSec < d.now / secondTk + 1) then
      { d with ref := { d.ref with rangeSec := d.now / secondTk + 1 } }.bump F.refCntRange
    else d
  let d := match d.ref.hostLabel with
    | some (v, t) =>
      if e.frame && decide ((t : Int) ≤ e.at') then (({ d with ref := { d.ref with hostLabel := none } }).label v m true).2
      else d
    | none => d
  if d.loop = Loop.free then d
  else if d.loop = Loop.locked then d.actOnError err false
  else
    if inRange && e.steady && decide (d.get F.refLossRequal ≤ d.ref.clean) && !d.lasting Cls.refAnom then d.enterLocked err
    else d

/-- A frame mark ends an alignment period: it was clean or not (R65). -/
def Dev.endPeriod (d : Dev) : Dev :=
  { d with ref := { d.ref with clean := if d.ref.dirty then 0 else d.ref.clean + 1, dirty := false } }

/-- Edges in one alignment period of Table 2.2 at the input's own rate. -/
def Dev.edgesPerPeriod (d : Dev) (e : RefEdge) : Nat :=
  if d.code = 12 then blockTk / (d.spacing e).1 else d.edgesPerFrame

/-- The searching front end (R496): edges at ±W of what the input's own previous edge predicts; one whole alignment
period of them, with none lacking, returns the reference (R64, R73). -/
def Dev.search (d : Dev) (e : RefEdge) (within : Bool) (steps : Nat) : Dev :=
  if e.absent then d
  else if !within || e.bad || decide (1 < steps) then
    { d with ref := { d.ref with lastEdge := some (e.at' : Int), found := 0, established := false, lineCnt := 0, offFrame := none } }
  else
    let d := { d with ref := { d.ref with lastEdge := some (e.at' : Int), found := d.ref.found + 1 } }.countEdge steps e.frame
    if d.edgesPerPeriod e ≤ d.ref.found then
      let held := decide (d.loop = Loop.holdover) || decide (d.loop = Loop.lapsed)
      let d := { d with ref := { d.ref with searching := false, found := 0, clean := 0, dirty := true,
                                            unitAnom := false, fromHold := d.ref.fromHold || held } }.detectRate e
      if held then d.setLoop Loop.acquire else d
    else d

/-- The unit of R61 (Table 2.3) to which an edge belongs: on codes 10 to 12 the 1 ms block; else the line or PPS period, counted from
the one that begins at the last accepted edge. `num` and `den` give S, `gap` the time since that edge, `steps` its nearest whole
number of spacings. A rejected edge belongs to the period that contains it. -/
def Dev.alignUnit (d : Dev) (e : RefEdge) (gap : Int) (num steps : Nat) : Int :=
  if 10 ≤ d.code ∧ d.code ≤ 12 then (d.now / blockTk : Nat) else if e.absent then steps else gap / (num : Int)

/-- An accepted edge becomes the last one; units are counted from it on. -/
def Dev.acceptEdge (d : Dev) (e : RefEdge) (steps : Nat) : Dev :=
  let at' := if 10 ≤ d.code ∧ d.code ≤ 12 then d.ref.unitAt else d.ref.unitAt - steps
  { d with ref := { d.ref with lastEdge := some (e.at' : Int), unitAt := at' } }.countEdge steps e.frame

/-- One edge of the selected input, or the place where one lacked (R60, R61). -/
def Dev.alignmentEdge (d : Dev) (e : RefEdge) : Dev :=
  let d := d.reach e.at'
  if !d.on F.refCtrlRun then d
  else
    let (num, den) := d.spacing e
    let w := min (d.get F.refWin * den * 4) num    -- W in quarters of 1/den tick: min(WIN, S/4)
    match d.ref.lastEdge with
    | none =>
      if e.absent then d
      else if d.ref.searching then d.search e false 0
      else if e.bad then d.anomaly (d.now / blockTk : Nat)
      else (d.acceptEdge e 0).measure e ((e.at' : Int) - d.refDly)
    | some last =>
      let gap := ((e.at' : Int) - last) * den
      let steps := max 1 (roundDiv gap num).toNat
      let off := gap - (steps * num : Nat)
      let within := decide (4 * off.natAbs ≤ w) && !e.absent
      if d.ref.searching then d.search e within steps
      else
        let unit := if within && !decide (10 ≤ d.code ∧ d.code ≤ 12) then 0 else d.alignUnit e gap num steps
        let anom := !within || e.bad
        let d := if within then d.acceptEdge e steps else d
        let d := if anom then d.anomaly unit
          else if d.code < 10 then d.put F.refStatusFlywheel 0 else d
        let d := if within && e.frame then d.endPeriod else d
        if anom || (d.ref.unitAnom && decide (d.ref.unitAt = unit)) then d
        else d.measure e ((e.at' : Int) - d.refDly)

/-- The reference is lost (R63, R83, R496): the front end searches, a re-anchor decided by the loop is cancelled, and the
loop goes where R64 and R495 say. -/
def Dev.referenceLost (d : Dev) : Dev :=
  if !d.on F.refCtrlRun || d.ref.searching then d
  else
    let keep := (d.ref.reanchor.map (·.requested)).getD false
    let d := match d.ref.lastEdge with
      | some t => d.reach (t + (d.get F.refLossN * d.std.a / d.std.b : Nat)).toNat
      | none => d
    let d := { d with ref := { d.ref with
      searching := true, lastEdge := none, found := 0, established := false, lineCnt := 0, offFrame := none,
      clean := 0, dirty := true, reanchor := if keep then d.ref.reanchor else none } }
    let d := if keep then d else d.put F.refStatusReanchorPend (if d.ref.waitSet.isSome then 1 else 0)
    (if 10 ≤ d.code ∧ d.code ≤ 12 then (d.put F.refStatusRate 0).put F.refStatusGradeOk 0 else d).enterHoldover

/-- Holdover lapses (R72): its instant is the first ms at which the estimate exceeds REF_HOLD_LIM. -/
def Dev.holdLapse (d : Dev) : Dev :=
  match d.ref.holdAt with
  | none => d
  | some t =>
    if d.loop = Loop.holdover then
      ((d.reach (t + ((2000 * d.get F.refHoldLim + 1) * blockTk : Nat)).toNat).setLoop Loop.lapsed).direct Direct.holdLapse
    else d

/-- REF_CTRL.RUN written 1 (R64). -/
def Dev.refStart (d : Dev) : Dev :=
  { d with ref := { d.ref with
      established := false, lastEdge := none, lineCnt := 0, offFrame := none, searching := false, found := 0, fromHold := false, clean := 0, dirty := true, unitAnom := false, holdAt := none } }.setLoop
    Loop.acquire

/-- REF_CTRL.RUN written 0 (R82). FLYWHEEL, RATE and GRADE_OK stay as they stood (DESIGN CHOICE, log 8). -/
def Dev.refStop (d : Dev) : Dev :=
  let d := if d.loop = Loop.acquire then d.put F.refStatusAnchored 0 else d
  let d := (d.setLoop Loop.free).slewEnd
  let d := { d with ref := { d.ref with holdAt := none, fromHold := false, searching := false, lastEdge := none } }
  match d.ref.reanchor with
  | some r => if r.requested then d else
      ({ d with ref := { d.ref with reanchor := none } }).put F.refStatusReanchorPend 0
  | none => match d.ref.waitSet with
    | some v => d.decideSet v
    | none => d

/-- R70 at B: house time steps, the next sample edge is m, and the reference's state moves to the new scale. The blocks'
own rules about a re-anchor are applied by the row. The counter's fraction is 0 after the step, and a HOST label whose edge is still to
come waits on (DESIGN CHOICE and DEDUCED from R85, log 8). -/
def Dev.stepTime (d : Dev) (r : Anchor) : Dev :=
  let t := ((r.at' : Int) + r.delta).toNat
  let p := d.period
  let m := (t + p / 2 + p - 1) / p
  let shift (o : Option Int) : Option Int := o.map (· + r.delta)
  let first := !d.ref.anchoredOnce
  let d := { d with
    time := { d.time with ht := BitVec.ofNat 64 t, frac := 0, smp := BitVec.ofNat 64 (m - 1),
                          blk := BitVec.ofNat 64 (t / blockTk) }
    ref := { d.ref with reanchor := none, waitSet := none, anchoredOnce := true, labelL := none, confirmN := 0,
                        hostLabel := d.ref.hostLabel.map fun (q : Nat × Nat) => (q.1, ((q.2 : Int) + r.delta).toNat),
                        lastEdge := shift d.ref.lastEdge,
                        holdAt := shift d.ref.holdAt, lastPps := shift d.ref.lastPps,
                        incrHist := d.ref.incrHist.map fun (q : Nat × Nat) => (((q.1 : Int) + r.delta).toNat, q.2) } }
  let d := { d with time := { d.time with frame := BitVec.ofNat 64 (d.std.frameOf t) } }
  let e := roundDiv (wrapHalf ((d.phase - r.delta) * d.std.b) d.std.a) d.std.b
  let d := ((((d.putInt F.refPhase e).put F.refStatusAnchored 1).put F.refStatusReanchorPend 0).slewEnd).bump F.refCntReanchor
  if first then d else d.direct Direct.reanchor

/-! ### Leap seconds (R74) -/

/-- HT_LEAP takes effect at S_L. -/
def Dev.leapSecond (d : Dev) : Dev :=
  let dir := d.get F.htLeapCtrlDir
  if dir = 0 then d
  else
    let d := d.reach (d.get64 F.htLeapLo F.htLeapHi * secondTk)
    let ofs := d.get F.htUtc
    let d := { d with ref := { d.ref with leapAt := some (d.get64 F.htLeapLo F.htLeapHi, if dir = 1 then 1 else -1) } }
    ((d.put F.htUtc (if dir = 1 then ofs + 1 else ofs + 65535)).put F.htLeapCtrlDone 1).put F.htLeapCtrlDir 0

/-- HT_UTC.OFS in seconds. -/
def Dev.utcOfs (d : Dev) : Int := signed 16 (d.get F.htUtc)

/-! ### LTC_IN (R75, R76) -/

/-- Two BCD digits of an LTC word. -/
def ltcBcd (w : BitVec 80) (lo n hi m : Nat) : Nat :=
  (w >>> lo).toNat % 2 ^ n + 10 * ((w >>> hi).toNat % 2 ^ m)

/-- The sync word of ST 12-1, bits 64 to 79. -/
def ltcSync : Nat := 0xBFFC

/-- The user bits, groups 1 to 8. -/
def ltcUser (w : BitVec 80) : Nat :=
  ((List.range 8).map fun i => ((w >>> (8 * i + 4)).toNat % 16) * 16 ^ i).sum

/-- The time address one frame later (hours, minutes, seconds, frames), honouring drop frame, which belongs to the rate 30/1.001
alone. -/
def ltcNext (rate : Nat) (drop : Bool) : Nat × Nat × Nat × Nat → Nat × Nat × Nat × Nat
  | (h, m, s, f) =>
    if f + 1 < rate then (h, m, s, f + 1)
    else if s + 1 < 60 then (h, m, s + 1, 0)
    else
      let (h', m') := if m + 1 < 60 then (h, m + 1) else ((h + 1) % 24, 0)
      (h', m', 0, if drop && decide (rate = 30) && decide (m' % 10 ≠ 0) then 2 else 0)

/-- RATE code of REF_LTC_FLAGS. -/
def ltcRateCode (rate : Nat) : Nat := if rate = 24 then 1 else if rate = 25 then 2 else if rate = 30 then 3 else 0

/-- Whether an LTC frame rate serves as a label source with the selected standard (R76). -/
def Dev.ltcServes (d : Dev) (rate : Nat) (drop : Bool) : Bool :=
  !drop && (match d.code with
    | 0 | 4 => rate == 25
    | 3 => rate == 24
    | 6 => rate == 30
    | 7 => rate == 25
    | 9 => rate == 30
    | 10 | 11 | 12 | 13 => true
    | _ => false)

/-- The day that brings a time of day (in ticks) nearest to the instant `t`. -/
def nearestDay (v t : Int) : Int := v + roundDiv (t - v) (86400 * secondTk) * (86400 * secondTk : Nat)

/-- REF_LTC_FLAGS.VALID: a valid frame in the last 100 ms. -/
def Dev.ltcValid (d : Dev) : Bool :=
  match d.ref.ltcAt with
  | some t => decide (d.now ≤ t + 100 * blockTk)
  | none => false

/-- The time address that the next frame must follow to be valid (R75): that of the previous valid frame; where no valid frame was read
in the last 100 ms, that of the last frame read forwards (DEDUCED, log 8). -/
def Dev.ltcPred (d : Dev) : Option (Nat × Nat × Nat × Nat) := if d.ltcValid then d.ref.ltcPrev else d.ref.ltcLast

/-- A decoded LTC frame (R75): its values are taken if it is valid, and it may label its start (R76). -/
def Dev.ltcFrame (d : Dev) (l : LtcIn) : Dev :=
  let d := d.reach l.start
  let w := l.word
  let hms := (ltcBcd w 48 4 56 2, ltcBcd w 32 4 40 3, ltcBcd w 16 4 24 3, ltcBcd w 0 4 8 2)
  let drop := w.getLsbD 10
  if (w >>> 64).toNat ≠ ltcSync ∨ l.speedOk = false then d
  else if l.reverse then d.put F.refLtcFlagsReverse 1
  else
    let d := d.put F.refLtcFlagsReverse 0
    let next := match d.ltcPred with
      | some q => decide (ltcNext l.rate drop q = hms)
      | none => false
    let d := { d with ref := { d.ref with ltcLast := some hms } }
    if !next then d
    else
      let (h, m, s, f) := hms
      let d := (((((((({ d with ref := { d.ref with ltcAt := some d.now, ltcPrev := some hms } }.put F.refLtcTimeFrames f).put
        F.refLtcTimeSeconds s).put F.refLtcTimeMinutes m).put F.refLtcTimeHours h).put F.refLtcFlagsDrop
        (if drop then 1 else 0)).put F.refLtcFlagsColour (if w.getLsbD 11 then 1 else 0)).put F.refLtcFlagsRate
        (ltcRateCode l.rate)).put F.refLtcUb (ltcUser w))
      if d.get F.refCtrlTodSrc ≠ 2 then d
      else if !d.ltcServes l.rate drop then d.bump F.refCntLabelBad
      else
        let sec : Int := (h * 3600 + m * 60 + s : Nat) - signed 32 (d.get F.refLtcOfs) + d.utcOfs
        let v : Int := sec * secondTk + (f * (secondTk / l.rate) : Nat)
        (Dev.labelAct (d.label (nearestDay v l.start) l.start false)).2

/-! ### PPS (R77, R369) -/

/-- The instant of an event at ECLK phase `j` of the present XI cycle (R78), rounded with halves up. -/
def Dev.stampNow (d : Dev) (j : Nat) : Nat :=
  d.now + (2 * j * d.time.incr.toNat + 10 * 2 ^ 32) / (20 * 2 ^ 32)

/-- A PPS_IN edge: it is the label instant of a timely sentence (R77, R369). -/
def Dev.ppsEdge (d : Dev) (falling : Bool) (phase : Nat) : Dev :=
  if d.on F.refCtrlPpsPol != falling then d
  else
    let t : Int := d.stampNow phase
    let s := d.ref.sentence
    let d := { d with ref := { d.ref with lastPps := some t, sentence := none } }
    match s with
    | none => d
    | some s =>
      if d.get F.refCtrlTodSrc ≠ 1 then d
      else
        let r := Dev.labelAct (d.label (s.sec * secondTk) (t - d.ppsDly) false)
        if !r.1 then r.2.put F.ua0TodStatReason 6
        else
          let d := r.2.putInt F.htUtc s.ofs
          if s.dir = 0 then d.put F.htLeapCtrlDir 0
          else if s.leapAt ≤ s.sec then d
          else ((d.put F.htLeapCtrlDir s.dir).putInt F.htLeapLo (s.leapAt % 2 ^ 32)).putInt F.htLeapHi (s.leapAt / 2 ^ 32)

/-! ### The timestamper (R78 to R81) -/

/-- Whether HT_TS_EDGE selects this direction on pin `n`. -/
def Dev.edgeSelected (d : Dev) (n : Nat) (falling : Bool) : Bool :=
  let c := (d.get F.htTsEdge / 4 ^ n) % 4
  c == 2 || (c == 0 && !falling) || (c == 1 && falling)

/-- Whether source `n` (16 the host trigger) goes to the strike FIFO. -/
def Dev.toStrike (d : Dev) (n : Nat) : Bool :=
  if n < 16 then (d.get F.htTsRouteGp).testBit n else d.on F.htTsRouteHost

/-- What becomes of a timestamped edge. -/
inductive StampOut where
  | close | full | log | strike
  deriving DecidableEq, Repr

/-- Offer a stamp to its FIFO (R79, R80). -/
def Dev.pushStamp (d : Dev) (st : Stamp) : StampOut × Dev :=
  let last := Tab.find d.time.lastEdge st.src
  let close := match last with
    | some t => decide (10 * st.ts < 10 * t + 2048)
    | none => false
  let fifo := if d.toStrike st.src then d.time.strikeFifo else d.time.logFifo
  if close then (.close, d.bump F.htTsDrop)
  else if 16 ≤ fifo.length then (.full, d.bump F.htTsDrop)
  else
    let d := { d with time := { d.time with lastEdge := Tab.put d.time.lastEdge st.src st.ts } }
    if d.toStrike st.src then (.strike, { d with time := { d.time with strikeFifo := d.time.strikeFifo ++ [st] } })
    else (.log, { d with time := { d.time with logFifo := d.time.logFifo ++ [st] } })

/-- Whether the timestamper takes an edge on GPn: enabled, selected, an input, and settled (R79, R81). -/
def Dev.takesEdge (d : Dev) (n : Nat) (falling : Bool) : Bool :=
  (d.get F.htTsEn).testBit n && d.edgeSelected n falling && !(d.get F.htGpOe).testBit n && !d.time.gpSettle.getLsbD n

/-- The level at a GP ball, driven or not (R81). -/
def Dev.gpBall (d : Dev) (n : Nat) : Bool :=
  if (d.get F.htGpOe).testBit n then (d.get F.htGpOut).testBit n else d.time.gpLevel.getLsbD n

/-- HT_GP_IN. -/
def Dev.gpIn (d : Dev) : Nat := ((List.range 16).map fun n => if d.gpBall n then 2 ^ n else 0).sum

/-- The external level of pin `n`. -/
def Dev.setGpLevel (d : Dev) (n : Nat) (level : Bool) : Dev :=
  let bit : BitVec 16 := 1#16 <<< n
  { d with time := { d.time with gpLevel := if level then d.time.gpLevel ||| bit else d.time.gpLevel &&& ~~~bit } }

/-- A read of HT_TS_LO (R80): the oldest log entry, with HT_TS_HI and HT_TS_SRC latched. -/
def Dev.readStamp (d : Dev) : Word × Dev :=
  match d.time.logFifo with
  | [] => (0, (d.setReg F.htTsHi.addr 0).setReg F.htTsSrcSrc.addr 0)
  | s :: t =>
    let d := { d with time := { d.time with logFifo := t } }
    (BitVec.ofNat 32 s.ts,
     (((d.put F.htTsHi (s.ts / 2 ^ 32)).put F.htTsSrcSrc s.src).put F.htTsSrcEdge (if s.falling then 1 else 0)).put
       F.htTsSrcValid 1)

/-! ### Register rules of HT and REF -/

/-- Whether any of the sixteen 2-bit codes is 3. -/
def anyThree (w : Word) : Bool := (List.range 16).any fun i => bitsOf w (2 * i) 2 == 3

/-- EARG and ESTATE of writes to HT and REF registers (Tables 2.7, 2.8, R74, R76, R85). REF_HOLD_LIM of 0, outside the range that
Table 2.8 gives, returns EARG as its neighbours do (DESIGN CHOICE, log 8). -/
def Dev.timeCheck (d : Dev) (a : Nat) (w : Word) : Status :=
  let pps := d.get F.refCtrlTodSrc = 1
  let changes (f : Fld) : Bool := bitsOf w f.lo f.w != d.get f
  if a = F.htLeapCtrlDir.addr then
    if bitsOf w 0 2 = 3 then .earg else if pps ∧ changes F.htLeapCtrlDir = true then .estate else .ok
  else if a = F.htTsEdge.addr then (if anyThree w then .earg else .ok)
  else if a = F.htUtc.addr then (if pps ∧ changes F.htUtc = true then .estate else .ok)
  else if a = F.htLeapLo.addr then (if pps ∧ changes F.htLeapLo = true then .estate else .ok)
  else if a = F.htLeapHi.addr then (if pps ∧ changes F.htLeapHi = true then .estate else .ok)
  else if a = F.htCtrl.addr then
    if w.getLsbD 0 ∧ ¬ (d.get F.refCtrlTodSrc = 0 ∨ d.get F.refCtrlTodSrc = 3) then .estate else .ok
  else if a = F.refCtrlStd.addr then
    if 14 ≤ bitsOf w 0 4 ∨ bitsOf w 8 2 = 3 ∨ (bitsOf w 5 2 = 2 ∧ seqActive (bitsOf w 0 4) = true) then .earg else .ok
  else if a = F.refWin.addr then (if 315 ≤ bitsOf w 0 16 ∧ bitsOf w 0 16 ≤ 31457 then .ok else .earg)
  else if a = F.refLossN.addr then
    if bitsOf w 0 8 = 0 ∨ bitsOf w 16 8 = 0 ∨ bitsOf w 24 4 = 0 then .earg else .ok
  else if a = F.refHoldLim.addr then (if bitsOf w 0 16 = 0 then .earg else .ok)
  else .ok

/-- What writes to HT and REF registers start, after the fields have changed: `old` is the register before, `w1` the
word of W1S bits written. Only a write that changes STD forgets the AES rate last detected (R497: DESIGN CHOICE, log 8). -/
def Dev.timeHook (d : Dev) (a : Nat) (old w1 : Word) : Dev :=
  if a = F.htCtrl.addr then (if w1.getLsbD 0 then d.htSet else d)
  else if a = F.htGpOe.addr then
    let fell := (old &&& ~~~(d.reg a)).truncate 16
    { d with time := { d.time with gpSettle := d.time.gpSettle ||| fell } }
  else if a = F.refCtrlStd.addr then
    let d := if bitsOf old 0 4 ≠ d.code then
        let d := { d with ref := { d.ref with aesRate := 0, newRate := 0 } }
        { d with time := { d.time with frame := BitVec.ofNat 64 (d.std.frameOf d.now) } }
      else d
    if old.getLsbD 4 = d.on F.refCtrlRun then d
    else if d.on F.refCtrlRun then d.refStart else d.refStop
  else d

/-- Registers of HT and REF that are views rather than stored words. -/
def Dev.timeRead (d : Dev) (p : Path) (a : Nat) : Option (Word × Dev) :=
  let s := d.snap p
  let some' (w : Word) : Option (Word × Dev) := some (w, d)
  if a = F.htNowLo.addr then
    let d := d.takeSnap p
    some (((d.snap p).now).truncate 32, d)
  else if a = F.htNowHi.addr then some' (s.now >>> 32 |>.truncate 32)
  else if a = F.htSmpLo.addr then some' (s.smp.truncate 32)
  else if a = F.htSmpHi.addr then some' (s.smp >>> 32 |>.truncate 32)
  else if a = F.htFrmLo.addr then some' (s.frm.truncate 32)
  else if a = F.htFrmHi.addr then some' (s.frm >>> 32 |>.truncate 32)
  else if a = F.htLineLine.addr then some' s.line
  else if a = F.htSub.addr then some' s.sub
  else if a = F.htSeqFrame.addr then some' s.seq
  else if a = F.htIncrFrac.addr then some' (d.time.incr.truncate 32)
  else if a = F.htIncrInt.addr then some' (d.time.incr >>> 32 |>.truncate 32)
  else if a = F.htTsStatLogLvl.addr then
    some' (BitVec.ofNat 32 (d.time.logFifo.length + 256 * d.time.strikeFifo.length))
  else if a = F.htTsLo.addr then some d.readStamp
  else if a = F.htGpIn.addr then some' (BitVec.ofNat 32 d.gpIn)
  else if a = F.refHoldAge.addr then
    some' (if d.loop = Loop.holdover ∨ d.loop = Loop.lapsed then BitVec.ofNat 32 d.holdAge else 0)
  else if a = F.refLtcFlagsValid.addr then
    some' (insBits (d.reg a) 0 1 (if d.ltcValid then 1 else 0))
  else none

end Sys2Proof.Machine
end

