-- ==== Sys2Proof/Machine/Timecode.lean ====
section
/-! DEFINITION. UTC labels (R74) and the LTC generator: frames, time addresses, words and the BIPHASE line (R112, R287 to
R289). -/

namespace Sys2Proof.Machine

/-- One day in seconds. -/
def daySec : Int := 86400

/-- The UTC label of the TAI second `sec`, counted from the epoch, and whether it is an inserted second (R74): the second
before S_L is then labelled 23:59:60. -/
def Dev.utcLabel (d : Dev) (sec : Nat) : Int × Bool :=
  if d.get F.htLeapCtrlDir = 1 ∧ sec + 1 = d.get64 F.htLeapLo F.htLeapHi then ((sec : Int) - 1 - d.utcOfs, true)
  else ((sec : Int) - d.utcOfs, false)

/-- The label offset that was in force at TAI second `sec`, when the last leap lies after it. -/
def Dev.ofsAt (d : Dev) (sec : Int) : Int :=
  match d.ref.leapAt with
  | some (s, dir) => if sec < (s : Int) then d.utcOfs - dir else d.utcOfs
  | none => d.utcOfs

/-- The most recent TAI second at or before `sec` whose label plus `ofs` seconds reads 00:00:00 (R285, R288). -/
def Dev.midnight (d : Dev) (sec : Nat) (ofs : Int) : Int :=
  let (l, ins) := d.utcLabel sec
  let m := (sec : Int) - (if ins then 1 else 0) - (l + ofs) % daySec
  m - (d.utcOfs - d.ofsAt m)

/-! ### LTC frames -/

/-- The frame period a/b of an OUT_LTC_CFG.RATE (Table 8.5). -/
def ltcPeriod (rate : Nat) : Nat × Nat :=
  match rate with
  | 0 => (131072000, 1)
  | 1 => (125829120, 1)
  | 2 => (104857600, 1)
  | 3 => (524812288, 5)
  | _ => (131203072, 1)

/-- Frames per second counted at a RATE. -/
def ltcFps (rate : Nat) : Nat := if rate = 0 ∨ rate = 4 then 24 else if rate = 1 then 25 else 30

def Dev.ltcRate (d : Dev) : Nat := d.get F.outLtcCfgRate

/-- The LTC frame that holds instant `t`: frame k begins at floor(k·a/b). -/
def Dev.ltcFrameAt (d : Dev) (t : Nat) : Nat := ((t + 1) * (ltcPeriod d.ltcRate).2 - 1) / (ltcPeriod d.ltcRate).1

/-- The first tick of LTC frame `k`. -/
def Dev.ltcStart (d : Dev) (k : Nat) : Nat := k * (ltcPeriod d.ltcRate).1 / (ltcPeriod d.ltcRate).2

/-- OUT_LTC_OFS as applied. -/
def Dev.ltcOfs (d : Dev) : Int := signed 32 (d.ap F.outLtcOfs)

/-- Hours, minutes, seconds and frames. -/
structure TimeAddr where
  hh : Nat
  mm : Nat
  ss : Nat
  ff : Nat
  deriving DecidableEq, Repr

/-- A count of frames since midnight as an address at `fps` frames per second. -/
def addrOf (fps n : Nat) : TimeAddr := ⟨n / (3600 * fps) % 24, n / (60 * fps) % 60, n / fps % 60, n % fps⟩

/-- Drop-frame numbering of a frame count (R288). -/
def dropCount (n : Nat) : Nat :=
  let m := n % 17982
  n + 18 * (n / 17982) + (if 2 ≤ m then 2 * ((m - 2) / 1798) else 0)

/-- The time address of frame `k` (R288). -/
def Dev.ltcAddr (d : Dev) (k : Nat) : TimeAddr :=
  let (a, b) := ltcPeriod d.ltcRate
  let t := d.ltcStart k
  let sec := t / secondTk
  if d.ltcRate ≤ 2 then
    let (l, ins) := d.utcLabel sec
    let ff := (t - sec * secondTk) / a
    if ins then ⟨23, 59, 60, ff⟩
    else
      let s := ((l + d.ltcOfs) % daySec).toNat
      ⟨s / 3600, s / 60 % 60, s % 60, ff⟩
  else
    let x := (d.midnight sec d.ltcOfs).toNat * secondTk
    let n := k - (x * b + a - 1) / a
    if d.ltcRate = 3 ∧ d.on F.outLtcCfgDf = true then addrOf 30 (dropCount n) else addrOf (ltcFps d.ltcRate) n

/-- One-bits of the low `n` bits. -/
def ones (n w : Nat) : Nat := ((List.range n).filter fun i => w.testBit i).length

/-- The 80-bit word of frame `k` (Table 8.6), with the polarity correction of R289. -/
def Dev.ltcWord (d : Dev) (k : Nat) : BitVec 80 :=
  let t := d.ltcAddr k
  let r1 := decide (d.ltcRate = 1)
  let bgf (i : Nat) : Nat := d.ap F.outLtcCfgBgf / 2 ^ i % 2
  let df : Nat := if d.ltcRate = 3 ∧ d.on F.outLtcCfgDf = true then 1 else 0
  let user := ((List.range 8).map fun i => d.ap F.outLtcUb / 16 ^ i % 16 * 2 ^ (8 * i + 4)).sum
  let digits := t.ff % 10 + (t.ff / 10 % 4) * 2 ^ 8 + df * 2 ^ 10 + (t.ss % 10) * 2 ^ 16 + (t.ss / 10 % 8) * 2 ^ 24
    + (t.mm % 10) * 2 ^ 32 + (t.mm / 10 % 8) * 2 ^ 40 + (t.hh % 10) * 2 ^ 48 + (t.hh / 10 % 4) * 2 ^ 56
  let flags := (if r1 then bgf 0 * 2 ^ 27 + bgf 2 * 2 ^ 43 else bgf 0 * 2 ^ 43 + bgf 2 * 2 ^ 59) + bgf 1 * 2 ^ 58
  let w := user + digits + flags + 0xBFFC * 2 ^ 64
  BitVec.ofNat 80 (if ones 80 w % 2 = 0 then w else w + 2 ^ (if r1 then 59 else 27))

/-- The BIPHASE line at instant `t` (R112): the latest transition at or before it, and whether the level after it is the
level that POL 0 calls +1. Every transition inverts the level, since R289 gives every word an even number of zeros. -/
def Dev.ltcLine (d : Dev) (t : Nat) : Option (Nat × Bool) :=
  if !d.apOn F.outLtcCfgEn then none
  else
    let (a, b) := ltcPeriod d.ltcRate
    let k := d.ltcFrameAt t
    let w := if d.outp.ltcFrame = k then d.outp.ltcWord.getD (d.ltcWord k) else d.ltcWord k
    let cell (j : Nat) : Nat := (80 * k * a + j * a) / (80 * b)
    let j := ((List.range 80).filter fun i => decide (cell i ≤ t)).length - 1
    let mid := (cell j + cell (j + 1)) / 2
    let before := j + ones j w.toNat
    if w.getLsbD j && decide (mid ≤ t) then some (mid, before % 2 == 1) else some (cell j, before % 2 == 0)

/-- LTC_FRAME_START: the generator forms the word of the frame that starts next (R287, R288). -/
def Dev.ltcFrameStart (d : Dev) : Dev :=
  let cur := d.ltcFrameAt d.now
  let k := if d.ltcStart cur = d.now ∧ d.outp.ltcFrame ≠ cur then cur else cur + 1
  let d := d.reach (d.ltcStart k)
  if !d.apOn F.outLtcCfgEn then { d with outp := { d.outp with ltcWord := none, ltcFrame := k } }
  else
    let t := d.ltcAddr k
    ({ d with outp := { d.outp with ltcWord := some (d.ltcWord k), ltcFrame := k } }.put F.outLtcTime
      (t.ff + 256 * t.ss + 65536 * t.mm + 16777216 * t.hh)).put64 F.outLtcFrmLo F.outLtcFrmHi k

end Sys2Proof.Machine
end

