-- ==== Sys2Proof/Machine/Dsp.lean ====
section
/-! DEFINITION. The arithmetic of a voice (chapter 3, R89 to R130): every value is an exact integer, narrowed where the manual
narrows it. -/

namespace Sys2Proof.Machine

/-! ### Rounding and saturation (R91) -/

/-- rnd(x, k). -/
def rnd (x : Int) (k : Nat) : Int := (x + 2 ^ (k - 1)) / (2 ^ k : Nat)

/-- sat_w(x). -/
def sat (w : Nat) (x : Int) : Int := max (-(2 ^ (w - 1) : Nat)) (min ((2 ^ (w - 1) : Nat) - 1) x)

/-- Clamp to a range. -/
def clampTo (lo hi x : Int) : Int := max lo (min hi x)

/-- x modulo 2^48. -/
def mod48 (x : Int) : Nat := (x % (2 ^ 48 : Nat)).toNat

/-! ### Waveforms (R104 to R107) -/

/-- sine(φ) for a phase below 2^48 (R104). -/
def sine (ph : Nat) : Int :=
  let p := ph / 2 ^ 24
  let q := p / 2 ^ 22
  let r := p % 2 ^ 22
  let x := if q = 0 ∨ q = 2 then r else 2 ^ 22 - r
  let i := x / 4096
  let f : Nat := x % 4096
  let m := if f = 0 then sineTable i else sineTable i + (sineTable (i + 1) - sineTable i) * (f : Int) / 4096
  if q < 2 then m else -m

/-- The correction rr of BLSAW (R105). -/
def blep (t dt : Nat) : Int :=
  if dt = 0 then 0
  else if t < dt then
    let x : Int := (t * 2 ^ 23 / dt : Nat)
    2 * x - x * x / 2 ^ 23 - 2 ^ 23
  else if 2 ^ 24 - dt ≤ t then
    let x : Int := -((2 ^ 24 - t) * 2 ^ 23 / dt : Nat)
    x * x / 2 ^ 23 + 2 * x + 2 ^ 23
  else 0

/-- The unsaturated saw value of R105. -/
def saw (t dt : Nat) : Int := (t : Int) - 2 ^ 23 - blep t dt

def blSaw (t dt : Nat) : Int := sat 24 (saw t dt)

/-- BLPULSE of width `pw` (R106). -/
def blPulse (t dt pw : Nat) : Int := sat 24 (saw t dt - saw ((t + pw * 256) % 2 ^ 24) dt)

/-- The correction cc of a BLTRI corner at circular distance `δ` (R107). -/
def blamp (δ dt : Nat) : Int :=
  if dt = 0 ∨ dt ≤ δ then 0
  else
    let y : Nat := 2 ^ 23 - δ * 2 ^ 23 / dt
    let bb := y ^ 3 / (3 * 2 ^ 46)
    (dt * bb / 2 ^ 21 : Nat)

/-- BLTRI (R107). -/
def blTri (t dt : Nat) : Int :=
  let naive : Int := 2 * ((t : Int) - 2 ^ 23).natAbs - 2 ^ 23
  let d0 := min t (2 ^ 24 - t)
  let d1 := ((t : Int) - 2 ^ 23).natAbs
  sat 24 (naive - blamp d0 dt + blamp d1 dt)

/-! ### Noise (R113 to R115) -/

/-- One step of the noise generator. -/
def lfsr (s : Word) : Word := (s >>> 1) ^^^ (if s.getLsbD 0 then 0x80200003#32 else 0)

/-- The noise output s[31:8]. -/
def noiseOut (s : Word) : Int := signed 24 (s.toNat / 256)

/-- mix(b, seed) of R115; the first argument is any integer, taken modulo 2^64. -/
def mix (b : Int) (seed : Word) : Word :=
  let x := BitVec.ofInt 64 b
  let h := (x.truncate 32 ^^^ (x >>> 32).truncate 32 ^^^ seed) * 0x9E3779B9#32
  let h := h ^^^ (h >>> 16)
  if h = 0 then 1 else h

/-! ### LFO shapes (R124) -/

/-- An LFO's output at phase `ph` with the cycle count `c`. -/
def lfoShape (shape ph : Nat) (c : Int) (seed : Nat) : Int :=
  let p := ph / 2 ^ 24
  match shape with
  | 0 => sine ph
  | 1 => sat 24 (2 * (((p + 3 * 2 ^ 22) % 2 ^ 24 : Nat) - (2 : Int) ^ 23).natAbs - 2 ^ 23)
  | 2 => (p : Int) - 2 ^ 23
  | 3 => 2 ^ 23 - 1 - (p : Int)
  | 4 => if p < 2 ^ 23 then 2 ^ 23 - 1 else -(2 ^ 23)
  | 5 => noiseOut (mix c (BitVec.ofNat 32 seed))
  | _ => 0

/-! ### Increments (R102) -/

/-- inc_eff for INC and a pitch offset, and whether it was clamped. -/
def incEff (inc : Nat) (pt : Int) : Nat × Bool :=
  let pt := clampTo (-16384) 16384 pt
  let o := pt / 4096
  let k := (pt % 4096).toNat
  let v := inc * pitchTable k / 2 ^ ((30 : Int) - o).toNat
  if 2 ^ 47 - 1 < v then (2 ^ 47 - 1, true) else (v, false)

/-! ### Envelopes (R120 to R122) -/

/-- An envelope's header and segments as the snapshot holds them: header word, segment words. -/
structure EnvCfg where
  h : Nat
  seg : Nat → Nat

def EnvCfg.bit (c : EnvCfg) (i : Nat) : Bool := c.h.testBit i
def EnvCfg.loopFrom (c : EnvCfg) : Nat := c.h / 2 ^ 16 % 8
def EnvCfg.loopTo (c : EnvCfg) : Nat := c.h / 2 ^ 19 % 8
def EnvCfg.relSeg (c : EnvCfg) : Nat := c.h / 2 ^ 24 % 8
def EnvCfg.endSeg (c : EnvCfg) : Nat := c.h / 2 ^ 27 % 8
def EnvCfg.time (c : EnvCfg) (i : Nat) : Nat := c.seg i % 2 ^ 16 * blockTk
def EnvCfg.target (c : EnvCfg) (i : Nat) : Int := (c.seg i / 2 ^ 16 % 2 ^ 16 * 256 : Nat)

/-- The header constraints of Table 3.7. -/
def EnvCfg.ok (c : EnvCfg) : Bool :=
  decide (c.loopFrom ≤ c.loopTo) && decide (c.loopTo ≤ c.endSeg) && decide (c.relSeg ≤ c.endSeg)

/-- Whether LOOP_EN acts: not when every segment of the loop has TIME 0 (R122). -/
def EnvCfg.loops (c : EnvCfg) : Bool :=
  c.bit 22 && (List.range 8).any fun i => decide (c.loopFrom ≤ i) && decide (i ≤ c.loopTo) && decide (0 < c.time i)

/-- The level `t` ticks into segment `i` from level `l0`, for t < D (R120, R121). -/
def EnvCfg.levelIn (c : EnvCfg) (i : Nat) (l0 : Int) (t : Nat) : Int :=
  let dl := c.target i - l0
  let dur := c.time i
  if c.bit i then
    let u := t * 65536 / dur
    let k := u / 256
    let f := u % 256
    let e := envTable k + (envTable (k + 1) - envTable k) * f / 256
    l0 + dl * e / 65536
  else l0 + (dl * t).tdiv dur

/-- The envelope at instant `tau`: it passes through every segment end it reaches. DESIGN CHOICE (log 25): an envelope that holds at a
segment whose HOLD bit is cleared before the release goes on at once, its next segment counted from that segment's end. -/
def EnvCfg.run (c : EnvCfg) (tau : Int) : Nat → Env → Env
  | 0, e => e
  | fuel + 1, e =>
    if e.done then e
    else
      let t := (tau - e.start).toNat
      let dur := c.time e.seg
      if t < dur then { e with level := c.levelIn e.seg e.l0 t }
      else
        let l1 := c.target e.seg
        let next (s : Nat) : Env := c.run tau fuel { e with seg := s, start := e.start + dur, l0 := l1, level := l1 }
        if !e.released && c.bit (8 + e.seg) then { e with level := l1 }
        else if !e.released && c.loops && decide (e.seg = c.loopTo) then next c.loopFrom
        else if c.endSeg ≤ e.seg ∨ 7 ≤ e.seg then { e with level := l1, done := true }
        else next (e.seg + 1)

/-- Enough passes: a loop takes at least one block for its eight segments. -/
def EnvCfg.at' (c : EnvCfg) (tau : Int) (e : Env) : Env := c.run tau (8 * ((tau - e.start).toNat / blockTk + 2)) e

/-- Enter REL_SEG at instant `r` from the level the envelope has (R122). -/
def EnvCfg.enterRel (c : EnvCfg) (r : Int) (e : Env) : Env :=
  { e with seg := c.relSeg, start := r, l0 := e.level, done := false, released := true, release := none }

/-- The envelope of sample edge `tau`, the sample period being `p` (R96, R120 to R122), with whether its header is bad. A
release recorded while the header was bad takes effect at the instant of the first snapshot that finds it good; one before the envelope's
start takes effect at the start, from level 0. -/
def EnvCfg.step (c : EnvCfg) (tau : Int) (p : Nat) (e : Env) : Env × Bool :=
  if !c.ok then (e, true)
  else
    match e.release with
    | none => (c.at' tau e, false)
    | some r =>
      if e.released then (c.at' tau e, false)
      else if tau < r then (c.at' tau e, false)
      else if r ≤ tau - p then (c.at' tau (c.enterRel (tau - p) e), false)
      else if r < e.start then (c.at' tau (c.enterRel e.start e), false)
      else (c.at' tau (c.enterRel r (c.at' r e)), false)

/-! ### Filter (R117 to R119) -/

/-- A value and whether any saturation on the way clamped. -/
def satF (w : Nat) (x : Int) : Int × Bool := (sat w x, decide (sat w x ≠ x))

/-- mul(a, C). -/
def mulC (a c : Int) : Int := rnd (a * c) 29

/-- H of R117. -/
def filtH (g k : Int) : Int := 2 ^ 58 / (2 ^ 29 + rnd (g * (g + k)) 29)

/-- One state-variable stage (R118): input, states, RESP; the output, the new states, whether any sat_32 clamped. -/
def svfStage (g k h : Int) (resp : Nat) (x s1 s2 : Int) : Int × Int × Int × Bool :=
  let hp := satF 32 (mulC (x - mulC s1 (g + k) - s2) h)
  let v1 := satF 32 (mulC hp.1 g)
  let bp := satF 32 (v1.1 + s1)
  let n1 := satF 32 (bp.1 + v1.1)
  let v2 := satF 32 (mulC bp.1 g)
  let lp := satF 32 (v2.1 + s2)
  let n2 := satF 32 (lp.1 + v2.1)
  let nt := satF 32 (x - mulC bp.1 k)
  let out := if resp = 0 then lp.1 else if resp = 1 then hp.1 else if resp = 2 then bp.1 else nt.1
  (out, n1.1, n2.1, hp.2 || v1.2 || bp.2 || n1.2 || v2.2 || lp.2 || n2.2 || nt.2)

/-- K1 of R119. -/
def filtK1 : Int := 992008094

/-! ### The parameter words of a voice -/

/-- The word at offset `o` of a snapshot. -/
abbrev Words := Nat → Nat

/-- Bits of a parameter word. -/
def fieldOf (w : Words) (o lo n : Nat) : Nat := w o / 2 ^ lo % 2 ^ n

/-- A 48-bit quantity with its low word at `o`. -/
def word48 (w : Words) (o : Nat) : Nat := w o + 2 ^ 32 * (w (o + 4) % 2 ^ 16)

/-- The words of a snapshot list, +0x000 first. -/
def wordsOf (l : List Word) : Words := fun o => (l.getD (o / 4) 0).toNat

/-! ### The cost of a voice (R144) -/

/-- Units of an oscillator block at `o`. -/
def oscCost (w : Words) (o : Nat) : Nat :=
  match fieldOf w o 0 3 with
  | 7 => 0
  | 0 | 6 => 1
  | 2 => 3
  | 5 => if (w o).testBit 5 then 3 else 2
  | _ => 2

/-- Modulation slots with SRC and DST other than NONE. -/
def activeSlots (w : Words) : Nat :=
  ((List.range 12).filter fun s => decide (fieldOf w (0x100 + 4 * s) 0 4 ≠ 0) && decide (fieldOf w (0x100 + 4 * s) 4 5 ≠ 0)).length

/-- Table 4.1. -/
def voiceCost (w : Words) : Nat :=
  3 + oscCost w 0x10 + oscCost w 0x40 + (if fieldOf w 0x70 16 16 = 0 then 0 else 1)
    + (if fieldOf w 0x78 0 2 = 1 then 2 else if fieldOf w 0x78 0 2 = 2 then 4 else 0) + (activeSlots w + 3) / 4

/-! ### The modulation matrix (R127) -/

/-- The sum of the contributions to destination `dst`, each scaled by `f`, in slot order. -/
def modSum (w : Words) (src : Nat → Int) (dst : Nat) (f : Int → Int) : Int :=
  ((List.range 12).map fun s =>
    let o := 0x100 + 4 * s
    if fieldOf w o 0 4 ≠ 0 ∧ fieldOf w o 4 5 = dst then f (src (fieldOf w o 0 4) * signed 16 (fieldOf w o 16 16)) else 0).sum

/-- floor(x / 2^k). -/
def shrI (k : Nat) (x : Int) : Int := x / (2 ^ k : Nat)

/-- What a render needs beside the voice: sample index, period, rate flag, the global LFO and control values, the effective
BIPHASE line, and whether a ramp moved a field of this voice for this sample. -/
structure Scene where
  n : Nat
  p : Nat
  r96 : Bool
  glfo : Nat → Int
  ctl : Nat → Int
  line : Option (Nat × Bool)
  ramped : Nat → Bool

/-- The sample edge's instant n·P. -/
def Scene.tau (c : Scene) : Nat := c.n * c.p

/-- Samples in a block, Q of R115. -/
def Scene.q (c : Scene) : Nat := if c.r96 then 96 else 48

/-- What a render counts once per voice and sample (Table 3.10). -/
structure Flags where
  satur : Bool
  clamp : Bool
  virgin : Bool
  rdErr : Bool
  badCfg : Bool
  deriving DecidableEq, Repr

/-! ### Phases (R99 to R103, R125) -/

/-- The phase of an oscillator or LFO at sample n, unreduced, with the rebased B: `phi0` is its initial phase, `house` its
PH, `rebase` whether a change of INC keeps the phase. DESIGN CHOICE (log 25): the sum takes B unreduced, as R125 writes it, and the
registers show B modulo 2^48 (R101). -/
def phaseNow (c : Scene) (v : Voice) (o : Osc) (phi0 inc : Nat) (house rebase : Bool) : Int × Osc :=
  let b := if o.started && house && rebase && decide (inc ≠ o.base) then o.b + ((o.base : Int) - inc) * c.n else o.b
  let o := { o with b := b, base := inc }
  if house then ((phi0 : Int) + b + inc * (c.n : Int) + o.d, o)
  else if o.started then (o.ph + o.inc, o)
  else ((phi0 : Int) + (inc * ((c.tau : Int) - v.dEff)) / c.p, o)

/-- The oscillator after sample n: its reduced phase, the wraps, the effective increment and D. -/
def oscAfter (o : Osc) (ph : Int) (inc eff : Nat) (house : Bool) : Osc :=
  { o with ph := mod48 ph, wraps := o.wraps + (if house then 0 else (ph / (2 ^ 48 : Nat)).toNat), inc := eff,
           d := if house then o.d + ((eff : Int) - inc) else o.d, started := true }

/-- A voice LFO's output at sample n, with the state before its rate contributions are known. -/
def lfoNow (c : Scene) (v : Voice) (o : Osc) (w : Words) (base : Nat) (ramped : Bool) : Int × Int × Osc :=
  let house := (w base).testBit 3
  let phi0 := fieldOf w base 16 16 * 2 ^ 32
  let inc := word48 w (base + 4)
  let (ph, o) := phaseNow c v o phi0 inc house ramped
  let cyc : Int := if house then ph / (2 ^ 48 : Nat) else (o.wraps : Int) + ph / (2 ^ 48 : Nat)
  (lfoShape (fieldOf w base 0 3) (mod48 ph) cyc (fieldOf w (base + 8) 16 16), ph, o)

/-! ### Oscillator constraints (Table 3.5) -/

/-- Whether the words of the oscillator at `o` break a constraint across words (R96). -/
def oscBad (w : Words) (o : Nat) : Bool :=
  let addr := fieldOf w (o + 0x18) 0 20
  let len := fieldOf w (o + 0x1C) 0 24
  let pw := fieldOf w (o + 0x14) 0 16
  match fieldOf w o 0 3 with
  | 2 => decide (pw < 0x100) || decide (0xFF00 < pw)
  | 4 =>
    let l := fieldOf w o 8 4
    decide (l < 8) || decide (12 < l) || decide (addr % 4 ≠ 0) || decide (0x100000 < addr + 4 * 2 ^ l)
  | 5 =>
    let size := if (w o).testBit 6 then 4 else 2
    decide (len = 0) || decide (addr % size ≠ 0) || decide (0x100000 < addr + len * size)
      || ((w o).testBit 4 && decide (len ≤ fieldOf w (o + 0x20) 0 24)) || decide (0x10000000 < word48 w (o + 4))
  | 6 => decide (16384 < pw)
  | _ => false

/-! ### Reads of wave memory (R108, R111) -/

/-- One stored sample at wave offset `a`, of `size` bytes: its value, what the read met, and the device. -/
def Dev.waveSample (d : Dev) (a size : Nat) : Int × Flags × Dev :=
  let r := d.readMem Master.swarm (0x01000000 + a) size
  let v := ofBytes r.2.1
  (if size = 2 then signed 16 v * 256 else signed 24 v,
   ⟨false, false, r.1.any (· == .virgin), r.1.any LineState.isErr, false⟩, r.2.2)

/-- No event. -/
def Flags.none : Flags := ⟨false, false, false, false, false⟩

def Flags.or (a b : Flags) : Flags :=
  ⟨a.satur || b.satur, a.clamp || b.clamp, a.virgin || b.virgin, a.rdErr || b.rdErr, a.badCfg || b.badCfg⟩

/-- WAVE (R109) at ψ. -/
def Dev.waveOut (d : Dev) (w : Words) (o ψ : Nat) : Int × Flags × Dev :=
  let l := fieldOf w o 8 4
  let addr := fieldOf w (o + 0x18) 0 20
  let idx := ψ / 2 ^ (48 - l)
  let fr : Nat := ψ / 2 ^ (32 - l) % 2 ^ 16
  let a := d.waveSample (addr + 4 * idx) 4
  let b := a.2.2.waveSample (addr + 4 * ((idx + 1) % 2 ^ l)) 4
  (a.1 + (b.1 - a.1) * fr / 65536, a.2.1.or b.2.1, b.2.2)

/-- SAMPLE (R110) at position `pos`, already reduced. -/
def Dev.sampleOut (d : Dev) (w : Words) (o : Nat) (pos : Int) : Int × Flags × Dev :=
  let size := if (w o).testBit 6 then 4 else 2
  let addr := fieldOf w (o + 0x18) 0 20
  let len := fieldOf w (o + 0x1C) 0 24
  let loop := (w o).testBit 4
  if pos < 0 ∨ (len * 2 ^ 24 : Nat) ≤ pos then (0, .none, d)
  else
    let i := pos.toNat / 2 ^ 24
    let fr : Nat := pos.toNat % 2 ^ 24
    let a := d.waveSample (addr + size * i) size
    if !(w o).testBit 5 then a
    else if i + 1 = len ∧ loop = false then (a.1 + (0 - a.1) * fr / 2 ^ 24, a.2.1, a.2.2)
    else
      let j := if i + 1 = len then fieldOf w (o + 0x20) 0 24 else i + 1
      let b := a.2.2.waveSample (addr + size * j) size
      (a.1 + (b.1 - a.1) * fr / 2 ^ 24, a.2.1.or b.2.1, b.2.2)

/-- The position after the loop's reduction (R110). -/
def samplePos (w : Words) (o : Nat) (pos : Int) : Int :=
  let len : Int := fieldOf w (o + 0x1C) 0 24
  let st : Int := fieldOf w (o + 0x20) 0 24
  if (w o).testBit 4 = true ∧ len * 2 ^ 24 ≤ pos ∧ st < len then st * 2 ^ 24 + (pos - st * 2 ^ 24) % ((len - st) * 2 ^ 24)
  else pos

/-- BIPHASE (R112) on the line of the LTC generator. -/
def biphase (c : Scene) (w : Words) (o : Nat) : Int :=
  match c.line with
  | none => 0
  | some (e, up) =>
    let one : Int := 2 ^ 23 - 1
    let v1 := if up != (w o).testBit 4 then one else -one
    let rise := fieldOf w (o + 0x14) 0 16
    if rise = 0 then v1 else -v1 + ((v1 + v1) * (min (c.tau - e) (16 * rise) : Nat)).tdiv (16 * rise : Nat)

/-! ### Oscillators (R99 to R112) -/

/-- The position of a SAMPLE oscillator at sample n (R110) before the loop's reduction. -/
def positionNow (c : Scene) (v : Voice) (o : Osc) (inc : Nat) (house rebase : Bool) : Int × Osc :=
  let at' (i : Nat) : Int := (i * ((c.tau : Int) - v.dNom)) / c.p
  let b := if o.started && house && rebase && decide (inc ≠ o.base) then o.b + at' o.base - at' inc else o.b
  let o := { o with b := b, base := inc }
  if house then (at' inc + b + o.d, o)
  else if o.started then (o.ph + o.inc, o)
  else ((inc * ((c.tau : Int) - v.dEff)) / c.p, o)

/-- One oscillator for one sample: its output, its new state and what it counts. `pt`, `pm` and `pw` are the sums of the
matrix for its pitch, phase and width; `field` is its INC's code in Table 5.8. -/
def Dev.oscRender (d : Dev) (c : Scene) (v : Voice) (o : Osc) (w : Words) (base field : Nat) (pt pm pwMod : Int) :
    Int × Osc × Flags × Dev :=
  let mode := fieldOf w base 0 3
  let house := (w base).testBit 3
  let rebase := (w base).testBit 7 || c.ramped field
  let inc := word48 w (base + 4)
  let (eff, clamped) := incEff inc pt
  let bad := oscBad w base
  let fl : Flags := ⟨false, clamped, false, false, bad⟩
  if mode = 5 then
    let (pos, o) := positionNow c v o inc house rebase
    let pos := samplePos w base pos
    let o := { o with ph := pos, inc := eff, d := if house then o.d + ((eff : Int) - inc) else o.d, started := true }
    if bad then (0, o, fl, d)
    else
      let r := d.sampleOut w base pos
      (r.1, o, fl.or r.2.1, r.2.2)
  else
    let (ph, o) := phaseNow c v o (word48 w (base + 0xC)) inc house rebase
    let o := oscAfter o ph inc eff house
    let ψ := mod48 (ph + pm)
    let t := ψ / 2 ^ 24
    let dt := eff / 2 ^ 24
    let pw := (clampTo 0x100 0xFF00 ((fieldOf w (base + 0x14) 0 16 : Nat) + pwMod)).toNat
    if bad then (0, o, fl, d)
    else if mode = 4 then
      let r := d.waveOut w base ψ
      (r.1, o, fl.or r.2.1, r.2.2)
    else
      let out := match mode with
        | 0 => sine ψ
        | 1 => blSaw t dt
        | 2 => blPulse t dt pw
        | 3 => blTri t dt
        | 6 => biphase c w base
        | _ => 0
      (out, o, fl, d)

/-! ### A whole voice (R90) -/

/-- The noise state of sample n (R114, R115). -/
def noiseNow (c : Scene) (v : Voice) (w : Words) : Word :=
  if (w 0x70).testBit 0 then
    let b := c.n / c.q
    Nat.repeat lfsr (c.n - c.q * b + 1) (mix b (BitVec.ofNat 32 (w 0x74)))
  else lfsr v.noise

/-- The modulation sources of Table 3.3. -/
def modSource (c : Scene) (w : Words) (e1 e2 l1 l2 nz : Int) (code : Nat) : Int :=
  match code with
  | 1 => e1
  | 2 => e2
  | 3 => l1
  | 4 => l2
  | 9 => nz
  | 10 => (fieldOf w 0xF8 0 16 * 256 : Nat)
  | 15 => 2 ^ 23
  | 0 => 0
  | k => if k < 9 then c.glfo (k - 5) else c.ctl (k - 11)

/-- Filter and amplifier input: mix through the filter of R117 to R119, its states and whether it saturated. -/
def filterRender (c : Scene) (v : Voice) (w : Words) (mixIn : Int) (cut res : Int) : Int × Int × Int × Int × Int × Bool :=
  let typ := fieldOf w 0x78 0 2
  let resp := fieldOf w 0x78 2 2
  let g := filterTable (if c.r96 then 96000 else 48000) cut.toNat
  let k := (1024 - res) * 2 ^ 20
  if typ = 1 then
    let a := svfStage g k (filtH g k) resp mixIn v.f1s1 v.f1s2
    (a.1, a.2.1, a.2.2.1, v.f2s1, v.f2s2, a.2.2.2)
  else if typ = 2 then
    let a := svfStage g filtK1 (filtH g filtK1) resp mixIn v.f1s1 v.f1s2
    let b := svfStage g k (filtH g k) resp a.1 v.f2s1 v.f2s2
    (b.1, a.2.1, a.2.2.1, b.2.1, b.2.2.1, a.2.2.2 || b.2.2.2)
  else (mixIn, v.f1s1, v.f1s2, v.f2s1, v.f2s2, false)

/-- The gain of a send under PAN_MODE (R129). -/
def panGain (mode : Bool) (pan : Nat) (x : Int) : Int :=
  if mode then rnd (x * sine (pan * 2 ^ 31)) 23 else x

/-- The envelope words of the block at `base`. -/
def envCfg (w : Words) (base : Nat) : EnvCfg := ⟨w base, fun i => w (base + 4 + 4 * i)⟩

/-- Render one sample of a voice: its runtime state after the sample, what is counted, and the device after its reads. -/
def Dev.renderVoice (d : Dev) (c : Scene) (w : Words) (v : Voice) : Voice × Flags × Dev :=
  let e1 := (envCfg w 0xB0).step c.tau c.p v.env1
  let e2 := (envCfg w 0xD4).step c.tau c.p v.env2
  let (l1, ph1, o1) := lfoNow c v v.lfo1 w 0x90 (c.ramped 13)
  let (l2, ph2, o2) := lfoNow c v v.lfo2 w 0xA0 (c.ramped 14)
  let ns := noiseNow c v w
  let nz := noiseOut ns
  let src := modSource c w e1.1.level e2.1.level l1 l2 nz
  let sum (dst k : Nat) : Int := modSum w src dst (shrI k)
  let lev (base lo dst : Nat) : Int := clampTo 0 0x8000 ((fieldOf w base lo 16 : Nat) + sum dst 23)
  let i1 := incEff (word48 w 0x94) (sum 17 24)
  let i2 := incEff (word48 w 0xA4) (sum 18 24)
  let pab := sum 3 24
  let pm (dst : Nat) : Int := modSum w src dst (· * 512)
  let a := d.oscRender c v v.oscA w 0x10 11 (sum 1 24 + pab) (pm 4) (sum 9 22)
  let b := a.2.2.2.oscRender c v v.oscB w 0x40 12 (sum 2 24 + pab) (pm 5) (sum 10 22)
  let mixed := rnd (a.1 * lev 0x10 16 6) 15 + rnd (b.1 * lev 0x40 16 7) 15 + rnd (nz * lev 0x70 16 8) 15
  let cut := clampTo 0 40820 ((fieldOf w 0x7C 0 16 : Nat) + sum 11 24)
  let res := clampTo 0 1014 ((fieldOf w 0x78 16 10 : Nat) + sum 12 28)
  let f := filterRender c v w mixed cut res
  let flt := satF 28 f.1
  let amp := satF 28 (rnd (rnd (flt.1 * e1.1.level) 23 * lev 0x80 0 13) 15)
  let k := c.n + 1 - v.hard
  let y := if v.overCost then 0
    else if v.hard ≠ 0 ∧ v.hard ≤ c.n then (amp.1 * (32 - min k 32 : Nat)).tdiv 32 else amp.1
  let pan := lev 0x8C 0 14
  let pmode := (w 0x84).testBit 10
  let sA := if (w 0x84).testBit 8 then panGain pmode (0x8000 - pan).toNat (rnd (y * lev 0x88 0 15) 15) else 0
  let sB := if (w 0x84).testBit 9 then panGain pmode pan.toNat (rnd (y * lev 0x88 16 16) 15) else 0
  let fl : Flags := (Flags.mk (f.2.2.2.2.2 || flt.2 || amp.2) (i1.2 || i2.2) false false (e1.2 || e2.2)).or
    (a.2.2.1.or b.2.2.1)
  ({ v with
      env1 := e1.1, env2 := e2.1, noise := ns, oscA := a.2.1, oscB := b.2.1,
      lfo1 := oscAfter o1 ph1 (word48 w 0x94) i1.1 ((w 0x90).testBit 3),
      lfo2 := oscAfter o2 ph2 (word48 w 0xA4) i2.1 ((w 0xA0).testBit 3),
      f1s1 := f.2.1, f1s2 := f.2.2.1, f2s1 := f.2.2.2.1, f2s2 := f.2.2.2.2.1, y := y, sendA := sA, sendB := sB },
   fl, b.2.2.2)

end Sys2Proof.Machine
end

