-- ==== Sys2Proof/Machine/Params.lean ====
section
/-! DEFINITION. Voice parameter memory (R93 to R98, R131, R145): its words, range and feature checks, held low words, the
cost test and ramps. -/

namespace Sys2Proof.Machine

/-- The base of voice `v`'s 512 bytes (R131). -/
def voiceBase (v : Nat) : Nat := 0x00100000 + 0x200 * v

/-- The voice and the offset of an address in the parameter array. -/
def voiceOf (a : Nat) : Nat := (a - 0x00100000) / 0x200
def voiceOff (a : Nat) : Nat := (a - 0x00100000) % 0x200

/-! ### The words (Tables 3.5 to 3.8) -/

/-- A word's writable bits, and whether a value lies in the ranges checked at the write (R95). -/
structure WordSpec where
  mask : Nat
  ok : Nat → Bool

/-- Bits `[31:16]` at most 0x8000. -/
def hiLevel (x : Nat) : Bool := decide (x / 2 ^ 16 ≤ 0x8000)

/-- Bits `[15:0]` at most 0x8000. -/
def loLevel (x : Nat) : Bool := decide (x % 2 ^ 16 ≤ 0x8000)

/-- An oscillator block's word at `r` (Table 3.5). -/
def oscSpec (r : Nat) : Option WordSpec :=
  match r with
  | 0x00 => some ⟨0xFFFF0FFF, hiLevel⟩
  | 0x04 => some ⟨0xFFFFFFFF, fun _ => true⟩
  | 0x08 => some ⟨0xFFFF, fun x => decide (x % 2 ^ 16 < 0x8000)⟩
  | 0x0C => some ⟨0xFFFFFFFF, fun _ => true⟩
  | 0x10 => some ⟨0xFFFF, fun _ => true⟩
  | 0x14 => some ⟨0xFFFF, fun _ => true⟩
  | 0x18 => some ⟨0xFFFFF, fun _ => true⟩
  | 0x1C => some ⟨0xFFFFFF, fun _ => true⟩
  | 0x20 => some ⟨0xFFFFFF, fun _ => true⟩
  | _ => none

/-- A voice LFO block's word at `r` (Table 3.6). -/
def lfoSpec (r : Nat) : Option WordSpec :=
  match r with
  | 0x0 => some ⟨0xFFFF000F, fun x => decide (x % 8 < 6)⟩
  | 0x4 => some ⟨0xFFFFFFFF, fun _ => true⟩
  | 0x8 => some ⟨0xFFFFFFFF, fun x => decide (x % 2 ^ 16 < 0x8000)⟩
  | _ => none

/-- The parameter word at voice offset `o`; none for runtime and reserved words. -/
def paramSpec (o : Nat) : Option WordSpec :=
  if 0x10 ≤ o ∧ o < 0x40 then oscSpec (o - 0x10)
  else if 0x40 ≤ o ∧ o < 0x70 then oscSpec (o - 0x40)
  else if 0x90 ≤ o ∧ o < 0xA0 then lfoSpec (o - 0x90)
  else if 0xA0 ≤ o ∧ o < 0xB0 then lfoSpec (o - 0xA0)
  else if o = 0xB0 ∨ o = 0xD4 then some ⟨0x3F7FFFFF, fun _ => true⟩
  else if 0xB0 < o ∧ o < 0xF8 then some ⟨0xFFFFFFFF, hiLevel⟩
  else if 0x100 ≤ o ∧ o < 0x130 then some ⟨0xFFFF01FF, fun x => decide (x / 16 % 32 ≤ 18)⟩
  else match o with
    | 0x70 => some ⟨0xFFFF0001, hiLevel⟩
    | 0x74 => some ⟨0xFFFFFFFF, fun _ => true⟩
    | 0x78 => some ⟨0x03FF000F, fun x => decide (x % 4 ≤ 2) && decide (x / 2 ^ 16 % 1024 ≤ 1014)⟩
    | 0x7C => some ⟨0xFFFF, fun x => decide (x % 2 ^ 16 ≤ 40820)⟩
    | 0x80 => some ⟨0xFFFF, loLevel⟩
    | 0x84 => some ⟨0x7FF, fun _ => true⟩
    | 0x88 => some ⟨0xFFFFFFFF, fun x => loLevel x && hiLevel x⟩
    | 0x8C => some ⟨0xFFFF, loLevel⟩
    | 0xF8 => some ⟨0xFFFF, loLevel⟩
    | _ => none

/-- The words named _LO of Tables 3.5 and 3.6 (R94). -/
def isLoWord (o : Nat) : Bool := decide (o ∈ [0x14, 0x1C, 0x44, 0x4C, 0x94, 0xA4])

/-- The words named _HI. -/
def isHiWord (o : Nat) : Bool := isLoWord (o - 4)

/-- Whether putting `new` in place of `old` at `o` needs a feature that is outside the active set (R95). -/
def Dev.paramFeature (d : Dev) (o old new : Nat) : Bool :=
  let rises (b : Nat) : Bool := !old.testBit b && new.testBit b
  if o = 0x10 ∨ o = 0x40 then
    (rises 3 && !d.feature Feat.housePhase) ||
      (decide (new % 8 = 6) && decide (old % 8 ≠ 6) && !d.feature Feat.ltcOut)
  else if o = 0x90 ∨ o = 0xA0 then rises 3 && !d.feature Feat.housePhase
  else if o = 0x70 then rises 0 && !d.feature Feat.housePhase
  else false

/-! ### Voices, families and their cost -/

/-- A voice's runtime state. -/
def Dev.voice (d : Dev) (v : Nat) : Voice := Tab.get (fun _ => Voice.free) d.swm.voices v

def Dev.setVoice (d : Dev) (v : Nat) (x : Voice) : Dev :=
  { d with swm := { d.swm with voices := Tab.set (fun _ => Voice.free) d.swm.voices v x } }

/-- A voice's entry in the voice table. -/
def Dev.ventry (d : Dev) (v : Nat) : VEntry := Tab.get (fun _ => VEntry.free) d.alc.vtab v

def Dev.setVentry (d : Dev) (v : Nat) (x : VEntry) : Dev :=
  { d with alc := { d.alc with vtab := Tab.set (fun _ => VEntry.free) d.alc.vtab v x } }

/-- Voices rendered at the selected rate (R89). -/
def Dev.voiceCount (d : Dev) : Nat := if d.rate96 then 64 else 128

/-- Whether strike is enabled (R141, R158). -/
def Dev.strikeOn (d : Dev) : Bool := d.on F.alcStkCtrlEn

/-- Whether `v` is a strike voice while strike is enabled (R141). -/
def Dev.strikeVoice (d : Dev) (v : Nat) : Bool :=
  d.strikeOn && decide (d.voiceCount - 8 ≤ v) && decide (v < d.voiceCount)

/-- A family's COST. -/
def Dev.famCost (d : Dev) (f : Nat) : Nat := d.get (F.alcFamCfgCost f)

/-- Whether a write that takes voice `v`'s cost from `old` to `new` is refused with ELEDGER (R145). A strike voice has no
family's COST (R162). -/
def Dev.overCost (d : Dev) (v old new : Nat) : Bool :=
  let x := d.voice v
  let e := d.ventry v
  if d.strikeVoice v || !(x.bound || e.held) then false
  else decide (d.famCost (if x.bound then x.fam else e.fam) < new) && decide (old < new)

/-! ### Writes (R93 to R95) -/

/-- A write under examination: bytes to store, low words to hold (or to release), the status of each word, and the bytes that the write
itself names, which end ramps (R98). -/
structure Plan where
  bytes : Tab Byte
  held : List (Nat × Option Word)
  sts : List (Nat × Status)
  named : List Nat
  deriving DecidableEq, Repr

/-- A plan that writes nothing. -/
def Plan.empty : Plan := ⟨[], [], [], []⟩

/-- The byte at `a` as a read shows it, or as the plan has it. -/
def Dev.planByte (d : Dev) (pl : Plan) (a : Nat) : Byte :=
  (Tab.find pl.bytes a).getD ((d.lineView (lineOf a)).2.getD (a % 32) 0)

/-- The word at `a` as the plan has it. -/
def Dev.planWord (d : Dev) (pl : Plan) (a : Nat) : Nat := ofBytes ((List.range 4).map fun i => d.planByte pl (a + i))

/-- A voice's parameter words as the plan has them. -/
def Dev.planVoice (d : Dev) (pl : Plan) (v : Nat) : Words := fun o => d.planWord pl (voiceBase v + o)

/-- Put a word into the plan. -/
def Plan.word (pl : Plan) (a x : Nat) : Plan :=
  { pl with bytes := (List.range 4).foldl (fun t i => Tab.put t (a + i) (BitVec.ofNat 8 (x / 256 ^ i))) pl.bytes }

/-- The low word held for `a`. -/
def Dev.heldWord (d : Dev) (a : Nat) : Option Word := Tab.get (fun _ => none) d.held a

def Dev.setHeld (d : Dev) (a : Nat) (x : Option Word) : Dev := { d with held := Tab.set (fun _ => none) d.held a x }

/-- The held word as the plan has it. -/
def Dev.planHeld (d : Dev) (pl : Plan) (a : Nat) : Option Word :=
  match pl.held.reverse.find? (·.1 = a) with
  | some x => x.2
  | none => d.heldWord a

/-- Examine the write of the bytes `data` (at most four, from byte `i` of the word at `a`). `free`: the features of R95
are not checked (management, or a scheduled operation that was admitted). -/
def Dev.planStep (d : Dev) (free : Bool) (pl : Plan) (a i : Nat) (data : List Byte) : Plan :=
  let v := voiceOf a
  let o := voiceOff a
  let refuse (st : Status) : Plan := { pl with sts := pl.sts ++ [(a, st)] }
  match paramSpec o with
  | none => refuse .earg
  | some sp =>
    let old := d.planWord pl a
    let base := if isLoWord o then ((d.planHeld pl a).map (·.toNat)).getD old else old
    let new := ofBytes (mergeBytes (bytesOf base 4) i data) &&& sp.mask
    if !free && d.paramFeature o old new then refuse .efeature
    else if !sp.ok new then refuse .earg
    else if isLoWord o then
      { pl with held := pl.held ++ [(a, some (BitVec.ofNat 32 new))], sts := pl.sts ++ [(a, .ok)] }
    else
      let pl' := match (if isHiWord o then d.planHeld pl (a - 4) else none) with
        | some lo => { (pl.word a new).word (a - 4) lo.toNat with
            held := pl.held ++ [(a - 4, none)], named := pl.named ++ (List.range 4).map (a - 4 + ·) }
        | none => pl.word a new
      let pl' := { pl' with named := pl'.named ++ (List.range data.length).map (a + i + ·) }
      if d.overCost v (voiceCost (d.planVoice pl v)) (voiceCost (d.planVoice pl' v)) then refuse .eledger
      else { pl' with sts := pl.sts ++ [(a, .ok)] }

/-- Examine a write word by word, in ascending address order. -/
def Dev.planAll (d : Dev) (free : Bool) : Nat → Plan → Nat → List Byte → Plan
  | 0, pl, _, _ => pl
  | fuel + 1, pl, a, data =>
    if data.isEmpty then pl
    else
      let i := a % 4
      d.planAll free fuel (d.planStep free pl (a - i) i (data.take (4 - i))) (a + (4 - i)) (data.drop (4 - i))

/-- The bytes a plan stores, as one part per line. A line that the write covers is stored whole (R239). -/
def Dev.planChunks (d : Dev) (pl : Plan) (a n : Nat) : List Chunk :=
  let lines := (pl.bytes.map fun x => lineOf x.1).dedup
  lines.map fun l =>
    let ks := (pl.bytes.filter fun x => lineOf x.1 == l).map (·.1)
    let full := decide (a ≤ l) && decide (l + 32 ≤ a + n)
    let lo := if full then l else ks.headD l
    let hi := if full then l + 31 else ks.getLastD l
    (lo, (List.range (hi + 1 - lo)).map fun i => d.planByte pl (lo + i))

/-! ### Ramps (R98) -/

/-- A field of Table 5.8: offset, lowest bit and width; an INC has width 48. -/
def rampField (code : Nat) : Option (Nat × Nat × Nat) :=
  match code with
  | 0 => some (0x10, 16, 16)
  | 1 => some (0x40, 16, 16)
  | 2 => some (0x70, 16, 16)
  | 3 => some (0x24, 0, 16)
  | 4 => some (0x54, 0, 16)
  | 5 => some (0x7C, 0, 16)
  | 6 => some (0x78, 16, 10)
  | 7 => some (0x80, 0, 16)
  | 8 => some (0x8C, 0, 16)
  | 9 => some (0x88, 0, 16)
  | 10 => some (0x88, 16, 16)
  | 11 => some (0x14, 0, 48)
  | 12 => some (0x44, 0, 48)
  | 13 => some (0x94, 0, 48)
  | 14 => some (0xA4, 0, 48)
  | _ => none

/-- The voice words whose bytes a field occupies. -/
def rampBytes (code : Nat) : List Nat :=
  match rampField code with
  | some (o, lo, n) => (List.range (n / 8 + (if n % 8 = 0 then 0 else 1))).map fun i => o + lo / 8 + i
  | none => []

/-- A write that stores these bytes ends the ramps of the fields it touches. -/
def Dev.endRamps (d : Dev) (addrs : List Nat) : Dev :=
  { d with swm := { d.swm with ramps := d.swm.ramps.filter fun r =>
      !((rampBytes r.field).any fun o => addrs.contains (voiceBase r.voice + o)) } }

/-- Store what a plan accepted: all its lines or none. A refused write leaves the words it held, held (R94). -/
def Dev.planStore (d : Dev) (m : Nat) (pl : Plan) (a n : Nat) : Bool × Dev :=
  let r := d.checkAll m (d.planChunks pl a n)
  match r.1 with
  | some l =>
    (true, ((l.foldl Dev.chunkStore r.2).endRamps pl.named).each pl.held fun h d => d.setHeld h.1 h.2)
  | none => (false, r.2.each (pl.held.filter (·.2.isSome)) fun h d => d.setHeld h.1 h.2)

/-- The statuses of a parameter write that its lines refused: every word that would have been stored fails. -/
def Plan.poisoned (pl : Plan) : List (Nat × Status) :=
  pl.sts.map fun x => if x.2 = .ok ∧ (Tab.find pl.bytes x.1).isSome then (x.1, .epoison) else x

/-- A write to voice parameter memory by master `m`. `whole`: the write stands or falls as one (a cue ST). -/
def Dev.paramWrite (d : Dev) (m : Nat) (free whole : Bool) (a : Nat) (data : List Byte) : List (Nat × Status) × Dev :=
  let d := d.waitWipe a
  let pl := d.planAll free (data.length + 1) .empty a data
  let worst := Status.first (pl.sts.map (·.2))
  let d := d.bumpBy F.alcCntRefuse (pl.sts.filter fun x => x.2 = .eledger).length
  if whole && worst.isError then ([(a, worst)], d)
  else
    let r := d.planStore m pl a data.length
    (if r.1 then pl.sts else pl.poisoned, r.2)

end Sys2Proof.Machine
end

