-- ==== Sys2Proof/Machine/Ledger.lean ====
section
/-! DEFINITION. The ledger (chapter 4): profiles over future samples, admission, steals, and the timed event queue. -/

namespace Sys2Proof.Machine

/-! ### Budget and profiles (R147, R148) -/

/-- The sample whose interval holds due time `t` (R30). -/
def Dev.dueSample (d : Dev) (t : Nat) : Nat := (t + d.period - 1) / d.period

/-- AVAIL (Table 4.3). -/
def Dev.avail (d : Dev) : Nat := (if d.rate96 then 600 else 1200) - 16 - (if d.strikeOn then 246 else 0)

/-- What the ledger expects of a voice: BOUND, HELD and its family. -/
structure Expect where
  bound : Bool
  held : Bool
  fam : Nat
  deriving DecidableEq, Repr

/-- The voice as it stands now. -/
def Dev.expectNow (d : Dev) (v : Nat) : Expect :=
  let x := d.voice v
  ⟨x.bound, (d.ventry v).held, if x.bound then x.fam else (d.ventry v).fam⟩

/-- What a queued entry does to the expectation. -/
def Expect.after (x : Expect) (e : QEntry) : Expect :=
  match e.op with
  | .von .. => { x with bound := true, fam := e.fam }
  | .vkill => { x with bound := false }
  | .valloc => { bound := x.bound && !e.steals, held := true, fam := e.fam }
  | .vfree => { x with held := false }
  | _ => x

/-- The order in which entries take effect (R142): by due sample, and within one sample in the order of admission. -/
def Dev.bindOrder (d : Dev) (l : List QEntry) : List QEntry :=
  sortBy (fun a b => decide (d.dueSample a.due < d.dueSample b.due)
    || (decide (d.dueSample a.due = d.dueSample b.due) && decide (a.seq ≤ b.seq))) l

/-- The expectation for voice `v` at sample `s`. -/
def Dev.expectAt (d : Dev) (v s : Nat) : Expect :=
  (d.bindOrder (d.alc.queue.filter fun e => e.voice == v && decide (d.dueSample e.due ≤ s))).foldl Expect.after (d.expectNow v)

/-- The cost charged for an expectation. -/
def Dev.expectCost (d : Dev) (v : Nat) (x : Expect) : Nat :=
  if (x.bound || x.held) && !d.strikeVoice v then d.famCost x.fam else 0

/-- The voices that are bound, held or named by a queued entry. -/
def Dev.liveVoices (d : Dev) : List Nat :=
  (d.swm.voices.map (·.1) ++ d.alc.vtab.map (·.1) ++ d.alc.queue.map (·.voice)).dedup

/-- L(s). -/
def Dev.loadL (d : Dev) (s : Nat) : Nat := (d.liveVoices.map fun v => d.expectCost v (d.expectAt v s)).sum

/-- C(s). -/
def Dev.loadC (d : Dev) (s : Nat) : Nat := ((d.alc.queue.filter fun e => d.dueSample e.due == s).map (·.charge)).sum

/-- T(s). -/
def Dev.loadT (d : Dev) (s : Nat) : Nat := d.loadL s + d.loadC s

/-- The due samples of the queue: T changes nowhere else. -/
def Dev.dueSamples (d : Dev) : List Nat := (d.alc.queue.map fun e => d.dueSample e.due).dedup

/-- R148 with `s` the effective due sample and d_v = d. -/
def Dev.fits (d : Dev) (s c x k : Nat) : Bool :=
  decide (d.loadT s + c + k ≤ d.avail + x) &&
    (s :: d.dueSamples.filter (fun t => decide (s ≤ t))).all fun t => decide (d.loadT t + c ≤ d.avail + x)

/-! ### Husks (R150) -/

/-- The pool for ordinary molts. -/
def Dev.huskPool (d : Dev) : Nat := if d.strikeOn then 14 else 16

/-- H(s). -/
def Dev.loadH (d : Dev) (s : Nat) : Nat :=
  (d.alc.huskRes.filter fun r => decide (r.2.1 ≤ s) && decide (s ≤ r.2.2)).length

/-- Whether a husk is free over samples `s` to `s + n − 1`. -/
def Dev.huskFree (d : Dev) (s n : Nat) : Bool :=
  (s :: (d.alc.huskRes.map (·.2.1)).filter fun t => decide (s ≤ t) && decide (t < s + n)).all fun t =>
    decide (d.loadH t < d.huskPool)

/-- R for a victim of family `f`. -/
def Dev.huskLen (d : Dev) (f : Nat) : Nat := d.get (F.alcFamCfgHuskMs f) * (if d.rate96 then 96 else 48)

/-! ### Voices of a family (R139 to R141, R149) -/

/-- Whether family `f`'s range holds voice `v`. -/
def Dev.inRange (d : Dev) (f v : Nat) : Bool :=
  decide (d.get (F.alcFamRangeFirst f) ≤ v) && decide (v ≤ d.get (F.alcFamRangeLast f)) && decide (v < d.voiceCount)
    && !d.strikeVoice v

/-- A queued onset of voice `v`. -/
def Dev.onset (d : Dev) (v : Nat) : Option QEntry :=
  d.alc.queue.find? fun e => e.voice == v && match e.op with
    | .von .. => true
    | _ => false

/-- Whether a queued VALLOC has chosen voice `v`. -/
def Dev.allocating (d : Dev) (v : Nat) : Bool := d.alc.queue.any fun e => e.voice == v && e.op == .valloc

/-- FREE at admission (R140). -/
def Dev.isFree (d : Dev) (v : Nat) : Bool :=
  !(d.voice v).bound && !(d.ventry v).held && (d.onset v).isNone && !d.allocating v

/-- The family of the binding or pending onset of `v`. -/
def Dev.famOf (d : Dev) (v : Nat) : Nat :=
  if (d.voice v).bound then (d.voice v).fam else ((d.onset v).map (·.fam)).getD (d.ventry v).fam

/-- A candidate for a steal by family `f`. -/
def Dev.candidate (d : Dev) (f v : Nat) : Bool :=
  ((d.voice v).bound || (d.onset v).isSome) && !(d.ventry v).held && !d.allocating v
    && !(d.alc.queue.any fun e => e.voice == v && e.steals)
    && decide (d.ap (F.alcFamCfgPrio (d.famOf v)) ≤ d.ap (F.alcFamCfgPrio f))

/-- The place of a candidate in OLDEST order: its binding sample, or the due sample of its onset. -/
def Dev.ageKey (d : Dev) (v : Nat) : Nat :=
  if (d.voice v).bound then (d.voice v).bindSmp else ((d.onset v).map fun e => d.dueSample e.due).getD 0

/-- The primary key of Table 4.4. -/
def Dev.stealKey (d : Dev) (policy v : Nat) : Int :=
  if policy = 1 then (if (d.voice v).bound then (d.voice v).env1.level else 2 ^ 23)
  else if policy = 2 then (d.ap (F.alcFamCfgPrio (d.famOf v)) : Nat)
  else 0

/-- Candidates of `f` in policy order, ties by lower voice number. -/
def Dev.candidates (d : Dev) (f : Nat) : List Nat :=
  let policy := d.ap (F.alcFamCfgPolicy f)
  let le (a b : Nat) : Bool :=
    let ka := d.stealKey policy a
    let kb := d.stealKey policy b
    decide (ka < kb) || (decide (ka = kb) && (decide (d.ageKey a < d.ageKey b) ||
      (decide (d.ageKey a = d.ageKey b) && decide (a ≤ b))))
  sortBy le ((List.range 128).filter fun v => d.inRange f v && d.candidate f v)

/-! ### Scheduled parameter operations (R142, R145, R197) -/

/-- A plan that puts the field of code `code` at `v1` (R98, R197). -/
def Dev.rampPlan (d : Dev) (free : Bool) (v code v1 : Nat) : Plan :=
  match rampField code with
  | none => { Plan.empty with sts := [(voiceBase v, .earg)] }
  | some (o, lo, n) =>
    let a := voiceBase v + o
    if n = 48 then
      let hi := d.planWord .empty (a + 4)
      if 2 ^ 47 ≤ v1 % 2 ^ 48 then { Plan.empty with sts := [(a, .earg)] }
      else { (Plan.empty.word a (v1 % 2 ^ 32)).word (a + 4) (hi / 2 ^ 16 * 2 ^ 16 + v1 / 2 ^ 32 % 2 ^ 16) with
              held := [(a, none)], sts := [(a, .ok)], named := (rampBytes code).map (voiceBase v + ·) }
    else
      let old := d.planWord .empty a
      let new := old - old / 2 ^ lo % 2 ^ n * 2 ^ lo + v1 % 2 ^ n * 2 ^ lo
      let pl := d.planStep free .empty a 0 (bytesOf new 4)
      { pl with named := if pl.named.isEmpty then [] else (rampBytes code).map (voiceBase v + ·) }

/-- The plan of a parameter operation on voice `v`. -/
def Dev.opPlan (d : Dev) (free : Bool) (v : Nat) (op : SwOp) : Plan :=
  let word (pl : Plan) (o x : Nat) : Plan := d.planStep free pl (voiceBase v + o) 0 (bytesOf x 4)
  match op with
  | .vset w x => word .empty (4 * w) x.toNat
  | .modset s x => if 11 < s then { Plan.empty with sts := [(voiceBase v, .earg)] } else word .empty (0x100 + 4 * s) x.toNat
  | .busset a b => word (word .empty 0x84 a.toNat) 0x88 b.toNat
  | .vramp f v1 dur => if 2 ^ 48 ≤ dur then { Plan.empty with sts := [(voiceBase v, .earg)] } else d.rampPlan free v f v1
  | _ => .empty

/-- Whether an operation is a parameter write (R141). -/
def SwOp.isParam : SwOp → Bool
  | .vset .. | .vramp .. | .modset .. | .busset .. => true
  | _ => false

/-! ### Admission (R44 to R46, R148 to R153) -/

/-- The binding charge (Table 4.2). -/
def SwOp.charge : SwOp → Nat
  | .von _ p _ => if p.isSome then 6 else 2
  | _ => 1

/-- The effective due time of a request now, and whether it is late (R45, R46). -/
def Dev.effDue (d : Dev) (r : SwReq) : Nat × Bool :=
  let m := d.time.smp.toNat
  if r.imm then ((m + 2) * d.period, false)
  else if r.due ≤ (m + 1) * d.period then ((m + 2) * d.period, true)
  else (r.due, false)

/-- What admission decides before the queue is asked: the entry to queue, or the refusal. -/
abbrev Decision := Except Status QEntry

/-- An entry without a steal, on voice `v` of family `f`. -/
def plainEntry (r : SwReq) (due : Nat × Bool) (v f : Nat) : QEntry :=
  ⟨0, due.1, if r.imm then due.1 else r.due, r.imm, due.2, r.op, v, f, r.op.charge, false, false, 0, false, false⟩

/-- R149 for an allocated VON or VALLOC of family `f`. DESIGN CHOICE (log 25): the patch voice is read only, so it is no voice that the
operation names, and R141 answers no ESTATE for it. -/
def Dev.decideAlloc (d : Dev) (r : SwReq) (f : Nat) : Decision :=
  let due := d.effDue r
  let e := plainEntry r due 0 f
  let s := d.dueSample due.1
  let c := d.famCost f
  let tooDear := match r.op with
    | .von _ (some p) _ => decide (c < voiceCost (d.planVoice .empty p))
    | _ => false
  if !d.on F.alcCtrl || !d.on (F.alcFamRangeEn f) then .error .estate
  else if tooDear then .error .eledger
  else
    let room := match (List.range 128).find? fun v => d.inRange f v && d.isFree v with
      | some v => if d.fits s c 0 e.charge then some v else none
      | none => none
    match room with
    | some v => .ok { e with voice := v }
    | none =>
      if d.ap (F.alcFamCfgPolicy f) = 3 then .error .eledger
      else
        let try' (w : Nat) : Option QEntry :=
          let n := d.huskLen (d.famOf w)
          let molt := d.huskFree s n
          let due' := if molt then due.1 else due.1 + 32 * d.period
          if d.fits (d.dueSample due') c (d.famCost (d.famOf w)) e.charge then
            some { e with voice := w, due := due', steals := true, husk := molt, huskLen := n, hard := !molt }
          else none
        match (d.candidates f).findSome? try' with
        | some e => .ok e
        | none => .error .eledger

/-- A direct VON or VKILL reserves a husk or becomes hard (R151), if the voice could be BOUND at the due sample: the entries admitted
before it say so, and whose family's husk it takes. -/
def Dev.withHusk (d : Dev) (e : QEntry) : QEntry :=
  let s := d.dueSample e.due
  let x := d.expectAt e.voice s
  if !x.bound then e
  else
    let n := d.huskLen x.fam
    if d.huskFree s n then { e with husk := true, huskLen := n }
    else { e with due := e.due + 32 * d.period, hard := true }

/-- Admission of an operation that names voice `v`. -/
def Dev.decideVoice (d : Dev) (r : SwReq) (v : Nat) : Decision :=
  let due := d.effDue r
  let s := d.dueSample due.1
  let x := d.expectAt v s
  let e := plainEntry r due v x.fam
  if !d.on F.alcCtrl || decide (d.voiceCount ≤ v) || (d.strikeVoice v && !r.op.isParam) then .error .estate
  else
    let check (e : QEntry) (x : Nat) : Decision :=
      if d.fits (d.dueSample e.due) 0 x e.charge then .ok e else .error .eledger
    match r.op with
    | .von .. => if x.held then check (d.withHusk e) 0 else .error .estate
    | .vfree => if x.held then check e (if x.bound then 0 else d.expectCost v x) else .error .estate
    | .vkill => check (d.withHusk e) (d.expectCost v x)
    | op =>
      if op.isParam && (d.opPlan false v op).sts.any (·.2 = .eledger) then .error .eledger else check e 0

/-- EARG and EFEATURE of a request's operands, which precede every other answer (R19, R95, R197). -/
def Dev.reqCheck (d : Dev) (r : SwReq) : Status :=
  match r.op with
  | .von alloc p vel =>
    if 0x8000 < vel ∨ (if alloc then 32 else 128) ≤ r.target ∨ 128 ≤ p.getD 0 then .earg else .ok
  | .valloc => if 32 ≤ r.target then .earg else .ok
  | op =>
    if 128 ≤ r.target then .earg
    else if op.isParam then
      Status.first (((d.opPlan false r.target op).sts.map (·.2)).filter fun s => s = .efeature ∨ s = .earg)
    else .ok

/-- The ledger's decision. -/
def Dev.decision (d : Dev) (r : SwReq) : Decision :=
  match r.op with
  | .von true _ _ | .valloc => d.decideAlloc r r.target
  | _ => d.decideVoice r r.target

/-- Whether the queue has a permitted entry (R49). DESIGN CHOICE (log 25): immediate entries fill the 64 reserved places before any other. -/
def Dev.queueRoom (d : Dev) (imm : Bool) : Bool :=
  let i := (d.alc.queue.filter (·.imm)).length
  let t := d.alc.queue.length - i
  if imm then decide (t + i < 1024) else decide (t + (i - 64) < 960)

/-- Insert an entry in order of due time, then admission (R154). -/
def queueInsert (e : QEntry) : List QEntry → List QEntry
  | [] => [e]
  | x :: t => if e.due < x.due then e :: x :: t else x :: queueInsert e t

/-- Admit the entry: it takes the next admission number, its place in the queue and its husk. -/
def Dev.enqueue (d : Dev) (e : QEntry) : Dev :=
  let e := { e with seq := d.alc.seq }
  let s := d.dueSample e.due
  { d with alc := { d.alc with
      seq := d.alc.seq + 1
      queue := queueInsert e d.alc.queue
      huskRes := if e.husk then (e.seq, s, s + e.huskLen - 1) :: d.alc.huskRes else d.alc.huskRes } }

/-- The voice that a request names; 0 for an allocated operation. -/
def SwReq.named (r : SwReq) : Nat :=
  match r.op with
  | .von true _ _ | .valloc => 0
  | _ => r.target % 128

/-- VON and VALLOC, whose answer says that a molt is planned (R153). -/
def SwOp.binds : SwOp → Bool
  | .von .. | .valloc => true
  | _ => false

/-- The ledger answers one request (R148 to R153, Table 4.7). -/
def Dev.ledgerAdmit (d : Dev) (r : SwReq) : LedgerAns × Dev :=
  let refuse (st : Status) (d : Dev) : LedgerAns × Dev := (⟨st, r.named, false, false, (d.effDue r).1⟩, d)
  let st := d.reqCheck r
  if st ≠ .ok then refuse st d
  else match d.decision r with
    | .error .eledger => refuse .eledger (d.bump F.alcCntRefuse)
    | .error st => refuse st d
    | .ok e =>
      if !d.queueRoom r.imm then refuse .eqfull (d.bump F.alcCntQfull)
      else
        let d := (d.enqueue e).bump F.alcCntAdmit
        let d := if e.late then d.bump F.alcCntLate else d
        (⟨if e.late then .late else .ok, e.voice, e.husk && e.op.binds, e.hard, e.due⟩, d)

/-- An entry leaves the queue without binding: its charges and reservations go with it (R154). -/
def Dev.dropEntry (d : Dev) (e : QEntry) : Dev :=
  { d with alc := { d.alc with
      queue := d.alc.queue.filter (fun q => q.seq != e.seq)
      huskRes := d.alc.huskRes.filter (fun h => h.1 != e.seq) } }

/-- Discard entries, counted in ALC_CNT_DISCARD (R154, R155). -/
def Dev.discardAll (d : Dev) (es : List QEntry) : Dev :=
  (d.each es fun e d => d.dropEntry e).bumpBy F.alcCntDiscard es.length

/-! ### Registers of ALC (Table 4.8) -/

/-- EARG and ESTATE of writes to ALC registers. -/
def Dev.alcCheck (d : Dev) (a : Nat) (w : Word) : Status :=
  if a = F.alcStkCtrlEn.addr then (if 16 < bitsOf w 8 5 then .earg else .ok)
  else if a = F.alcCtrl.addr then
    let strikeBound := (d.swm.voices.any fun x => x.2.bound && d.strikeVoice x.1)
    if w.getLsbD 0 ∧ d.strikeOn = true ∧ strikeBound = true then .estate else .ok
  else if 0x2100 ≤ a ∧ a < 0x2200 then
    if a % 8 = 0 then
      if bitsOf w 8 4 < 2 ∨ 8 < bitsOf w 8 4 ∨ bitsOf w 16 5 < 3 ∨ 24 < bitsOf w 16 5 then .earg else .ok
    else if w.getLsbD 15 ∧ bitsOf w 8 7 < bitsOf w 0 7 then .earg else .ok
  else .ok

/-- ALC_CTRL.RUN written 0: every queued entry is discarded (R155). -/
def Dev.alcStop (d : Dev) : Dev := d.discardAll d.alc.queue

/-- What writes to ALC registers start after their fields have changed. -/
def Dev.alcHook (d : Dev) (a : Nat) (old : Word) : Dev :=
  if a = F.alcCtrl.addr ∧ old.getLsbD 0 = true ∧ d.on F.alcCtrl = false then (d.alcStop).dropHealth else d

/-- Whether the strike path is active. -/
def Dev.strikeActive (d : Dev) : Bool := d.strikeOn && d.feature Feat.strike

/-- ALC registers that are views. -/
def Dev.alcRead (d : Dev) (a : Nat) : Option Word :=
  let n := BitVec.ofNat 32
  if a = F.alcStatusRunning.addr then some (n (d.get F.alcCtrl + (if d.strikeActive then 2 else 0)))
  else if a = F.alcQstatTimed.addr then
    let i := (d.alc.queue.filter (·.imm)).length
    some (n (d.alc.queue.length - i + 65536 * i))
  else if a = F.alcBudget.addr then some (n d.avail)
  else if a = F.alcLoadNow.addr then
    let s := d.time.smp.toNat + 1
    let peak := (d.dueSamples.map d.loadT).foldl max 0
    some (n (min 2047 (d.loadL s + d.alc.charge) + 65536 * min 2047 peak))
  else none

end Sys2Proof.Machine
end

