-- ==== Sys2Proof/Machine/Swarm.lean ====
section
/-! DEFINITION. The swarm at a sample edge (chapters 3 and 4): binding, molts, the snapshot, the render of a sample, husks,
the sentinel lane, stopping and the re-anchor of stored instants. -/

namespace Sys2Proof.Machine

/-! ### Sentinel (R163 to R166) -/

def Dev.setSen (d : Dev) (s : Sentinel) : Dev := { d with swm := { d.swm with sen := s } }

/-- SWM_SEN_STAT and SWM_SEN_BLK of a check of `voice` in block `blk` that ends. -/
def Dev.senShow (d : Dev) (voice blk : Nat) (mismatch abandoned : Bool) : Dev :=
  let b (x : Bool) : Nat := if x then 1 else 0
  ((((d.put F.swmSenStatVoice voice).put F.swmSenStatValid 1).put F.swmSenStatMismatch (b mismatch)).put
    F.swmSenStatAbandoned (b abandoned)).put64 F.swmSenBlkLo F.swmSenBlkHi blk

/-- The check under way is abandoned (R165). -/
def Dev.senAbandon (d : Dev) : Dev :=
  let s := d.swm.sen
  if s.active then ((d.senShow s.voice s.blk false true).bump F.swmSenCntAbandon).setSen { s with active := false } else d

/-- The voice under check molts, frees, is killed or rebound. -/
def Dev.senLeave (d : Dev) (v : Nat) : Dev := if d.swm.sen.active && d.swm.sen.voice == v then d.senAbandon else d

/-- A complete check is published at the end of its block (R164). -/
def Dev.senPublish (d : Dev) : Dev :=
  let s := d.swm.sen
  match s.done with
  | none => d
  | some (voice, l, r, blk) =>
    let live := l ^^^ 0xFFFFFFFF#32
    let ref := (r ^^^ 0xFFFFFFFF#32) ^^^ (if s.inject then 1#32 else 0)
    let bad := live != ref
    let d := (((d.senShow voice blk bad false).setReg F.swmSenSigLive.addr live).setReg F.swmSenSigRef.addr ref).bump
      F.swmSenCntCheck
    let d := d.setSen { s with done := none, inject := false }
    if bad then
      (((d.bump F.swmSenCntMismatch).put F.swmSenFailVoice voice).put64 F.swmSenFailBlkLo F.swmSenFailBlkHi blk).fault
        Cls.sentinel (BitVec.ofNat 32 voice)
    else d

/-- The last sample of the block has been rendered: the check is complete. It is published at the block edge, at once if
that edge has already come. -/
def Dev.senComplete (d : Dev) : Dev :=
  let d := d.senPublish
  let s := d.swm.sen
  let d := d.setSen { s with active := false, done := some (s.voice, s.live, s.ref, s.blk) }
  if s.blk < d.time.blk.toNat then d.senPublish else d

/-- The bytes that a sample contributes to a signature: y and both sends. -/
def senBytes (v : Voice) : List Byte :=
  let w (x : Int) : List Byte := bytesOf (BitVec.ofInt 32 x).toNat 4
  w v.y ++ w v.sendA ++ w v.sendB

/-- Voices that render. -/
def Dev.boundVoices (d : Dev) : List Nat := (d.swm.voices.filter fun x => x.2.bound).map (·.1)

/-- At the snapshot for the first sample of a block, the lane takes its next voice. -/
def Dev.senBegin (d : Dev) (n : Nat) : Dev :=
  let q := if d.rate96 then 96 else 48
  let s := d.swm.sen
  if !d.apOn F.swmSenCtrlEn || decide ((n - 1) % q ≠ 0) then d
  else
    let bs := d.boundVoices
    match (bs.find? fun v => decide (s.last ≤ v)).orElse (fun _ => bs.head?) with
    | none => d
    | some v =>
      d.setSen { s with active := true, voice := v, copy := d.voice v, live := 0xFFFFFFFF, ref := 0xFFFFFFFF,
                        blk := (n - 1) / q, last := v + 1 }

/-- Change a voice's runtime state and, where the sentinel renders it too, the copy. -/
def Dev.modVoice (d : Dev) (v : Nat) (f : Voice → Voice) : Dev :=
  let d := d.setVoice v (f (d.voice v))
  let s := d.swm.sen
  if s.active && s.voice == v then d.setSen { s with copy := f s.copy } else d

/-! ### Runtime words (R132) -/

/-- Low and high word of a 64-bit two's complement value. -/
def pair64 (x : Int) : List Byte := bytesOf (BitVec.ofInt 64 x).toNat 8

def word32 (x : Int) : List Byte := bytesOf (BitVec.ofInt 32 x).toNat 4

/-- RT_STATE. -/
def Voice.rtState (v : Voice) : Nat :=
  let b (x : Bool) (k : Nat) : Nat := if x then 2 ^ k else 0
  if v.bound then
    (if v.env1.released || v.env1.release.isSome then 2 else 1) + 4 * v.env1.seg + b v.env1.done 5 + 64 * v.env2.seg
      + b v.env2.done 9 + b v.late 10
  else 0

/-- The offset B + D as shown: modulo 2^48, or whole for a SAMPLE position. -/
def ofsShown (sample : Bool) (o : Osc) : Int := if sample then o.b + o.d else mod48 (o.b + o.d)

/-- The words +0x180 to +0x1CB of a voice. -/
def Voice.rtBytes (v : Voice) (w : Words) : List Byte :=
  if !v.bound then List.replicate 76 0
  else
    word32 v.rtState ++ pair64 v.oscA.ph ++ pair64 v.oscB.ph ++ pair64 (ofsShown (w 0x10 % 8 = 5) v.oscA)
      ++ pair64 (ofsShown (w 0x40 % 8 = 5) v.oscB) ++ word32 v.env1.level ++ word32 v.env2.level ++ word32 v.noise.toNat
      ++ word32 v.f1s1 ++ word32 v.f1s2 ++ word32 v.f2s1 ++ word32 v.f2s2 ++ word32 v.y ++ pair64 v.bindSmp

/-- A write by the swarm: a line that refuses it drops its part (Table 7.4). -/
def Dev.swarmStore (d : Dev) (a : Nat) (data : List Byte) : Dev := (d.writeLines Master.swarm (chunksOf a data)).2

/-- A voice's runtime words are written back, each line by a partial write (R239, R243): one that is refused is dropped. -/
def Dev.writeRt (d : Dev) (v : Nat) (w : Words) : Dev :=
  d.each (chunksOf (voiceBase v + 0x180) ((d.voice v).rtBytes w)) fun c d => d.writePart Master.swarm c

/-- The parameter words of the sample under render. -/
def Dev.snapOf (d : Dev) (v : Nat) : Words := wordsOf (Tab.get (fun _ => []) d.swm.snap v)

/-- A voice stops and is free unless it is HELD (R140); its runtime words read 0. -/
def Dev.freeVoice (d : Dev) (v : Nat) : Dev :=
  let d := (d.senLeave v).setVoice v .free
  let d := { d with swm := { d.swm with snap := Tab.set (fun _ => []) d.swm.snap v [] } }
  d.writeRt v (fun _ => 0)

/-! ### Husks (R156) -/

def Dev.husk (d : Dev) (h : Nat) : Husk := Tab.get (fun _ => Husk.free) d.swm.husks h

def Dev.setHusk (d : Dev) (h : Nat) (x : Husk) : Dev :=
  { d with swm := { d.swm with husks := Tab.set (fun _ => Husk.free) d.swm.husks h x } }

def Dev.huskBusy (d : Dev) (h : Nat) : Bool := decide (0 < (d.husk h).len)

/-- Hand the sends of voice `v`'s last sample to husk `h` for `len` samples. -/
def Dev.toHusk (d : Dev) (v h len : Nat) : Dev :=
  let x := d.voice v
  let s := d.snapOf v 0x84
  d.setHusk h ⟨x.sendA, x.sendB, s % 16, s / 16 % 16, s.testBit 8, s.testBit 9, len, 0⟩

/-- Molt voice `v` into the lowest free ordinary husk; without one its sends end. -/
def Dev.molt (d : Dev) (v len : Nat) : Dev :=
  match (List.range d.huskPool).find? fun h => !d.huskBusy h with
  | some h => (d.senLeave v).toHusk v h len
  | none => d.senLeave v

/-- Add to a bus accumulator (R130). -/
def Dev.busAdd (d : Dev) (bus : Nat) (x : Int) : Dev :=
  { d with swm := { d.swm with acc := Tab.set (fun _ => 0) d.swm.acc bus (Tab.get (fun _ => 0) d.swm.acc bus + x) } }

/-- A husk's contribution to the sample being finished. -/
def Dev.huskStep (d : Dev) (h : Nat) : Dev :=
  let x := d.husk h
  if x.len = 0 then d
  else
    let k := x.k + 1
    let f (a : Int) : Int := (a * (x.len - k : Nat)).tdiv x.len
    let d := if x.enA then d.busAdd x.busA (f x.aA) else d
    let d := if x.enB then d.busAdd x.busB (f x.aB) else d
    d.setHusk h (if x.len ≤ k then .free else { x with k := k })

/-! ### Binding (R30, R97, R142, R145) -/

/-- Copy the patch voice's words +0x010 to +0x12F line by line (R142). Reserved words are carried as 0. -/
def Dev.patchCopy (d : Dev) (p v : Nat) : Dev :=
  let lines := (List.range 10).map fun i => voiceBase p + 32 * i
  let r := lines.foldl (fun (acc : List Byte × Dev) l =>
    let x := acc.2.readLine Master.swarm l
    (acc.1 ++ x.1.2, x.2)) ([], d)
  let w := fun o => ofBytes ((r.1.drop o).take 4)
  let data := (List.range 72).flatMap fun i =>
    let o := 0x10 + 4 * i
    bytesOf (match paramSpec o with
      | some sp => w o &&& sp.mask
      | none => 0) 4
  let a := voiceBase v + 0x10
  let d := (r.2.swarmStore a data).endRamps ((List.range 288).map fun i => a + i)
  d.each [0x14, 0x1C, 0x44, 0x4C, 0x94, 0xA4] fun o d => d.setHeld (voiceBase v + o) none

/-- The slot clears and starts a new onset (R97). DESIGN CHOICE (log 25): a VON without a patch on a voice whose words cost more than its
family's COST is muted and counted as R145 says of a patch. -/
def Dev.bindVoice (d : Dev) (v fam n : Nat) (late : Bool) (dEff dNom : Int) : Dev :=
  let w := d.planVoice .empty v
  let seed := BitVec.ofNat 32 (w 0x74)
  let env : Env := { Env.zero with start := dEff }
  let dear := !d.strikeVoice v && decide (d.famCost fam < voiceCost w)
  let d := d.setVoice v { Voice.free with
    bound := true, late := late, bindSmp := n, dEff := dEff, dNom := dNom, fam := fam, env1 := env, env2 := env,
    noise := if seed = 0 then 1 else seed, overCost := dear }
  if dear then d.bump F.alcCntOvercost else d

/-- VON at its binding: molt or end of a hard steal, patch, VEL, onset. -/
def Dev.bindVon (d : Dev) (e : QEntry) (n : Nat) (alloc : Bool) (p : Option Nat) (vel : Nat) (dEff : Nat) : Dev :=
  let v := e.voice
  let was := (d.voice v).bound
  let len := if e.husk then e.huskLen else d.huskLen (d.voice v).fam
  let d := if was && !e.hard then d.molt v len else d.senLeave v
  let d := if was && !alloc then d.bump F.alcCntRetrig else if was && !e.hard then d.bump F.alcCntMolt else d
  let d := if e.hard then d.bump F.alcCntHard else d
  let d := match p with
    | some p => d.patchCopy p v
    | none => d
  (d.swarmStore (voiceBase v + 0xF8) (bytesOf vel 4)).bindVoice v e.fam n (e.late || decide (e.due < dEff)) dEff e.dNom

/-- A running VRAMP's value at instant `tau`. -/
def Ramp.value (r : Ramp) (tau : Int) : Int :=
  if tau < r.start + r.dur then r.v0 + ((r.v1 - r.v0) * (tau - r.start)).tdiv r.dur else r.v1

/-- A scheduled parameter write at its snapshot, with its second cost test (R145). -/
def Dev.bindParam (d : Dev) (e : QEntry) (dEff : Nat) : Dev :=
  let v := e.voice
  let pl := d.opPlan true v e.op
  if pl.sts.any (·.2 = .eledger) then d.bump F.alcCntOvercost
  else if pl.sts.any (·.2.isError) then d
  else match e.op with
    | .vramp f v1 dur =>
      match rampField f with
      | some (o, lo, n) =>
        if dur = 0 then (d.planStore Master.swarm pl (voiceBase v + o) 0).2
        else
          let d := d.endRamps ((rampBytes f).map fun i => voiceBase v + i)
          let d := if n = 48 then d.setHeld (voiceBase v + o) none else d
          let w := d.planVoice .empty v
          let v0 : Nat := if n = 48 then word48 w o else fieldOf w o lo n
          { d with swm := { d.swm with ramps := d.swm.ramps ++ [⟨v, f, v0, (v1 % 2 ^ n : Nat), dEff, dur⟩] } }
      | none => d
    | _ => (d.planStore Master.swarm pl (voiceBase v) 0).2

/-- The victim of a VKILL or of a stealing VALLOC leaves its slot: by a molt, or at the end of its hard ramp (R151, R156, R157). -/
def Dev.evict (d : Dev) (e : QEntry) : Dev :=
  let v := e.voice
  if !(d.voice v).bound then d
  else if e.hard then d.freeVoice v
  else (d.molt v (if e.husk then e.huskLen else d.huskLen (d.voice v).fam)).freeVoice v

/-- One entry binds at the snapshot of sample `n` (R142); its reservation stays only while a husk uses it. DESIGN CHOICE (log 25): a VON
of a voice that the rate, changed since its admission, does not render has no effect (R136). -/
def Dev.bindEntry (d : Dev) (e : QEntry) (n : Nat) : Dev :=
  let dEff := if e.due ≤ (n - 1) * d.period then n * d.period else e.due
  let v := e.voice
  let was := (d.voice v).bound
  let away := match e.op with
    | .von .. => decide (v < d.voiceCount)
    | .vkill => true
    | .valloc => e.steals
    | _ => false
  let moltsNow := was && !e.hard && away
  let d := { d with alc := { d.alc with
    queue := d.alc.queue.filter (fun q => q.seq != e.seq)
    huskRes :=
      (if moltsNow then [(e.seq, n, n + (if e.husk then e.huskLen else d.huskLen (d.voice v).fam) - 1)] else []) ++
        d.alc.huskRes.filter (fun h => h.1 != e.seq) } }
  match e.op with
  | .von alloc p vel => if v < d.voiceCount then d.bindVon e n alloc p vel dEff else d
  | .voff =>
    if was then d.modVoice v fun x =>
      if x.env1.released || x.env1.release.isSome then x
      else { x with env1 := { x.env1 with release := some dEff }, env2 := { x.env2 with release := some dEff } }
    else d
  | .vkill => (d.whenB (was && e.hard) fun d => d.bump F.alcCntHard).evict e
  | .valloc =>
    let d := if !e.steals then d
      else ((d.whenB (was && !e.hard) fun d => d.bump F.alcCntMolt).whenB e.hard fun d => d.bump F.alcCntHard).evict e
    d.setVentry v ⟨true, e.fam⟩
  | .vfree => d.setVentry v .free
  | _ => d.bindParam e dEff

/-- The cost the allocator charges now. -/
def Dev.loadNow (d : Dev) : Nat := (d.liveVoices.map fun v => d.expectCost v (d.expectNow v)).sum

/-- An entry that AVAIL does not hold is carried to the following sample; each is counted once in ALC_CNT_LATE for it (R171). -/
def Dev.carry (d : Dev) (e : QEntry) : Dev :=
  let d := if e.carried then d else d.bump F.alcCntLate
  { d with alc := { d.alc with
      queue := d.alc.queue.map fun q => if q.seq == e.seq then { q with late := true, carried := true } else q } }

/-- Bind entries in queue order; `charge` sums the binding charges. After a re-anchor has passed due samples (`carry`), those
from the first that AVAIL does not hold on are carried (R171). -/
def Dev.bindList (d : Dev) (n : Nat) (carry : Bool) : List QEntry → Dev
  | [] => d
  | e :: es =>
    let d' := d.bindEntry e n
    if carry && decide (d.avail < d'.loadNow + d.alc.charge + e.charge) then d.each (e :: es) fun e d => d.carry e
    else { d' with alc := { d'.alc with charge := d'.alc.charge + e.charge } }.bindList n carry es

/-- A hard entry's victim starts its ramp 32 samples before the entry's due sample (R157), or in the course of it where it is bound later. -/
def Dev.markHard (d : Dev) (n : Nat) : Dev :=
  d.each (d.alc.queue.filter (·.hard)) fun e d =>
    let s := d.dueSample e.due - 32
    if s ≤ n ∧ (d.voice e.voice).bound = true ∧ (d.voice e.voice).hard = 0 then d.modVoice e.voice ({ · with hard := s })
    else d

/-! ### The snapshot (R93, R98, R131) -/

/-- Ramps of the sample of instant `tau`: each takes its value, written to its parameter word; finished ramps leave. -/
def Dev.rampStep (d : Dev) (tau : Nat) : List (Ramp × Nat) × Dev :=
  let vals := d.swm.ramps.map fun r => (r, (r.value tau).toNat)
  let d := d.each vals fun x d =>
    match rampField x.1.field with
    | some (o, lo, n) =>
      let old := d.planVoice .empty x.1.voice o
      if n = 48 then
        let hi := d.planVoice .empty x.1.voice (o + 4)
        d.swarmStore (voiceBase x.1.voice + o)
          (bytesOf (x.2 % 2 ^ 32) 4 ++ bytesOf (hi / 2 ^ 16 * 2 ^ 16 + x.2 / 2 ^ 32) 4)
      else d.swarmStore (voiceBase x.1.voice + o) (bytesOf (old - old / 2 ^ lo % 2 ^ n * 2 ^ lo + x.2 * 2 ^ lo) 4)
    | none => d
  (vals, { d with swm := { d.swm with
    ramps := d.swm.ramps.filter (fun r => decide ((tau : Int) < r.start + r.dur))
    ramped := vals.map fun x => (x.1.voice, x.1.field) } })

/-- The words as the voice takes them: a ramp's value stands whether or not its write was stored. -/
def overlay (w : Words) (v : Nat) (vals : List (Ramp × Nat)) : Words :=
  (vals.filter fun x => x.1.voice == v).foldl (fun w x o =>
    match rampField x.1.field with
    | some (b, lo, n) =>
      if n = 48 then
        (if o = b then x.2 % 2 ^ 32 else if o = b + 4 then w o / 2 ^ 16 * 2 ^ 16 + x.2 / 2 ^ 32 else w o)
      else if o = b then w o - w o / 2 ^ lo % 2 ^ n * 2 ^ lo + x.2 * 2 ^ lo else w o
    | none => w o) w

/-- The bytes of a voice's parameter lines as the snapshot reads them, recorded but for VIRGIN lines, and whether a line was
uncorrectable or POISON. -/
def Dev.snapRead (d : Dev) (v : Nat) : List Byte × Bool × Dev :=
  (List.range 10).foldl (fun (acc : List Byte × Bool × Dev) i =>
    let x := acc.2.2.readLine Master.swarm (voiceBase v + 32 * i) true
    (acc.1 ++ x.1.2, acc.2.1 || x.1.1.isErr, x.2)) ([], false, d)

/-- The same without a record, for a strike voice that is not bound. -/
def Dev.snapPeek (d : Dev) (v : Nat) : List Byte := (List.range 10).flatMap fun i => (d.lineView (voiceBase v + 32 * i)).2

/-- Keep a voice's words for the render. -/
def Dev.keepSnap (d : Dev) (v : Nat) (bytes : List Byte) (vals : List (Ramp × Nat)) : Dev :=
  let w := overlay (fun o => ofBytes ((bytes.drop o).take 4)) v vals
  let l := (List.range 76).map fun i => BitVec.ofNat 32 (w (4 * i))
  { d with swm := { d.swm with snap := Tab.set (fun _ => []) d.swm.snap v l } }

/-- Snapshot one bound voice; a voice over its cost sounds again once its cost fits (R145). -/
def Dev.snapVoice (d : Dev) (v : Nat) (vals : List (Ramp × Nat)) : Dev :=
  let r := d.snapRead v
  let d := r.2.2.keepSnap v r.1 vals
  let d := if r.2.1 then { d with swm := { d.swm with snapErr := v :: d.swm.snapErr } } else d
  let x := d.voice v
  if x.overCost && decide (voiceCost (d.snapOf v) ≤ d.famCost x.fam) then d.modVoice v ({ · with overCost := false }) else d

/-! ### Global LFOs and controls (R126) -/

def Dev.glfo (d : Dev) (g : Nat) : Glfo := Tab.get (fun _ => Glfo.zero) d.swm.glfo g

/-- Global LFO `g` for sample `n` (R126). A change from HOUSE to FREE goes on from the phase of the sample before, as R99 has it. -/
def Dev.glfoStep (d : Dev) (n g : Nat) : Dev :=
  let x := d.glfo g
  let inc := d.get (F.swmGlfoIncLo g) + 2 ^ 32 * d.get (F.swmGlfoIncHiInc g)
  let phi0 := d.get (F.swmGlfoCfgPhi0 g) * 2 ^ 32
  let run := d.on (F.swmGlfoCfgRun g)
  let out (ph : Nat) (c : Nat) : Int := lfoShape (d.get (F.swmGlfoCfgShape g)) ph c (d.get (F.swmGlfoIncHiSeed g))
  let y : Glfo :=
    if d.on (F.swmGlfoCfgPh g) then
      let ph := phi0 + inc * n
      { x with ph := ph % 2 ^ 48, inc := inc, run := run, val := out (ph % 2 ^ 48) (ph / 2 ^ 48) }
    else if !run then { x with run := false }
    else
      let ph := if x.run then x.ph + x.inc else phi0
      let c := if x.run then x.wraps + ph / 2 ^ 48 else 0
      ⟨ph % 2 ^ 48, c, inc, true, out (ph % 2 ^ 48) c⟩
  { d with swm := { d.swm with glfo := Tab.set (fun _ => Glfo.zero) d.swm.glfo g y } }.putInt (F.swmGlfoVal g) y.val

/-- The snapshot for sample `n`, taken at (n − 1)·P: binding first, ramps at n·P, then every bound voice's words. DESIGN CHOICE (log 25):
while SWM_CTRL.RUN is 0 the global LFOs stand still, and a FREE one goes on from its old phase. -/
def Dev.bindSample (d : Dev) (n : Nat) : Dev :=
  let tau := n * d.period
  let d := { d with
    alc := { d.alc with charge := 0, huskRes := d.alc.huskRes.filter fun r => decide (n ≤ r.2.2) }
    swm := { d.swm with snapErr := [], ramped := [] } }
  let due := d.alc.queue.filter fun e => decide (d.dueSample e.due ≤ n)
  if !d.on F.swmCtrlRun then d.discardAll due
  else
    let passed := due.any fun e => decide (d.dueSample e.due < n)
    let d := (d.bindList n passed (if passed then due else sortBy (fun a b => decide (a.seq ≤ b.seq)) due)).markHard n
    let r := d.rampStep tau
    let d := r.2.each (List.range 4) fun g d => d.glfoStep n g
    let d := { d with swm := { d.swm with ctl := (List.range 4).map fun c => signed 24 (d.get (F.swmCtl c)) } }
    let d := d.each d.boundVoices fun v d => d.snapVoice v r.1
    let strikes := (List.range 128).filter fun v => d.strikeVoice v && !(d.voice v).bound
    let d := d.each strikes fun v d => d.keepSnap v (d.snapPeek v) r.1
    d.senBegin n

/-! ### The render of a sample (R90, R129, R130, R137) -/

/-- The scene of voice `v` at sample `n`. -/
def Dev.scene (d : Dev) (n v : Nat) : Scene :=
  ⟨n, d.period, d.rate96, fun g => (d.glfo g).val, fun c => d.swm.ctl.getD c 0, d.ltcLine (n * d.period),
   fun f => d.swm.ramped.contains (v, f)⟩

/-- Count a voice's events of one sample. -/
def Dev.countFlags (d : Dev) (v : Nat) (f : Flags) : Dev :=
  let one (d : Dev) (c : Bool) (x : Fld) : Dev := if c then d.bump x else d
  let d := one d f.satur F.swmCntSat
  let d := one d f.clamp F.swmCntClamp
  let d := one d f.virgin F.swmCntVirgin
  let d := one d (f.rdErr || d.swm.snapErr.contains v) F.swmCntRderr
  one d f.badCfg F.swmCntBadcfg

/-- The sentinel renders its copy of the voice for the same sample, with its own reads. -/
def Dev.senRender (d : Dev) (n v : Nat) : Dev :=
  let s := d.swm.sen
  if !(s.active && s.voice == v) then d
  else
    let r := d.renderVoice (d.scene n v) (d.snapOf v) s.copy
    let d' := r.2.2.setSen { s with
      copy := r.1, live := crcBytes s.live (senBytes (d.voice v)), ref := crcBytes s.ref (senBytes r.1) }
    if n % (if d.rate96 then 96 else 48) = 0 then d'.senComplete else d'

/-- Render voice `v` for sample `n`. -/
def Dev.renderOne (d : Dev) (n v : Nat) : Dev :=
  let w := d.snapOf v
  let r := d.renderVoice (d.scene n v) w (d.voice v)
  let d := ((r.2.2.setVoice v r.1).countFlags v r.2.1).senRender n v
  let d := if (w 0x84).testBit 8 then d.busAdd (w 0x84 % 16) r.1.sendA else d
  let d := if (w 0x84).testBit 9 then d.busAdd (w 0x84 / 16 % 16) r.1.sendB else d
  d.writeRt v w

/-- Finish sample `n` (R90, R123, R156): every bound voice, then the husks; finished voices become free. -/
def Dev.finishSample (d : Dev) (n : Nat) : Dev :=
  let d := { d with swm := { d.swm with acc := [] } }
  let d := d.each d.boundVoices fun v d => d.renderOne n v
  let d := d.each (d.swm.husks.map (·.1)) fun h d => d.huskStep h
  d.each (d.boundVoices.filter fun v => (d.voice v).env1.done && decide ((d.voice v).env1.level = 0)) fun v d => d.freeVoice v

/-- SWM_CTRL.RUN stands at 0 at a sample edge (R134): every voice and husk stops, ramps end. -/
def Dev.swarmStop (d : Dev) : Dev :=
  if d.on F.swmCtrlRun || !d.on F.swmStatusRunning then d
  else
    let d := d.each d.boundVoices fun v d => d.freeVoice v
    { d with swm := { d.swm with husks := [], ramps := [], ramped := [], snap := [] } }.put F.swmStatusRunning 0

/-! ### Re-anchor (R133, R171) -/

/-- Every stored instant of the swarm moves by `s`. The check under way is abandoned. -/
def Dev.swarmShift (d : Dev) (s : Int) : Dev :=
  let env (e : Env) : Env := { e with start := e.start + s, release := e.release.map (· + s) }
  let d := d.senAbandon
  { d with swm := { d.swm with
      voices := d.swm.voices.map fun x =>
        (x.1, { x.2 with dEff := x.2.dEff + s, env1 := env x.2.env1, env2 := env x.2.env2 })
      ramps := d.swm.ramps.map fun r => { r with start := r.start + s } } }

/-! ### Registers of SWM (Tables 3.11 and 4.9) -/

/-- EARG of writes to SWM registers. -/
def Dev.swmCheck (a : Nat) (w : Word) : Status :=
  if 0x1820 ≤ a ∧ a < 0x1860 then
    if a % 16 = 0 then (if 6 ≤ bitsOf w 0 3 then .earg else .ok)
    else if a % 16 = 8 then (if 0x8000 ≤ bitsOf w 0 16 then .earg else .ok)
    else .ok
  else .ok

/-- What writes to SWM registers start after their fields have changed. -/
def Dev.swmHook (d : Dev) (a : Nat) (old w1 : Word) : Dev :=
  if a = F.swmCtrlRun.addr then
    let d := d.regrid (if old.getLsbD 1 then 32768 else 65536)
    (if d.on F.swmCtrlRun then d.put F.swmStatusRunning 1 else d).dropHealth
  else if a = F.swmSenCtrlInject.addr ∧ w1.getLsbD 1 = true then d.setSen { d.swm.sen with inject := true }
  else d

/-- SWM registers that are views. -/
def Dev.swmRead (d : Dev) (a : Nat) : Option Word :=
  let n := BitVec.ofNat 32
  let busy := (List.range 16).filter d.huskBusy
  if a = F.swmStatusRunning.addr then
    some (n (d.get F.swmStatusRunning + 256 * d.boundVoices.length + 65536 * busy.length))
  else if 0x1810 ≤ a ∧ a < 0x1820 then
    some (n ((d.boundVoices.filter fun v => v / 32 == (a - 0x1810) / 4).map fun v => 2 ^ (v % 32)).sum)
  else if a = F.swmHuskBusy.addr then some (n (busy.map (2 ^ ·)).sum)
  else none

end Sys2Proof.Machine
end

