-- ==== Sys2Proof/Machine/Outputs.lean ====
section
/-! DEFINITION. The outputs (chapter 8): router, ports and FIFOs, mute, DAC ranges and clamps, AES3 channel status and the
port signatures. -/

namespace Sys2Proof.Machine

/-! ### Ports (R268) -/

def Dev.port (d : Dev) (p : Nat) : Port := Tab.get (fun _ => Port.zero) d.outp.ports p

def Dev.setPort (d : Dev) (p : Nat) (x : Port) : Dev :=
  { d with outp := { d.outp with ports := Tab.set (fun _ => Port.zero) d.outp.ports p x } }

def Dev.dac (d : Dev) (c : Nat) : DacCh := Tab.get (fun _ => DacCh.zero) d.outp.dac c

def Dev.setDac (d : Dev) (c : Nat) (x : DacCh) : Dev :=
  { d with outp := { d.outp with dac := Tab.set (fun _ => DacCh.zero) d.outp.dac c x } }

/-- First channel and number of channels of a port (Table 8.1). -/
def portChans (p : Nat) : Nat × Nat :=
  if p = 0 then (0, 8) else if p ≤ 4 then (8 + 2 * (p - 1), 2) else if p = 5 then (16, 16) else (32, 1)

/-- A bit of a register field. -/
def Dev.bit (d : Dev) (f : Fld) (i : Nat) : Bool := (d.get f).testBit i

/-! ### Router (R269) -/

/-- The value of channel `c`, and whether sat_24 clamped. -/
def Dev.route (d : Dev) (c : Nat) : Int × Bool :=
  let src := d.ap (F.outRouteSrc c)
  if src = 16 then (0, false)
  else
    let u := rnd (Tab.get (fun _ => 0) d.swm.acc src * d.ap (F.outRouteGain c)) 15
    satF 24 (if d.apOn (F.outRouteInv c) then -u else u)

/-! ### Mute (R273 to R275, R460) -/

/-- Evaluate FMUTE with its terms. -/
def Dev.fmuteEval (d : Dev) : Dev :=
  let byClass := (List.range 10).any fun x => d.lasting x && d.apOn (F.fltActMute x)
  let byRef := (d.on F.fltMuteCfgRefLapse && decide (d.loop = Loop.lapsed)) ||
    (d.on F.fltMuteCfgRefBad && !d.on F.refStatusGood)
  let byHealth := d.on F.fltMuteCfgUnhealthy && !d.healthyButForce
  let b (x : Bool) : Nat := if x then 1 else 0
  (((d.put F.fltMuteCfgByClass (b byClass)).put F.fltMuteCfgByRef (b byRef)).put F.fltMuteCfgByHealth (b byHealth)).put
    F.outMuteFmute (b (byClass || byRef || byHealth))

/-- MUTE or FMUTE holds. -/
def Dev.muteOn (d : Dev) : Bool := d.on F.outMuteMute || d.on F.outMuteFmute

/-- Whether port `p` counts as muted. -/
def Dev.portMuted (d : Dev) (p : Nat) : Bool := (d.muteOn && !d.bit F.outMuteExempt p) || (d.port p).stopping

/-! ### DAC ranges (R278 to R281, R294) -/

/-- The target range of channel `c`: its applied bit of X2, and ×1 with HEADROOM 0, which has ×1 alone (R277, R278). -/
def Dev.dacTarget (d : Dev) (c : Nat) : Bool := d.on F.dacCfgHeadroom && (d.ap F.dacGain).testBit c

/-- Set or clear DAC_RANGE.FALLBACK of a channel. -/
def Dev.putFallback (d : Dev) (c : Nat) (on : Bool) : Dev :=
  let v := d.get F.dacRangeFallback
  d.put F.dacRangeFallback (if on then v ||| 2 ^ c else v - (if v.testBit c then 2 ^ c else 0))

/-- A range change of channel `c` ends at once with ACT `act`: a change of ACT made so did not use the fallback ramp
(R294, Table 8.9). -/
def Dev.dacTake (d : Dev) (c : Nat) (act : Bool) : Dev :=
  let x := d.dac c
  let d := d.setDac c { x with act := act, search := none, fall := none }
  if act = x.act then d else d.putFallback c false

/-- A range change in progress ends at once with ACT taking the target. -/
def Dev.dacSettle (d : Dev) (c : Nat) : Dev := d.dacTake c (d.dacTarget c)

/-- The range factor of the fallback ramp's sample `j` (R280). -/
def fallFactor (j : Nat) : Nat := if j < 64 then 63 - j else j - 63

/-- The range factor at a sample: 64 but in a fallback ramp (R280); it falls by 1 in the ramp to the over-temperature clamp
and rises by 1 after it (R283). DESIGN CHOICE (log 26): in a fallback ramp beside either, it takes the lower value. -/
def Dev.dacFactor (d : Dev) (c : Nat) : Dev :=
  let x := d.dac c
  d.setDac c { x with r :=
    if d.outp.otRamp then x.r - 1 else if d.outp.faultClamp then x.r else min (x.r + 1) ((x.fall.map fallFactor).getD 64) }

/-- The fallback ramp's sample `j` (R280, R281). -/
def Dev.dacFall (d : Dev) (c j : Nat) : Dev :=
  let x := d.dac c
  let d := d.setDac c { x with fall := if j < 127 then some (j + 1) else none, act := if j = 64 then d.dacTarget c else x.act }
  if j = 64 then (d.putFallback c true).bump F.dacCntFallback else d

/-- The search of R279 at a sample of value `w`. -/
def Dev.dacSearch (d : Dev) (c : Nat) (w : Int) : Dev :=
  let x := d.dac c
  let t := d.dacTarget c
  if t = x.act then d.setDac c { x with search := none }
  else
    let i := x.search.getD 0
    let crosses := decide (w = 0) || (decide (x.prev * w < 0))
    if decide (w.natAbs ≤ d.get F.dacZc) && crosses then
      ((d.setDac c { x with act := t, search := none }).putFallback c false).bump F.dacCntZc
    else d.setDac c { x with search := if i < 255 then some (i + 1) else none, fall := if i < 255 then none else some 0 }

/-- One sample of DAC channel `c`: range and factor move, and the code is formed (R273). -/
def Dev.dacCode (d : Dev) (c : Nat) (w : Int) : Int × Dev :=
  let d := match (d.dac c).fall with
    | some j => (d.dacFactor c).dacFall c j
    | none => (d.dacFactor c).dacSearch c w
  let x := d.dac c
  let w' := (w * x.r).tdiv 64
  (if d.on F.dacCfgGaincomp && x.act then rnd w' 1 else w', d.setDac c { x with prev := w })

/-! ### Clamps (R276, R283) -/

/-- Whether the DAC outputs are clamped (DAC_STATUS.CLAMP). -/
def Dev.clamped (d : Dev) : Bool := !(d.port 0).run || d.outp.startClamp || d.outp.faultClamp

/-- The ramp to the over-temperature clamp ends when every factor is 0. -/
def Dev.otRampEnd (d : Dev) : Dev :=
  if d.outp.otRamp && (List.range 8).all fun c => decide ((d.dac c).r = 0) then
    { d with outp := { d.outp with otRamp := false, faultClamp := true } }
  else d

/-- OT becomes 1 (R283). -/
def Dev.otRise (d : Dev) (temp : Nat) : Dev :=
  let d := d.put F.dacTemp temp
  if d.on F.dacStatusOt || decide (signed 16 temp < 16 * (d.get F.dacOtLim : Nat)) then d
  else
    let d := d.each (List.range 8) fun c d => d.dacSettle c
    let d := { d with outp := { d.outp with otRamp := !d.outp.faultClamp, okBlocks := 0, restart := false } }
    (((d.put F.dacStatusOt 1).put F.dacStatusOtSeen 1).bump F.dacCntOt).fault Cls.overTemp (BitVec.ofNat 32 temp)

/-- OT becomes 0 (R283). -/
def Dev.otFall (d : Dev) (temp : Nat) : Dev :=
  let d := d.put F.dacTemp temp
  if signed 16 temp < 16 * ((d.get F.dacOtLim : Nat) - 20 : Int) then d.put F.dacStatusOt 0 else d

/-- Whether the output stage has its supplies: HEADROOM 1 needs VDAC_HI (R283), and VANA and the reference are always needed
(R388). -/
def Dev.hiFine (d : Dev) : Bool := (d.pwr.vdacHi || !d.on F.dacCfgHeadroom) && d.pwr.vana && d.pwr.vref

/-- The outputs clamp at once, and ACT of every channel becomes ×1 (R283). -/
def Dev.clampNow (d : Dev) : Dev :=
  let d := d.each (List.range 8) fun c d =>
    let d := d.dacTake c false
    d.setDac c { d.dac c with r := 0 }
  { d with outp := { d.outp with faultClamp := true, otRamp := false, okBlocks := 0, restart := false } }

/-- HI_OK falls (R283): with HEADROOM 1 the outputs clamp at once. -/
def Dev.hiLoss (d : Dev) : Dev :=
  let had := d.pwr.vdacHi
  let d := { d with pwr := { d.pwr with vdacHi := false } }
  if !had || !d.on F.dacCfgHeadroom then d
  else (d.clampNow.bump F.dacCntOt).fault Cls.overTemp (BitVec.ofNat 32 (d.get F.dacTemp))

/-- The clamp of R283 is released after 1,000 whole blocks, which 1,001 block edges bound. -/
def Dev.otRelease (d : Dev) : Dev :=
  if d.outp.faultClamp && decide (1000 < d.outp.okBlocks) && (d.on F.dacCfgOtAuto || d.outp.restart) then
    { d with outp := { d.outp with faultClamp := false, restart := false } }
  else d

/-- The block edges since over-temperature ended and the supply returned: the first of them opens the first whole block. -/
def Dev.okBlock (d : Dev) : Dev :=
  { d with outp := { d.outp with okBlocks := if !d.on F.dacStatusOt && d.hiFine then d.outp.okBlocks + 1 else 0 } }

/-- DAC_CTRL.OT_RESTART (R283). -/
def Dev.otRestart (d : Dev) : Status × Dev :=
  if d.on F.dacStatusOt then (.estate, d) else (.ok, { d with outp := { d.outp with restart := true } })

/-- The clamp of the first 256 samples after the DAC port's start is released (R276). -/
def Dev.clampRelease (d : Dev) : Dev :=
  if (d.port 0).run && decide (256 ≤ (d.port 0).count) then { d with outp := { d.outp with startClamp := false } } else d

/-! ### AES3 channel status (R284, R285) -/

/-- One bit of the CRCC: x^8 + x^4 + x^3 + x^2 + 1, bytes least significant bit first. -/
def crccBit (c : Byte) : Byte := if c.getLsbD 0 then (c >>> 1) ^^^ 0xB8#8 else c >>> 1

/-- The CRCC over bytes 0 to 22. -/
def crcc (l : List Byte) : Byte := l.foldl (fun c b => Nat.repeat crccBit 8 (c ^^^ b)) 0xFF#8

/-- The default byte `i` of transmitter `x` for a block that opens at sample `k` (Table 8.4). The places of the bits within
bytes 0 to 4 and 22 are those of AES3, which the manual names (PRESUMED, log 7). -/
def Dev.csDefault (d : Dev) (x k i : Nat) : Byte :=
  let b (c : Bool) (v : Nat) : Nat := if c then v else 0
  let day := k - (d.midnight (k * d.period / secondTk) 0).toNat * (if d.rate96 then 96000 else 48000)
  BitVec.ofNat 8 (match i with
    | 0 => 0x05 + b (d.on F.aesCfg && !d.on F.refStatusGood) 0x20 + b (!d.rate96) 0x80
    | 1 => 0x08
    | 2 => 0x2C
    | 4 => b d.rate96 0x10
    | 6 => 0x43
    | 7 => 0x54
    | 8 => 0x41
    | 9 => 0x30 + x
    | 14 | 15 | 16 | 17 => k / 256 ^ (i - 14)
    | 18 | 19 | 20 | 21 => day / 256 ^ (i - 18)
    | 22 => b (!d.on F.refStatusAnchored) 0x80
    | _ => 0)

/-- The 24 bytes of a block. -/
def Dev.csBytes (d : Dev) (x k : Nat) : List Byte :=
  let body := (List.range 23).map fun i =>
    if 2 ≤ i ∧ (d.ap (F.aesTxMask x)).testBit (i - 2) then
      BitVec.ofNat 8 (d.ap (F.aesTxCs x (i / 4)) / 256 ^ (i % 4))
    else d.csDefault x k i
  body ++ [crcc body]

/-- The frame that carries sample `k` on transmitter `x` (port x + 1). -/
def Dev.aesFrame (d : Dev) (x k : Nat) : Dev :=
  let p := d.port (x + 1)
  if k % 192 = 0 then
    let d := if p.frames.isSome && p.frames != some 192 then d.bump F.aesCntShort else d
    let bytes := d.csBytes x k
    let d := d.each (List.range 6) fun w d => d.put (F.aesTxSent x w) (ofBytes ((bytes.drop (4 * w)).take 4))
    d.setPort (x + 1) { p with frames := some 1 }
  else d.setPort (x + 1) { p with frames := p.frames.map (· + 1) }

/-! ### Signatures (R290, R291) -/

/-- Publish the signature of the block under way on port `p`; the comparison keeps 16 blocks of its port (R456). -/
def Dev.sigPublish (d : Dev) (p : Nat) : Dev :=
  let x := d.port p
  let q := if d.rate96 then 96 else 48
  let sig := (x.crc ^^^ 0xFFFFFFFF#32) ^^^ (if d.outp.inject.getLsbD p then 1#32 else 0)
  let part := d.get F.outSigStat
  let clean := part - (if part.testBit p then 2 ^ p else 0)
  let d := ((d.setReg (F.outSigVal p).addr sig).put (F.outSigBlk p) (x.sigBlk % 2 ^ 32)).put F.outSigStat
    (if x.sigN = q then clean else clean + 2 ^ p)
  let d := { d with outp := { d.outp with inject := d.outp.inject &&& ~~~(1#7 <<< p) } }
  if d.get F.fltPeerCfg = p then
    let h := d.flt.peer ++ [(BitVec.ofNat 32 x.sigBlk, sig, decide (x.sigN ≠ q))]
    { d with flt := { d.flt with peer := h.drop (h.length - 16) } }
  else d

/-- Port `p` handles sample `k` with these codes. -/
def Dev.sigSample (d : Dev) (p k : Nat) (codes : List Int) : Dev :=
  let x := d.port p
  let q := if d.rate96 then 96 else 48
  let b := (k - 1) / q
  if !d.apOn F.outSigCtrlEn then d.setPort p { x with sigOpen := false }
  else
    let bytes := codes.flatMap fun c => bytesOf (BitVec.ofInt 32 c).toNat 4
    if x.sigOpen && decide (b = x.sigBlk) then d.setPort p { x with crc := crcBytes x.crc bytes, sigN := x.sigN + 1 }
    else
      let opens := x.sigOpen || decide (k = q * b + 1)
      let d := if x.sigOpen then d.sigPublish p else d
      d.setPort p { d.port p with sigOpen := opens, sigBlk := b, sigN := 1, crc := crcBytes 0xFFFFFFFF#32 bytes }

/-! ### Ports at a sample edge (R48, R270 to R273) -/

/-- A port stops (R271, R294). -/
def Dev.portStop (d : Dev) (p : Nat) : Dev :=
  let d := d.setPort p .zero
  let d := d.put F.outPortRun (d.get F.outPortRun - (if d.bit F.outPortRun p then 2 ^ p else 0))
  if p = 0 then
    ({ d with outp := { d.outp with startClamp := false } }).each (List.range 8) fun c d =>
      let ramp := (d.dac c).fall.isSome && !d.outp.otRamp && !d.outp.faultClamp
      let d := d.dacSettle c
      if ramp then d.setDac c { d.dac c with r := 64 } else d
  else d

/-- OUT_PORT_EN applies: a running port whose bit is 0 is stopping from then on, whatever its bit becomes (R271). -/
def Dev.portHalt (d : Dev) (p : Nat) : Dev :=
  if (d.port p).run && !d.bit F.outPortEn p then d.setPort p { d.port p with stopping := true } else d

/-- The output stage of port `p` for one given sample. -/
def Dev.stage (d : Dev) (p : Nat) (vals : List Int) (k : Nat) : Dev :=
  let x := d.port p
  let m : Nat := if d.portMuted p then x.m - 1 else min 64 (x.m + 1)
  let ws := vals.map fun (v : Int) => (v * (m : Int)).tdiv 64
  let r := if p = 0 then
      ws.zipIdx.foldl (fun (acc : List Int × Dev) w =>
        let y := acc.2.dacCode w.2 w.1
        (acc.1 ++ [y.1], y.2)) ([], d)
    else (ws, d)
  let d := r.2.setPort p { x with m := m, count := x.count + 1, codes := r.1 }
  let d := if 1 ≤ p ∧ p ≤ 4 then d.aesFrame (p - 1) k else d
  d.sigSample p k r.1

/-- A running port at sample edge `n`: stop, or give and take a sample. -/
def Dev.portEdge (d : Dev) (n p : Nat) (vals : List Int) : Dev :=
  let x := d.port p
  if !x.run then d
  else if x.stopping && (decide (p ≠ 0) || decide (x.m = 0)) then d.portStop p
  else
    let zero := List.replicate (portChans p).2 (0 : Int)
    let (give, rest) := match x.fifo with
      | [] => ((zero, n), [])
      | g :: t => (g, t)
    let d := (d.setPort p { x with fifo := rest ++ [(vals, n)] }).stage p give.1 give.2
    if (d.port p).stopping && decide ((d.port p).m = 0) then d.portStop p else d

/-- Sample `n` leaves the buses (R29, R269): every channel is routed, every running port gives and takes a sample. -/
def Dev.outputEdge (d : Dev) (n : Nat) : Dev :=
  let d := d.fmuteEval
  let d := { d with outp := { d.outp with muteLow := d.muteOn } }
  let vs := (List.range 33).map d.route
  let d := d.bumpBy F.outCntClip (vs.filter (·.2)).length
  let d := d.each (List.range 7) fun p d =>
    d.portEdge n p (((vs.drop (portChans p).1).take (portChans p).2).map (·.1))
  let d := if (d.port 0).run then d
    else
      d.each (List.range 8) fun c d => (d.dacFactor c).dacSettle c
  { d with swm := { d.swm with acc := [] } }.otRampEnd

/-- A port whose enable stands at 1 starts at a block edge with FILL zeros (R270). -/
def Dev.portStart (d : Dev) (p : Nat) : Dev :=
  if (d.port p).run || !d.bit F.outPortEn p then d
  else
    let fill := d.get (F.outPortCfg p)
    let next := d.time.smp.toNat + 1
    let zero := List.replicate (portChans p).2 (0 : Int)
    let d := d.setPort p { Port.zero with run := true, fifo := (List.range fill).map fun i => (zero, next + i - fill) }
    let d := d.put F.outPortRun (d.get F.outPortRun + (if d.bit F.outPortRun p then 0 else 2 ^ p))
    if p = 0 then { d with outp := { d.outp with startClamp := true } } else d

/-! ### Register rules (Tables 8.8 to 8.10) -/

/-- EARG and ESTATE of writes to OUT, DAC and AES registers. -/
def Dev.outCheck (d : Dev) (a : Nat) (w : Word) : Status :=
  if 0x3810 ≤ a ∧ a < 0x382C then (if bitsOf w 0 5 = 0 ∨ 16 < bitsOf w 0 5 then .earg else .ok)
  else if 0x3900 ≤ a ∧ a < 0x3984 then (if 16 < bitsOf w 0 5 then .earg else .ok)
  else if a = F.outLtcCfgEn.addr then
    if 4 < bitsOf w 1 3 ∨ (w.getLsbD 4 = true ∧ bitsOf w 1 3 ≠ 3) then .earg else .ok
  else if a = F.outLtcOfs.addr then (if 86400 < (signed 32 w.toNat).natAbs then .earg else .ok)
  else if a = F.dacOtLim.addr then (if bitsOf w 0 8 < 110 ∨ 160 < bitsOf w 0 8 then .earg else .ok)
  else if a = F.dacGain.addr then
    let rising := (w &&& ~~~d.reg a).toNat % 256
    if rising ≠ 0 ∧ ¬ (d.on F.dacCfgHeadroom = true ∧ d.pwr.vdacHi = true) then .estate else .ok
  else .ok

/-- What writes to OUT and DAC registers start after their fields have changed. -/
def Dev.outHook (d : Dev) (a : Nat) (w1 : Word) : Status × Dev :=
  if a = F.dacCtrl.addr ∧ w1.getLsbD 0 = true then d.otRestart
  else if a = F.outPortEn.addr then (.ok, d.each (List.range 7) fun p d => d.portHalt p)
  else if a = F.outSigCtrlEn.addr then
    (.ok, { d with outp := { d.outp with inject := d.outp.inject ||| (w1 >>> 8).truncate 7 } })
  else (.ok, d)

/-- Whether the LOCKED fields of an OUT register are locked (R297). -/
def Dev.outLocked (d : Dev) (a : Nat) : Bool :=
  if 0x3810 ≤ a ∧ a < 0x382C then (d.port ((a - 0x3810) / 4)).run
  else if a = F.outTdmCfgFslen.addr then (d.port 5).run
  else if a = F.outLtcCfgEn.addr then d.apOn F.outLtcCfgEn
  else false

/-- OUT and DAC registers that are views, and OUT_SIG's pair (R291). -/
def Dev.outRead (d : Dev) (p : Path) (a : Nat) : Option (Word × Dev) :=
  let mask (f : Nat → Bool) (n : Nat) : Nat := ((List.range n).map fun i => if f i then 2 ^ i else 0).sum
  if a = F.outMuteStatZero.addr then
    -- both read 0 for a port that does not run (DEDUCED from their reset value, log 26)
    let at' (v i : Nat) : Bool := (d.port i).run && decide ((d.port i).m = v)
    some (BitVec.ofNat 32 (mask (at' 0) 7 + 256 * mask (at' 64) 7), d)
  else if 0x3850 ≤ a ∧ a < 0x3888 then
    let port := (a - 0x3850) / 8
    let key := 8 * p.rank + port
    if a % 8 = 0 then some ((Tab.get (fun _ => none) d.outp.vals key).getD (d.reg a), d)
    else
      let latched := some (d.reg (F.outSigVal port).addr)
      some (d.reg a, { d with outp := { d.outp with vals := Tab.set (fun _ => none) d.outp.vals key latched } })
  else if a = F.dacRangeAct.addr then
    some (BitVec.ofNat 32 (mask (fun c => (d.dac c).act) 8
      + 256 * mask (fun c => (d.dac c).search.isSome || (d.dac c).fall.isSome) 8 + 65536 * d.get F.dacRangeFallback), d)
  else if a = F.dacStatusClamp.addr then
    let b (x : Bool) (k : Nat) : Nat := if x then 2 ^ k else 0
    some (BitVec.ofNat 32 (b d.clamped 0 + b d.pwr.vdacHi 1 + b (d.pwr.vana && d.pwr.vref) 2 + b (d.on F.dacStatusOt) 3
      + b (d.on F.dacStatusOtSeen) 4), d)
  else none

/-- Whether the function of feature bit `f` is in use (R292). -/
def Dev.outInUse (d : Dev) (f : Nat) : Bool :=
  if f = Feat.ltcOut then d.apOn F.outLtcCfgEn || d.bit F.outPortEn 6
  else if f = Feat.tdm then d.bit F.outPortEn 5
  else if f = Feat.outSig then d.apOn F.outSigCtrlEn
  else if f = Feat.aesCsOvr then (List.range 4).any fun x => d.ap (F.aesTxMask x) != 0
  else false

end Sys2Proof.Machine
end

