-- ==== Sys2Proof/Machine/Faults.lean ====
section
/-! DEFINITION. The FLT block's registers (chapter 14): limits of writes, clearing, the comparison with a partner unit, the log
reads and the HEALTH output. The classes themselves are in Flags. -/

namespace Sys2Proof.Machine

/-- Whether any bank shows MEM_REPAIRb.FUSE_ERR. -/
def Dev.anyFuseErr (d : Dev) : Bool := d.sys.fuseErr != 0#13

/-- EARG and ESTATE of writes to FLT registers (R461, Table 14.3). -/
def Dev.fltCheck (d : Dev) (a : Nat) (w : Word) : Status :=
  if a = F.fltClear.addr then
    if (w.getLsbD Cls.overTemp && d.on F.dacStatusOt) || (w.getLsbD Cls.fuse && d.anyFuseErr) then .estate else .ok
  else if 0x6900 ≤ a ∧ a < 0x69A0 then
    if a % 16 = 0 then (if bitsOf w 0 20 = 0 ∨ 600000 < bitsOf w 0 20 then .earg else .ok)
    else if a % 16 = 4 then (if bitsOf w 0 6 = 0 ∨ 32 < bitsOf w 0 6 then .earg else .ok)
    else .ok
  else .ok

/-- A write of FLT_PEER_SIG (R456): MATCH, MISMATCH or UNKNOWN. -/
def Dev.peerCompare (d : Dev) (sig : Word) : Dev :=
  let blk := d.reg F.fltPeerBlk.addr
  match d.flt.peer.reverse.find? (fun e => e.1 = blk) with
  | some (_, own, false) =>
    if own = sig then (d.put F.fltPeerStat 1).bump F.fltPeerCntMatch
    else ((d.put F.fltPeerStat 2).bump F.fltPeerCntMismatch).fault Cls.sigPeer
      (BitVec.ofNat 32 (bitsOf blk 0 29 + 2 ^ 29 * d.get F.fltPeerCfg))
  | _ => (d.put F.fltPeerStat 3).bump F.fltPeerCntUnknown

/-- What writes of FLT registers start after their fields have changed. -/
def Dev.fltHook (d : Dev) (a : Nat) (w1 : Word) : Dev :=
  if a = F.fltClear.addr then
    d.each (List.range 10) fun x d => if w1.getLsbD x then d.classClear x else d
  else if a = F.fltHealthForceLow.addr then d.dropHealth
  else if a = F.fltPeerCfg.addr then { d with flt := { d.flt with peer := [] } }
  else if a = F.fltPeerSig.addr then d.peerCompare (d.reg a)
  else d

/-- The word FLT_LOG_INFO shows of an entry (Table 14.4). -/
def LogEntry.info (e : LogEntry) : Word := BitVec.ofNat 32 (e.cls + 16 * e.kind + 256 * e.wcnt + 2 ^ 31)

/-- A read of FLT_LOG_INFO (R455): the oldest entry leaves, its block and detail are latched for the path. -/
def Dev.logPop (d : Dev) (p : Path) : Word × Dev :=
  let latch (l : List LogEntry) (v : Word × Word) : Dev :=
    { d with flt := { d.flt with log := l, latch := Tab.set (fun _ => (0, 0)) d.flt.latch p.rank v } }
  match d.flt.log with
  | [] => (0, latch [] (0, 0))
  | e :: l => (e.info, latch l (e.blk.truncate 32, e.detail))

/-- The terms of R458 as FLT_HEALTH shows them. -/
def Dev.healthWord (d : Dev) : Word :=
  let b (x : Bool) (k : Nat) : Nat := if x then 2 ^ k else 0
  BitVec.ofNat 32 (b d.healthy 0 + b d.isReady 1 + b (d.on F.swmCtrlRun && d.on F.alcCtrl) 2 + b (d.on F.refStatusGood) 3
    + b d.classOk 4 + b (decide (d.power < 3)) 5 + b (d.on F.fltHealthForceLow) 8)

/-- FLT registers that are views. -/
def Dev.fltRead (d : Dev) (p : Path) (a : Nat) : Option (Word × Dev) :=
  if a = F.fltHealthHealthy.addr then some (d.healthWord, d)
  else if a = F.fltLogStat.addr then some (BitVec.ofNat 32 d.flt.log.length, d)
  else if a = F.fltLogInfoValid.addr then some (d.logPop p)
  else if a = F.fltLogBlk.addr then some ((Tab.get (fun _ => (0, 0)) d.flt.latch p.rank).1, d)
  else if a = F.fltLogDetail.addr then some ((Tab.get (fun _ => (0, 0)) d.flt.latch p.rank).2, d)
  else none

/-- HEALTH rises at a block edge at which its condition holds (R459). -/
def Dev.healthRise (d : Dev) : Dev := { d with flt := { d.flt with healthPin := d.healthy } }

/-- HEALTH falls half a block later (R459). -/
def Dev.healthHalf (d : Dev) : Dev :=
  if d.flt.healthPin then
    { d.reach (blockTk * d.blockIx + 1572864) with flt := { d.flt with healthPin := false } }
  else d

/-- The AON copy of class 0's applied values (R463). -/
def Dev.aonCopy (d : Dev) : Dev :=
  { d with flt := { d.flt with aonWin := d.ap (F.fltWin 0), aonThr := d.ap (F.fltThr 0)
                               aonAct := BitVec.ofNat 3 (d.ap (F.fltActHealth 0) + 2 * d.ap (F.fltActMute 0)
                                                         + 4 * d.ap (F.fltActLatch 0)) } }

/-- Pending bits and held entries enter FLT_EVENT and the log once the CORE domain runs again (R463). -/
def Dev.aonDeliver (d : Dev) : Dev :=
  let d := d.setReg F.fltEventStateSplit.addr (d.reg F.fltEventStateSplit.addr ||| d.flt.aonEvents.zeroExtend 32)
  let d := d.each d.flt.aonLog fun e d => d.logPut e
  let d := d.bumpBy F.fltLogLost d.flt.aonLost
  { d with flt := { d.flt with aonEvents := 0, aonLog := [], aonLost := 0 } }

end Sys2Proof.Machine
end

