-- ==== Sys2Proof/Machine/Timers.lean ====
section
/-! DEFINITION. The Timer/Counter Unit (chapter 9): run control, compares, capture and registers; its counting stands in Count. -/

namespace Sys2Proof.Machine

/-! ### Run control (R303 to R306) -/

/-- The event of the channel's own source in this cycle: an ECLK cycle passes, or in NAP an SXI edge. Sample and block edges, pin events and
a neighbour's wraps bring their own events. -/
def Dev.ownTick (d : Dev) (n : Nat) : Dev :=
  let src := d.get (F.tcuChCfgSrc n)
  if src = 3 then d.sxiEdge
  else if src ≠ 0 then d
  else if d.power = 3 then d.sxiEdge
  else if d.time.counting then d.reach (nextEclk d.now)
  else d

/-- START of a channel. -/
def Dev.startAt (d : Dev) (n : Nat) : Nat := d.get64 (F.tcuChStartLo n) (F.tcuChStartHi n)

/-- STAT.LATE and TCU_CNT_LATE. -/
def Dev.lateChan (d : Dev) (n : Nat) : Dev := (d.put (F.tcuChStatLate n) 1).bump F.tcuCntLate

/-- The channel starts: it counts, and a compare at 0 is reached (R304). -/
def Dev.startChan (d : Dev) (n : Nat) : Dev :=
  let wide := d.cmp64 n
  let zero (f : Nat → Fld) (m : Nat) : Bool :=
    if m = n ∧ wide then false
    else if wide then d.get (f m) = 0 ∧ d.get (f n) = 0
    else d.get (f m) = 0
  (d.members n).foldl (fun d m =>
    (d.setChan m { d.chan m with run := true, armed := false }).fire m false (zero F.tcuChCmpa m) (zero F.tcuChCmpb m)) d

/-- Arming (R303): counts, accumulator and edge count 0, TMRn at IDLE; then the run or the wait for START. -/
def Dev.armChan (d : Dev) (n : Nat) : Dev :=
  let ht := d.on (F.tcuChCfgHtstart n)
  let d := (d.members n).foldl (fun d m =>
    (d.put (F.tcuChCnt m) 0).setChan m
      { d.chan m with acc := 0, edges := 0, level := d.on (F.tcuChCfgIdle m), run := !ht, armed := ht }) d
  if ht && decide (d.startAt n ≤ d.now) && !d.frozen n then (d.startChan n).lateChan n else d

/-- Stopping (R303). -/
def Dev.stopChan (d : Dev) (n : Nat) : Dev :=
  (d.members n).foldl (fun d m =>
    d.setChan m { d.chan m with level := d.on (F.tcuChCfgIdle m), run := false, armed := false }) d

/-- Whether the channel runs or is ARMED: its block runs for R43 (R323). -/
def Dev.chanBusy (d : Dev) (n : Nat) : Bool := (d.chan (d.lowOf n)).run || (d.chan (d.lowOf n)).armed

/-- An ARM that reaches a channel (R306, R311). -/
def Dev.armReq (d : Dev) (n : Nat) : Status × Dev :=
  if d.chained n then (.estate, d)
  else if d.chanBusy n && !d.on (F.tcuChCfgRetrig n) then (.estate, d)
  else (.ok, d.armChan n)

/-- A STOP that reaches a channel (R303, R311). -/
def Dev.stopReq (d : Dev) (n : Nat) : Status × Dev :=
  if d.chained n then (.estate, d) else (.ok, d.stopChan n)

/-- The START of an ARMED channel is reached (R304). -/
def Dev.startDue (d : Dev) (n : Nat) : Dev :=
  if (d.chan n).armed && !d.frozen n && !d.chained n then (d.reach (d.startAt n)).startChan n else d

/-- An ARMED channel whose START has passed starts at once (R304, R317, R322). -/
def Dev.startIfPassed (d : Dev) (n : Nat) : Dev :=
  if (d.chan n).armed && !d.frozen n && !d.chained n && decide (d.startAt n ≤ d.now) then
    (d.startChan n).lateChan n
  else d

/-! ### Compares written (R308, R312) -/

/-- Whether compare A (`b` false) or B of channel `n`, just written, has passed. -/
def Dev.cmpPassed (d : Dev) (n : Nat) (b : Bool) : Bool :=
  let f := if b then F.tcuChCmpb else F.tcuChCmpa
  if d.chained n && d.cmp64 (n - 1) then
    decide (d.get64 (f (n - 1)) (f n) ≤ d.get64 (F.tcuChCnt (n - 1)) (F.tcuChCnt n))
  else decide (d.get (f n) ≤ d.get (F.tcuChCnt n))

/-- A compare has been written: a passed one fires at once; a frozen channel fires no action (R317). -/
def Dev.cmpWritten (d : Dev) (n : Nat) (b : Bool) : Dev :=
  if (d.chan (d.lowOf n)).run && !d.frozen n && d.cmpPassed n b then ((d.fire n false (!b) b).lateChan n) else d

/-! ### Capture (R313 to R315) -/

/-- A capture event on channel `n`. -/
def Dev.capture (d : Dev) (n : Nat) : Dev :=
  let one (d : Dev) (m : Nat) : Dev :=
    let d := if d.on (F.tcuChStatCap m) then d.put (F.tcuChStatCapovr m) 1 else d
    d.put (F.tcuChStatCap m) 1
  (d.members n).foldl one d

/-- TMRn's level has been accepted as `level` (R314, R315). The counter's own step of the cycle comes first, CAP takes the count from before
it, and CAPCLR clears after it (R315, R321). -/
def Dev.pinLevel (d : Dev) (n : Nat) (level : Bool) : Dev :=
  let c := d.chan n
  if d.on (F.tcuChCfgPinout n) || d.frozen n || c.pinIn == level then d.setChan n { c with pinIn := level }
  else
    let e := d.get (F.tcuChIcfgEdge n)
    let event := e == 2 || (e == 0 && level) || (e == 1 && !level)
    if !event then d.setChan n { c with pinIn := level }
    else
      let caps := decide (d.get (F.tcuChIcfgNth n) ≤ c.edges)
      let cnts := (d.members n).map fun m => (m, d.get (F.tcuChCnt m))
      let d := d.setChan n { c with pinIn := level, edges := if caps then 0 else c.edges + 1 }
      let d := if d.get (F.tcuChCfgSrc n) = 4 then d.stepChan n 1
        else if caps && (decide (d.get (F.tcuChCfgSrc n) = 0) || decide (d.power = 3)) then d.ownTick n
        else d
      if !caps then d
      else
        let d := cnts.foldl (fun d m => d.put (F.tcuChCap m.1) m.2) (d.capture n)
        let d := if d.on (F.tcuChCfgCapclr n) then
            (d.put (F.tcuChCnt n) 0).setChan n { d.chan n with acc := 0 }
          else d
        if d.on (F.tcuChCfgCapstart n) && !d.chained n && (!d.chanBusy n || d.on (F.tcuChCfgRetrig n)) then d.armChan n
        else d

/-- TMRn has been seen at `level` on `samples` consecutive samples (R314): fewer than FLEN + 1 are ignored. -/
def Dev.pinSeen (d : Dev) (n : Nat) (level : Bool) (samples : Nat) : Dev :=
  if samples ≤ d.get (F.tcuChIcfgFlen n) then d else d.pinLevel n level

/-! ### Register rules (Tables 9.3 and 9.4) -/

def tcuBase : Nat := 0x4800

/-- Channel and offset of a channel register's address. -/
def tcuChanOf (a : Nat) : Nat := (a - tcuBase) / 0x40
def tcuOff (a : Nat) : Nat := (a - tcuBase) % 0x40

/-- EARG of writes to CFG and ICFG. -/
def Dev.tcuCheck (d : Dev) (a : Nat) (w : Word) : Status :=
  if a < tcuBase ∨ tcuBase + 0x200 ≤ a then .ok
  else
    let n := tcuChanOf a
    if tcuOff a = 0x04 then
      let src := bitsOf w 0 3
      if 6 ≤ src ∨ (src = 5 ∧ (n % 2 = 0 ∨ bitsOf w 4 4 ≠ 0)) ∨ (src = 4 ∧ w.getLsbD 16 = true)
          ∨ (w.getLsbD 18 = true ∧ d.paired n = false) then .earg else .ok
    else if tcuOff a = 0x0C then (if bitsOf w 0 2 = 3 then .earg else .ok)
    else .ok

/-- Whether a write to this register is held until its partner is written (R304, R312). -/
def Dev.tcuHeld (d : Dev) (a : Nat) : Bool :=
  decide (tcuBase ≤ a) && decide (a < tcuBase + 0x200) &&
    (tcuOff a == 0x28 || ((tcuOff a == 0x1C || tcuOff a == 0x20) && d.cmp64 (tcuChanOf a)))

/-- The address of the held register that a write to `a` applies. -/
def Dev.tcuPartner (d : Dev) (a : Nat) : Option Nat :=
  if a < tcuBase ∨ tcuBase + 0x200 ≤ a then none
  else if tcuOff a = 0x2C then some (a - 4)
  else if (tcuOff a = 0x1C ∨ tcuOff a = 0x20) ∧ d.chained (tcuChanOf a) = true ∧ d.cmp64 (tcuChanOf a - 1) = true then
    some (a - 0x40)
  else none

/-- CTRL of channel `n` (R303, R307, R316): STOP over ARM, SNAP of the counts as `d0` has them at the start of the cycle, then the forces. -/
def Dev.tcuCtrl (d d0 : Dev) (n : Nat) (w1 : Word) : Status × Dev :=
  let (st, d) := if w1.getLsbD 1 then d.stopReq n else if w1.getLsbD 0 then d.armReq n else (.ok, d)
  let d := if w1.getLsbD 2 && d.on (F.tcuChCfgWide n) && !d.chained n then
      (d.put (F.tcuChSnapLo n) (d0.get (F.tcuChCnt n))).put (F.tcuChSnapHi n)
        (if d.paired n then d0.get (F.tcuChCnt (n + 1)) else 0)
    else d
  let d := if w1.getLsbD 3 then d.setLevel n (fun _ => true) else d
  let d := if w1.getLsbD 4 then d.setLevel n (fun _ => false) else d
  (st, if w1.getLsbD 5 then d.setLevel n (fun b => !b) else d)

/-- TCU_GCTRL: channels with STOP stop, the others with ARM arm. -/
def Dev.tcuGctrl (d : Dev) (w1 : Word) : Status × Dev :=
  (List.range 8).foldl (fun r n =>
    let q := if w1.getLsbD (8 + n) then r.2.stopReq n else if w1.getLsbD n then r.2.armReq n else (.ok, r.2)
    (Status.worse r.1 q.1, q.2)) (.ok, d)

/-- START_HI has been written (R304, R321): the channel starts if the old START was reached at the start of the cycle, else it compares the
new one. -/
def Dev.startWritten (d d0 : Dev) (n : Nat) : Dev :=
  if (d0.chan n).armed && !d0.frozen n && !d0.chained n && decide (d0.startAt n ≤ d0.now) then d.startChan n else d.startIfPassed n

/-- What writes to TCU registers do after their fields have changed. -/
def Dev.tcuHook (d d0 : Dev) (a : Nat) (w1 : Word) : Status × Dev :=
  if a = F.tcuGctrlArm.addr then d.tcuGctrl w1
  else if a < tcuBase ∨ tcuBase + 0x200 ≤ a then (.ok, d)
  else
    let n := tcuChanOf a
    if tcuOff a = 0x00 then d.tcuCtrl d0 n w1
    else if tcuOff a = 0x1C then (.ok, if d.tcuHeld a then d else d.cmpWritten n false)
    else if tcuOff a = 0x20 then (.ok, if d.tcuHeld a then d else d.cmpWritten n true)
    else if tcuOff a = 0x2C then (.ok, d.startWritten d0 n)
    else (.ok, d)

/-- TCU registers that are views (R316, Table 9.4). -/
def Dev.tcuRead (d : Dev) (p : Path) (a : Nat) : Option (Word × Dev) :=
  let bit (b : Bool) (k : Nat) : Nat := if b then 2 ^ k else 0
  -- a chained high channel runs as the low one does (R311)
  let ctl (n : Nat) : Channel := d.chan (d.lowOf n)
  if a = F.tcuRunRun.addr then
    some (BitVec.ofNat 32 ((List.range 8).map fun n => bit (ctl n).run n + bit (ctl n).armed (8 + n)).sum, d)
  else if a < tcuBase ∨ tcuBase + 0x200 ≤ a then none
  else
    let n := tcuChanOf a
    let c := d.chan n
    if tcuOff a = 0x10 then
      some (BitVec.ofNat 32 ((d.reg a).toNat / 8 * 8 + bit (ctl n).run 0 + bit (ctl n).armed 1 + bit c.level 2), d)
    else if tcuOff a = 0x14 then
      let hi : Word := if d.paired n then d.reg (F.tcuChCnt (n + 1)).addr else 0
      some (d.reg a, if d.on (F.tcuChCfgWide n) then d
        else { d with tcu := { d.tcu with hil := Tab.set (fun _ => 0) d.tcu.hil (8 * p.rank + n) hi } })
    else if tcuOff a = 0x30 then some (Tab.get (fun _ => 0) d.tcu.hil (8 * p.rank + n), d)
    else none

end Sys2Proof.Machine
end

