-- ==== Sys2Proof/Machine/Cue.lean ====
section
/-! DEFINITION. The cue engine (chapter 5) but for the instructions' meanings: threads, run control, signals, the trigger
latch, traps, fetch and the well-formed words, waits, swarm requests and answers, and the CUE registers. -/

namespace Sys2Proof.Machine

/-! ### Threads (R175, R176) -/

def Dev.thread (d : Dev) (n : Nat) : Thread := Tab.get (fun _ => Thread.zero) d.cue.threads n

def Dev.setThread (d : Dev) (n : Nat) (x : Thread) : Dev :=
  { d with cue := { d.cue with threads := Tab.set (fun _ => Thread.zero) d.cue.threads n x } }

/-- Change a thread. -/
def Dev.modThread (d : Dev) (n : Nat) (f : Thread → Thread) : Dev := d.setThread n (f (d.thread n))

/-- A thread is running when it is READY or WAITING. -/
def Thread.running (x : Thread) : Bool := decide (x.state = .ready) || decide (x.state = .waiting)

/-- The code of a state in Table 5.1. -/
def ThState.code : ThState → Nat
  | .stopped => 0 | .ready => 1 | .waiting => 2 | .halted => 3 | .trapped => 4

/-- A general register. -/
def Thread.rg (x : Thread) (r : Nat) : Word := Tab.get (fun _ => 0) x.g r

/-- Write a general register. -/
def Thread.setG (x : Thread) (r : Nat) (w : Word) : Thread := { x with g := Tab.set (fun _ => 0) x.g r w }

/-- A time register. -/
def Thread.rt (x : Thread) (r : Nat) : Word64 := Tab.get (fun _ => 0) x.t r

/-- Write a time register. -/
def Thread.setT (x : Thread) (r : Nat) (w : Word64) : Thread := { x with t := Tab.set (fun _ => 0) x.t r w }

/-- Reasons of CUE_THn_STAT.WAIT. -/
def Wait.at' : Nat := 1
def Wait.after' : Nat := 2
def Wait.trig : Nat := 3
def Wait.sig : Nat := 4
def Wait.yield : Nat := 5
def Wait.interlock : Nat := 6
def Wait.outstanding : Nat := 7
def Wait.memory : Nat := 8

/-- Trap causes (Table 5.9). -/
def Trap.illegal : Nat := 1
def Trap.fetchVirgin : Nat := 2
def Trap.fetchErr : Nat := 3
def Trap.fetchBounds : Nat := 4
def Trap.align : Nat := 5
def Trap.bounds : Nat := 6
def Trap.readErr : Nat := 7
def Trap.refused : Nat := 8
def Trap.stackOvf : Nat := 9
def Trap.stackUnf : Nat := 10
def Trap.swarm : Nat := 11
def Trap.soft : Nat := 12

/-- A thread traps (R192): its cause and code, CUE_CNT_TRAP, attention, and one event of class 8. -/
def Dev.trap (d : Dev) (n cause code : Nat) : Dev :=
  (((d.modThread n fun x => { x with state := .trapped, wait := 0, cause := cause, code := code % 2 ^ 16 }).bump
    F.cueCntTrap).cause Cause.cueTrap).fault Cls.cueTrap (BitVec.ofNat 32 (n * 2 ^ 16 + cause))

/-- At an instruction boundary of a READY thread, a pending ERRTRAP traps (R190). -/
def Dev.boundary (d : Dev) (n : Nat) : Dev :=
  let x := d.thread n
  match x.errTrap with
  | some st => if x.state = .ready then (d.setThread n { x with errTrap := none }).trap n Trap.swarm st.code else d
  | none => d

/-! ### Run control (R177, R178, R203) -/

/-- START of thread `n`, but for EFEATURE. -/
def Dev.threadStart (d : Dev) (n : Nat) : Status × Dev :=
  let x := d.thread n
  if x.running || !d.on F.cueCtrl then (.estate, d)
  else if x.outst.isSome then (.ebusy, d)
  else (.ok, d.setThread n { x with
    state := .ready, wait := 0, pc := 4 * d.get (F.cueThEntry n), fz := false, fn := false, fc := false, fl := false,
    stack := [], sigWord := 0, latch := { x.latch with mask := 0, full := false }, cursor := BitVec.ofNat 64 d.now,
    errTrap := none })

/-- STOP: the thread is STOPPED with every register kept. -/
def Dev.threadStop (d : Dev) (n : Nat) : Dev := d.modThread n fun x => { x with state := .stopped, wait := 0 }

/-- RESUME of thread `n`, but for EFEATURE. -/
def Dev.threadResume (d : Dev) (n : Nat) : Status × Dev :=
  let x := d.thread n
  if x.running || (decide (x.state = .trapped) && decide (x.cause ≠ Trap.soft)) then (.estate, d)
  else (.ok, (d.setThread n { x with state := .ready, wait := 0 }).boundary n)

/-- The bits of CUE_THn_CTRL: STOP over START and RESUME. -/
def Dev.threadCtrl (d : Dev) (n : Nat) (w1 : Word) : Status × Dev :=
  if w1.getLsbD 1 then (.ok, d.threadStop n)
  else if w1.getLsbD 0 then d.threadStart n
  else if w1.getLsbD 2 then d.threadResume n
  else (.ok, d)

/-- Every thread is STOPPED (R178). -/
def Dev.stopAll (d : Dev) : Dev := d.each (List.range 16) fun n d => d.threadStop n

/-- Set bits of a thread's signal word (R193). -/
def Dev.signal (d : Dev) (n : Nat) (bits : BitVec 16) : Dev :=
  d.modThread n fun x => { x with sigWord := x.sigWord ||| bits }

/-! ### The trigger latch (R194) -/

/-- An accepted edge is offered to one thread. -/
def Dev.offerTo (d : Dev) (src ts n : Nat) : Dev :=
  let x := d.thread n
  if !x.running || !x.latch.mask.getLsbD src then d
  else if x.latch.full then d.bump F.cueCntTrigovr
  else d.setThread n { x with latch := { x.latch with full := true, ts := ts, src := src } }

/-- An accepted edge is offered to every running thread. -/
def Dev.offer (d : Dev) (src ts : Nat) : Dev := d.each (List.range 16) fun n d => d.offerTo src ts n

/-! ### Fetch and the well-formed words (R182, R183) -/

def cueBase : Nat := 0x02000000

/-- The word at `pc`, or the trap its fetch takes; no record is made. -/
def Dev.peek (d : Dev) (pc : Nat) : Except Nat Word :=
  if 0x3FFFC < pc then .error Trap.fetchBounds
  else if d.mem.wiping.getLsbD (bankOf (cueBase + pc)) then .error Trap.fetchVirgin
  else
    let v := d.lineView (lineOf (cueBase + pc))
    match v.1 with
    | .virgin => .error Trap.fetchVirgin
    | .bad _ | .poison => .error Trap.fetchErr
    | _ => .ok (BitVec.ofNat 32 (ofBytes ((v.2.drop (pc % 32)).take 4)))

/-- The fetch at `pc`, with what R240 records. -/
def Dev.fetchNote (d : Dev) (pc : Nat) : Dev :=
  if 0x3FFFC < pc then d else (d.readLine Master.cue (lineOf (cueBase + pc))).2

/-- The opcode. -/
def opcodeOf (w : Word) : Nat := bitsOf w 26 6

/-- Whether the word is followed by an extension word. -/
def hasExt (w : Word) : Bool := decide (opcodeOf w = 0x01 ∧ w.getLsbD 21 = true) || decide (opcodeOf w = 0x1C)

/-- A signed second operand of AFTER and TADD: with I at 0 the bits below the register number are zero. -/
def timeTail (w : Word) (i : Nat) : Bool := w.getLsbD i || decide (bitsOf w 0 12 = 0)

/-- Whether a word with its extension word is an instruction (R183 and the encoding tables). -/
def legal (w ext : Word) : Bool :=
  let z (lo n : Nat) : Bool := decide (bitsOf w lo n = 0)
  let i := w.getLsbD 17
  let f := w.getLsbD 16
  let alu (useF : Bool) : Bool := (useF || !f) && (i || z 0 12)
  match opcodeOf w with
  | 0x01 => if w.getLsbD 21 then z 0 21 else z 16 4
  | 0x02 =>
    let sz := bitsOf w 16 2
    (decide (sz ≠ 3) || z 24 2) && (decide (sz < 2) || z 15 1)
  | 0x03 => (decide (bitsOf w 16 2 ≠ 3) || z 24 2) && z 15 1
  | 0x04 | 0x05 | 0x07 | 0x08 | 0x09 => alu false
  | 0x06 => alu true
  | 0x0A => alu false && (!i || z 5 11)
  | 0x0B => alu true && (!i || z 5 11)
  | 0x0C => z 22 4 && alu true && (!f || (!i && z 20 2 && z 14 2))
  | 0x10 | 0x12 | 0x14 | 0x22 | 0x23 | 0x27 => true
  | 0x11 => decide (bitsOf w 22 4 < 12)
  | 0x13 | 0x1F | 0x3D => z 0 26
  | 0x18 => z 0 23
  | 0x19 => z 16 6 && timeTail w 25
  | 0x1A =>
    if w.getLsbD 25 then decide (bitsOf w 17 4 < 8) && z 0 15
    else decide (bitsOf w 19 4 < 11) && z 0 15 && (decide (bitsOf w 19 4 = 5) || z 15 4)
  | 0x1B => z 16 3 && timeTail w 21
  | 0x1C => z 0 19 && decide (bitsOf ext 17 15 = 0) && (w.getLsbD 19 || decide (bitsOf ext 0 17 ≠ 0))
  | 0x1D => z 16 5 && (w.getLsbD 21 || !z 0 16)
  | 0x1E => (w.getLsbD 21 || z 17 4) && z 16 1
  | 0x20 => z 0 7 && (w.getLsbD 8 || w.getLsbD 7 || z 14 4)
  | 0x21 | 0x24 | 0x25 | 0x26 | 0x28 => z 0 7
  | 0x30 => z 0 16
  | 0x31 => z 0 16 && (decide (bitsOf w 20 2 = 3) || z 16 4)
  | 0x32 => z 16 6
  | 0x3E => z 16 10
  | _ => false

/-- A swarm operation. -/
def isSwarm (w : Word) : Bool := decide (0x20 ≤ opcodeOf w ∧ opcodeOf w ≤ 0x28)

/-- The general registers that an instruction reads or writes; a swarm operation's are not asked for, since it waits for
the slot. -/
def gRegs (w : Word) : List Nat :=
  let r (lo : Nat) : Nat := bitsOf w lo 4
  match opcodeOf w with
  | 0x01 => [r 22]
  | 0x02 | 0x03 => if bitsOf w 16 2 = 3 then [r 18] else [r 22, r 18]
  | 0x04 | 0x05 | 0x06 | 0x07 | 0x08 | 0x09 | 0x0A | 0x0B =>
    [r 22, r 18] ++ (if w.getLsbD 17 then [] else [r 12])
  | 0x0C => if w.getLsbD 16 then [] else [r 18] ++ (if w.getLsbD 17 then [] else [r 12])
  | 0x14 => [r 22]
  | 0x19 => if w.getLsbD 25 then [] else [r 12]
  | 0x1B => if w.getLsbD 21 then [] else [r 12]
  | 0x1A => if w.getLsbD 25 then [r 21] else if bitsOf w 19 4 = 5 then [r 15, (r 15 + 1) % 16] else []
  | 0x1C => [r 20]
  | 0x1D => [r 22]
  | 0x1E => if w.getLsbD 21 then [] else [r 22]
  | 0x30 => [r 16]
  | 0x31 => if bitsOf w 20 2 = 3 then [r 16] else []
  | 0x32 => [r 22, (r 22 + 1) % 16]
  | _ => []

/-! ### Operands that the issue needs -/

/-- Bits `[lo + n - 1 : lo]` as a signed number. -/
def sbits (w : Word) (lo n : Nat) : Int := signed n (bitsOf w lo n)

/-- The address of a load or store. -/
def Thread.addr (x : Thread) (w : Word) : Nat := (x.rg (bitsOf w 18 4) + BitVec.ofInt 32 (sbits w 0 15)).toNat

/-- Table 5.3, and L as the test leaves it. -/
def Thread.cond (x : Thread) (code : Nat) : Bool × Thread :=
  match code with
  | 0 => (x.fz, x)
  | 1 => (!x.fz, x)
  | 2 => (x.fn, x)
  | 3 => (!x.fn, x)
  | 4 => (x.fc, x)
  | 5 => (!x.fc, x)
  | 6 => (x.fn || x.fz, x)
  | 7 => (!x.fn && !x.fz, x)
  | 8 => (x.fc || x.fz, x)
  | 9 => (!x.fc && !x.fz, x)
  | 10 => (x.fl, { x with fl := false })
  | _ => (!x.fl, { x with fl := false })

/-! ### Issue (R179, R188, R189) -/

/-- The cycles of its instruction for which thread `n` cannot issue again (R179), as far as other threads' issues have not counted them
off. -/
def Dev.busy (d : Dev) (n : Nat) : Nat := Tab.get (fun _ => 0) d.cue.busy n

/-- Whether the turn is thread `n`'s (R179): in round-robin order from the thread that issued last, no thread that could issue now stands
before it. A thread within its own instruction's cycles is passed over. DESIGN CHOICE (log 24): the model counts an instruction's cycles in
the issues of other threads alone, so that a thread it passes over may have ended them. -/
def Dev.turn (d : Dev) (n : Nat) : Bool :=
  (List.range ((n + 31 - d.cue.last % 16) % 16)).all fun j =>
    let m := (d.cue.last + 1 + j) % 16
    !(decide ((d.thread m).state = .ready) && decide (d.busy m = 0))

/-- Whether thread `n` can issue: READY, the engine enabled and awake, no debug halt (R179, R181, R202), and its turn. -/
def Dev.canIssue (d : Dev) (n : Nat) : Bool :=
  decide ((d.thread n).state = .ready) && d.on F.cueCtrl && d.coreOn && !d.on F.dbgStatusHalted && d.turn n

/-- The cycles of the instruction that thread `n` issues (the instruction reference); a wait's own cycles hold its thread in WAITING. -/
def Dev.cyclesOf (d : Dev) (n : Nat) (w : Word) : Nat :=
  let x := d.thread n
  let a := x.addr w
  let slow := if a % 2 ^ bitsOf w 16 2 = 0 then 0 else 2
  match opcodeOf w with
  | 0x01 => if w.getLsbD 21 then 2 else 1
  | 0x02 => (if spaceOf a = .cue then 3 else if spaceOf a = .flash then 12 else 5) + slow
  | 0x03 => 2 + slow
  | 0x06 | 0x10 | 0x12 | 0x13 | 0x1C | 0x30 | 0x32 => 2
  | 0x11 => if (x.cond (bitsOf w 22 4)).1 then 2 else 1
  | 0x14 => if x.rg (bitsOf w 22 4) = 1 then 1 else 2
  | 0x1A => if w.getLsbD 25 then 1 else if bitsOf w 19 4 = 0 then 2 else if bitsOf w 19 4 ≤ 5 then 1 else 8
  | _ => if isSwarm w then 2 else 1

/-- What thread `n` finds at its PC: the words of an instruction, or a trap with its code. -/
def Dev.found (d : Dev) (n : Nat) : Except (Nat × Nat) (Word × Word) :=
  let pc := (d.thread n).pc
  match d.peek pc with
  | .error c => .error (c, 0)
  | .ok w =>
    if hasExt w then
      match d.peek (pc + 4) with
      | .error c => .error (c, 0)
      | .ok e => if legal w e then .ok (w, e) else .error (Trap.illegal, opcodeOf w)
    else if legal w 0 then .ok (w, 0) else .error (Trap.illegal, opcodeOf w)

/-- The cycle of an issue by thread `n` of an instruction of `c` cycles: every other thread's cycles count off by one. -/
def issueBusy (t : Tab Nat) (n c : Nat) : Tab Nat :=
  Tab.set (fun _ => 0) ((List.range 16).foldl (fun t m => Tab.set (fun _ => 0) t m (Tab.get (fun _ => 0) t m - 1)) t) n (c - 1)

/-- The fetches of the instruction at PC are recorded, and the thread is the last to issue. -/
def Dev.noteIssue (d : Dev) (n : Nat) : Dev :=
  let pc := (d.thread n).pc
  let word := match d.peek pc with
    | .ok w => w
    | .error _ => 0
  let c := d.cyclesOf n word
  let d := d.fetchNote pc
  let d := if hasExt word then d.fetchNote (pc + 4) else d
  { d with cue := { d.cue with last := n, busy := issueBusy d.cue.busy n c } }

/-- The word at PC that a thread traps on has the opcode `op`. -/
def Dev.opcodeAt (d : Dev) (n op : Nat) : Bool :=
  match d.peek (d.thread n).pc with
  | .ok w => opcodeOf w == op
  | .error _ => false

/-- Thread `n` issues the instruction of opcode `op` that stands at its PC. Where another instruction stands there, or the
thread cannot issue, nothing happens. A word of that opcode that R183 does not allow traps. An instruction that needs a
pending register, and a second swarm operation, waits. -/
def Dev.issue (d : Dev) (n op : Nat) (body : Word → Word → Dev → Dev) : Dev :=
  if !d.canIssue n || !d.opcodeAt n op then d
  else
    let x := d.thread n
    match d.found n with
    | .error (c, code) => (d.noteIssue n).trap n c code
    | .ok (w, e) =>
      match x.outst with
      | none => body w e (d.noteIssue n)
      | some o =>
        if isSwarm w then d.setThread n { x with state := .waiting, wait := Wait.outstanding }
        else if o.rd ∈ gRegs w then d.setThread n { x with state := .waiting, wait := Wait.interlock }
        else body w e (d.noteIssue n)

/-- The fetch or the word at the PC of a thread that can issue traps. -/
def Dev.illegalAt (d : Dev) (n : Nat) : Dev :=
  if !d.canIssue n then d
  else match d.found n with
    | .error (c, code) => (d.noteIssue n).trap n c code
    | .ok _ => d

/-- The PC moves on by `k` words. -/
def Thread.next (x : Thread) (k : Nat := 1) : Thread := { x with pc := x.pc + 4 * k }

/-- The PC moves by a signed number of words. -/
def Thread.jump (x : Thread) (k : Int) : Thread := { x with pc := (((x.pc : Int) + 4 * k) % 2 ^ 32).toNat }

/-- The instruction ends: the change to the thread, and the PC moves on. -/
def Dev.finish (d : Dev) (n : Nat) (f : Thread → Thread) : Dev := d.modThread n fun x => (f x).next

/-! ### Timed waits (R185, R186) -/

/-- AT and AFTER once the cursor is set: late, released at once, or waiting for the release instant. -/
def Dev.timedWait (d : Dev) (n reason : Nat) (exact' : Bool) : Dev :=
  let x := d.thread n
  let t := x.cursor.toNat
  let lead := if exact' then 0 else d.get (F.cueThCfgLead n) * 65536
  let late := decide (t < d.now)
  let d := if late then d.bump F.cueCntLate else d
  if t ≤ d.now + lead then d.setThread n { x with fl := late }
  else d.setThread n { x with fl := late, state := .waiting, wait := reason, target := t - lead }

/-- The end of a wait whose instant came or was passed (R180, R186, R201, R202). -/
def Dev.endTimed (d : Dev) (n : Nat) : Dev :=
  let d := d.reach (d.thread n).target
  let x := d.thread n
  let late := decide (x.cursor.toNat < d.now)
  let d := if late then d.bump F.cueCntLate else d
  d.setThread n { x with state := .ready, wait := 0, fl := late || x.fl }

/-- WAITTRIG ends (pseudocode of WAITTRIG), if its condition holds or is reached at the cursor. -/
def Dev.endTrig (d : Dev) (n : Nat) : Dev :=
  let x := d.thread n
  let td := bitsOf x.winst 24 2
  let rd := bitsOf x.winst 20 4
  if x.latch.full then
    d.setThread n { (x.setT td (BitVec.ofNat 64 x.latch.ts)).setG rd (BitVec.ofNat 32 x.latch.src) with
      latch := { x.latch with full := false }, trigTs := BitVec.ofNat 64 x.latch.ts, fz := false, state := .ready, wait := 0 }
  else if x.winst.getLsbD 19 then
    (d.reach x.cursor.toNat).setThread n { x.setG rd 0xFFFFFFFF with fz := true, state := .ready, wait := 0 }
  else d

/-- WAITSIG ends (pseudocode of WAITSIG), if its condition holds or is reached at the cursor. -/
def Dev.endSig (d : Dev) (n : Nat) : Dev :=
  let x := d.thread n
  let rd := bitsOf x.winst 22 4
  let got := x.sigWord &&& (x.winst.truncate 16)
  let fin (d : Dev) : Dev := d.setThread n { x.setG rd (got.zeroExtend 32) with
    sigWord := x.sigWord &&& ~~~got, fz := got == 0, state := .ready, wait := 0 }
  if got ≠ 0 then fin d
  else if x.winst.getLsbD 21 then fin (d.reach x.cursor.toNat)
  else d

/-- A thread's wait ends (R180): in RUN and IDLE, out of debug halt, and if what it waits for has come or comes at an instant. -/
def Dev.waitRelease (d : Dev) (n : Nat) : Dev :=
  let x := d.thread n
  if x.state ≠ .waiting || !d.coreOn || d.on F.dbgStatusHalted then d
  else
    let ready : Dev := d.setThread n { x with state := .ready, wait := 0 }
    (if x.wait = Wait.at' ∨ x.wait = Wait.after' then d.endTimed n
     else if x.wait = Wait.trig then d.endTrig n
     else if x.wait = Wait.sig then d.endSig n
     else if x.wait = Wait.yield then (d.reach x.target).setThread n { x with state := .ready, wait := 0 }
     else if x.wait = Wait.memory then d.flashTouch.setThread n { x with state := .ready, wait := 0 }
     else if x.outst.isNone then ready
     else d).boundary n

/-! ### Swarm operations (R187 to R190, R197, R198) -/

/-- A unit code's length in ticks (R187). -/
def Dev.unit (d : Dev) (u : Nat) : Nat :=
  match u with
  | 0 => 1
  | 1 => d.period
  | 2 => blockTk
  | _ => secondTk

/-- The operation of a swarm instruction (Table 5.7). -/
def Dev.swOp (d : Dev) (x : Thread) (w : Word) : SwOp :=
  let rb := bitsOf w 14 4
  let b := x.rg rb
  let c := x.rg (bitsOf w 10 4)
  match opcodeOf w with
  | 0x20 => .von (!w.getLsbD 8) (if w.getLsbD 7 then some b.toNat else none) (c.toNat % 2 ^ 16)
  | 0x21 => .voff
  | 0x22 => .vset (bitsOf w 0 7) b
  | 0x23 =>
    let f := bitsOf w 2 5
    let v1 := if 11 ≤ f ∧ f ≤ 14 then (x.rg ((rb + 1) % 16)).toNat % 2 ^ 16 * 2 ^ 32 + b.toNat else b.toNat
    .vramp f v1 (c.toNat * d.unit (bitsOf w 0 2))
  | 0x24 => .vkill
  | 0x25 => .valloc
  | 0x26 => .vfree
  | 0x27 => .modset (bitsOf w 0 4) b
  | _ => .busset b c

/-- The request that a swarm instruction makes. -/
def Dev.swReq (d : Dev) (x : Thread) (w : Word) : SwReq :=
  ⟨d.swOp x w, (x.rg (bitsOf w 18 4)).toNat, w.getLsbD 9, x.cursor.toNat⟩

/-- Issue of a swarm operation: the slot is taken, rd is pending, and the request goes to the ledger; without SWARM the
answer is EFEATURE (R198). -/
def Dev.swarmIssue (d : Dev) (n : Nat) (w : Word) : Dev :=
  let x := d.thread n
  let r := d.swReq x w
  let ans : Option LedgerAns :=
    if d.feature Feat.swarm then none else some ⟨.efeature, r.named, false, false, (d.effDue r).1⟩
  d.finish n fun x => { x with outst := some ⟨bitsOf w 22 4, r, ans⟩ }

/-- The status word of Table 5.4. -/
def LedgerAns.word (a : LedgerAns) : Word :=
  BitVec.ofNat 32 (a.status.code + a.voice % 128 * 256 + (if a.molt then 2 ^ 16 else 0) + (if a.hard then 2 ^ 17 else 0)
    + (if a.status = .late then 2 ^ 30 else 0) + (if a.status.isError then 2 ^ 31 else 0))

/-- The answer reaches the thread (R189, R190). -/
def Dev.answerThread (d : Dev) (n : Nat) : Dev :=
  let x := d.thread n
  match x.outst with
  | some ⟨rd, _, some a⟩ =>
    let x' := { x.setG rd a.word with
      outst := none, etime := BitVec.ofNat 64 a.etime, lastSt := a.status.code, fl := x.fl || decide (a.status = .late),
      errTrap := if a.status.isError && d.on (F.cueThCfgErrtrap n) then some a.status else x.errTrap }
    let held := decide (x.state = .waiting) && decide (6 ≤ x.wait)
    (d.setThread n (if held && x'.errTrap.isSome then { x' with state := .ready, wait := 0 } else x')).boundary n
  | _ => d

/-! ### Registers (Table 5.11, R200) -/

/-- The thread register that CUE_RSEL selects. -/
def Thread.sel (x : Thread) (reg : Nat) : Word :=
  let half (t : Word64) (hi : Bool) : Word := if hi then (t >>> 32).truncate 32 else t.truncate 32
  if reg < 16 then x.rg reg
  else if reg < 24 then half (x.rt ((reg - 16) / 2)) (reg % 2 == 1)
  else if reg < 26 then half x.cursor (reg == 25)
  else 0

/-- Write the selected register. -/
def Thread.setSel (x : Thread) (reg : Nat) (w : Word) : Thread :=
  let half (t : Word64) (hi : Bool) : Word64 :=
    if hi then (t &&& 0xFFFFFFFF) ||| (w.zeroExtend 64 <<< 32) else (t >>> 32 <<< 32) ||| w.zeroExtend 64
  if reg < 16 then x.setG reg w
  else if reg < 24 then x.setT ((reg - 16) / 2) (half (x.rt ((reg - 16) / 2)) (reg % 2 == 1))
  else if reg < 26 then { x with cursor := half x.cursor (reg == 25) }
  else x

/-- The value of CUE_RDATA. -/
def Dev.rdata (d : Dev) : Word := (d.thread (d.get F.cueRselThread)).sel (d.get F.cueRselReg)

/-- Whether CUE_RDATA names a register of a running thread, which counts as LOCKED (R200). -/
def Dev.rdataLocked (d : Dev) : Bool := (d.thread (d.get F.cueRselThread)).running

/-- Whether CUE_RDATA names a pending register. -/
def Dev.rdataPending (d : Dev) : Bool :=
  match (d.thread (d.get F.cueRselThread)).outst with
  | some o => o.rd == d.get F.cueRselReg
  | none => false

/-- Thread and offset of a CUE_THn register. -/
def cueThOf (a : Nat) : Nat := (a - 0x2900) / 0x20
def cueThOff (a : Nat) : Nat := (a - 0x2900) % 0x20
def isCueTh (a : Nat) : Bool := decide (0x2900 ≤ a ∧ a < 0x2B00)

/-- EARG and EBUSY of writes to CUE registers. -/
def Dev.cueCheck (d : Dev) (a : Nat) (w : Word) : Status :=
  if a = F.cueRselThread.addr then (if 26 ≤ bitsOf w 4 5 then .earg else .ok)
  else if a = F.cueRdata.addr then
    if d.rdataPending && !(d.rdataLocked && w != d.rdata) then .ebusy else .ok
  else .ok

/-- Whether the LOCKED fields of a CUE register are locked (R176, R205). -/
def Dev.cueLocked (d : Dev) (a : Nat) : Bool :=
  if isCueTh a then (d.thread (cueThOf a)).running
  else if a = F.cueRdata.addr then d.rdataLocked
  else d.on F.cueCtrl

/-- What writes to CUE registers do after their fields have changed; `sel` is CUE_RSEL as it stood at the start of the cycle, which names
the register of CUE_RDATA (R39, R200). -/
def Dev.cueHook (d : Dev) (sel : Word) (a : Nat) (w1 : Word) : Status × Dev :=
  if a = F.cueCtrl.addr then (.ok, if d.on F.cueCtrl then d else d.stopAll)
  else if a = F.cueRdata.addr then
    let w := d.reg a
    (.ok, (d.setReg a 0).modThread (bitsOf sel 0 4) fun x => x.setSel (bitsOf sel 4 5) w)
  else if isCueTh a then
    if cueThOff a = 0x00 then d.threadCtrl (cueThOf a) w1
    else if cueThOff a = 0x18 then (.ok, d.signal (cueThOf a) (w1.truncate 16))
    else (.ok, d)
  else (.ok, d)

/-- CUE registers that are views. -/
def Dev.cueRead (d : Dev) (a : Nat) : Option Word :=
  let mask (f : Thread → Bool) : Nat := ((List.range 16).map fun n => if f (d.thread n) then 2 ^ n else 0).sum
  let b (x : Bool) (k : Nat) : Nat := if x then 2 ^ k else 0
  let n := BitVec.ofNat 32
  if a = F.cueStatusActive.addr then
    some (n (mask Thread.running + 65536 * mask fun x => decide (x.state = .trapped)))
  else if a = F.cueHalted.addr then some (n (mask fun x => decide (x.state = .halted)))
  else if a = F.cueRdata.addr then some d.rdata
  else if isCueTh a then
    let x := d.thread (cueThOf a)
    match cueThOff a with
    | 0x0C => some (n (x.state.code + b x.outst.isSome 3 + b x.fz 4 + b x.fn 5 + b x.fc 6 + b x.fl 7 + 256 * x.wait
        + 65536 * x.stack.length + 2 ^ 24 * x.lastSt))
    | 0x10 => some (n (x.pc % 2 ^ 18))
    | 0x14 => some (n (x.cause + 65536 * x.code))
    | 0x18 => some (x.sigWord.zeroExtend 32)
    | 0x1C => some (n (x.latch.mask.toNat + b x.latch.full 17))
    | _ => none
  else none

end Sys2Proof.Machine
end

