-- ==== Sys2Proof/Machine/Isa.lean ====
section
/-! DEFINITION. What the cue instructions do (chapter 5, instruction reference), but for the requests that ST, TCUSET and GPO
make to other units. -/

namespace Sys2Proof.Machine

/-! ### ALU (Table 5.5) -/

/-- The second operand. -/
def Thread.opB (x : Thread) (w : Word) : Word :=
  if w.getLsbD 17 then BitVec.ofInt 32 (sbits w 0 16) else x.rg (bitsOf w 12 4)

/-- The first operand. -/
def Thread.opA (x : Thread) (w : Word) : Word := x.rg (bitsOf w 18 4)

/-- An ALU result goes to rd, with Z and N, and C where the operation writes it. -/
def Thread.alu (x : Thread) (w : Word) (r : Word) (n : Bool) (c : Option Bool) : Thread :=
  { x.setG (bitsOf w 22 4) r with fz := r == 0, fn := n, fc := c.getD x.fc }

def Thread.add (x : Thread) (w : Word) : Thread :=
  let a := x.opA w
  let b := x.opB w
  x.alu w (a + b) (a + b).msb (some (decide (2 ^ 32 ≤ a.toNat + b.toNat)))

def Thread.sub (x : Thread) (w : Word) : Thread :=
  let a := x.opA w
  let b := x.opB w
  x.alu w (a - b) (decide (a.toInt < b.toInt)) (some (decide (a.toNat < b.toNat)))

/-- The signed product's low or high word. -/
def Thread.mul (x : Thread) (w : Word) : Thread :=
  let p := BitVec.ofInt 64 ((x.opA w).toInt * (x.opB w).toInt)
  let r : Word := if w.getLsbD 16 then (p >>> 32).truncate 32 else p.truncate 32
  x.alu w r r.msb none

/-- AND, OR and XOR. -/
def Thread.logic (x : Thread) (w : Word) (f : Word → Word → Word) : Thread :=
  let r := f (x.opA w) (x.opB w)
  x.alu w r r.msb none

def Thread.shl (x : Thread) (w : Word) : Thread :=
  let a := x.opA w
  let s := (x.opB w).toNat % 32
  let r := a <<< s
  x.alu w r r.msb (some (decide (s ≠ 0) && a.getLsbD (32 - s)))

def Thread.shr (x : Thread) (w : Word) : Thread :=
  let a := x.opA w
  let s := (x.opB w).toNat % 32
  let r := if w.getLsbD 16 then a.sshiftRight s else a >>> s
  x.alu w r r.msb (some (decide (s ≠ 0) && a.getLsbD (s - 1)))

/-- The flags of a comparison. -/
def Thread.flags {n : Nat} (x : Thread) (a b : BitVec n) : Thread :=
  { x with fz := a == b, fn := decide (a.toInt < b.toInt), fc := decide (a.toNat < b.toNat) }

def Thread.cmp (x : Thread) (w : Word) : Thread :=
  if w.getLsbD 16 then x.flags (x.rt (bitsOf w 18 2)) (x.rt (bitsOf w 12 2)) else x.flags (x.opA w) (x.opB w)

/-- LDI. -/
def Thread.ldi (x : Thread) (w ext : Word) : Thread :=
  let v : Word := if w.getLsbD 21 then ext
    else if w.getLsbD 20 then BitVec.ofInt 32 (sbits w 0 16) else BitVec.ofNat 32 (bitsOf w 0 16)
  (x.setG (bitsOf w 22 4) v).next (if w.getLsbD 21 then 2 else 1)

/-! ### Control -/

def Thread.brc (x : Thread) (w : Word) : Thread :=
  let r := x.cond (bitsOf w 22 4)
  if r.1 then r.2.jump (sbits w 0 22) else r.2.next

def Thread.loop (x : Thread) (w : Word) : Thread :=
  let rc := bitsOf w 22 4
  let v := x.rg rc - 1
  let x := x.setG rc v
  if v ≠ 0 then x.jump (sbits w 0 22) else x.next

/-- CALL: the return address goes on the stack, the latest first. -/
def Dev.call (d : Dev) (n : Nat) (w : Word) : Dev :=
  let x := d.thread n
  if 8 ≤ x.stack.length then d.trap n Trap.stackOvf 0
  else d.setThread n { x.jump (sbits w 0 26) with stack := (x.pc + 4) :: x.stack }

def Dev.ret (d : Dev) (n : Nat) : Dev :=
  let x := d.thread n
  match x.stack with
  | [] => d.trap n Trap.stackUnf 0
  | a :: t => d.setThread n { x with pc := a, stack := t }

/-- YIELD waits until the next sample edge (R180). -/
def Dev.yield (d : Dev) (n : Nat) : Dev :=
  d.finish n fun x => { x with
    state := .waiting, wait := Wait.yield, target := (d.now / d.period + 1) * d.period }

/-- HALT, with attention where HALTATTN asks for it. -/
def Dev.halt (d : Dev) (n : Nat) : Dev :=
  let d := d.finish n fun x => { x with state := .halted, wait := 0 }
  if d.on (F.cueThCfgHaltattn n) then d.cause Cause.cueHalt else d

/-! ### Time (R185 to R187, Table 5.6) -/

/-- v × unit of AFTER and TADD. -/
def Dev.delta (d : Dev) (x : Thread) (w : Word) (i u : Nat) : Word64 :=
  let v : Int := if w.getLsbD i then sbits w 0 16 else (x.rg (bitsOf w 12 4)).toInt
  BitVec.ofInt 64 (v * (d.unit (bitsOf w u 2) : Nat))

def Dev.at' (d : Dev) (n : Nat) (w : Word) : Dev :=
  (d.finish n fun x => { x with cursor := x.rt (bitsOf w 24 2) }).timedWait n Wait.at' (w.getLsbD 23)

def Dev.after' (d : Dev) (n : Nat) (w : Word) : Dev :=
  (d.finish n fun x => { x with cursor := x.cursor + d.delta x w 25 23 }).timedWait n Wait.after' (w.getLsbD 22)

def Dev.tadd (d : Dev) (n : Nat) (w : Word) : Dev :=
  d.finish n fun x => x.setT (bitsOf w 24 2) (x.rt (bitsOf w 22 2) + d.delta x w 21 19)

/-- The first TAI second from `s` on whose UTC label is a multiple of `m` seconds (R74), with the leap second that is set. -/
def Dev.nextLabel (d : Dev) (s m : Nat) : Nat :=
  let go (from' : Nat) (ofs : Int) : Nat := from' + ((ofs - from') % m).toNat
  let dir := d.get F.htLeapCtrlDir
  let leap := d.get64 F.htLeapLo F.htLeapHi
  let a := go s d.utcOfs
  if dir = 1 then
    if a + 1 < leap then a else go (max s leap) (if leap ≤ d.now / secondTk then d.utcOfs else d.utcOfs + 1)
  else if dir = 2 then (if a < leap then a else go (max s leap) (d.utcOfs - 1))
  else a

/-- TGET with D at 0: the device after any snapshot, and the 64-bit value. -/
def Dev.timeSource (d : Dev) (p : Path) (x : Thread) (src rs : Nat) : Word64 × Dev :=
  let s := d.takeSnap p
  let sec := d.now / secondTk + 1
  match src with
  | 0 => ((s.snap p).now, s)
  | 1 => ((d.snap p).now, d)
  | 2 => (x.cursor, d)
  | 3 => (x.trigTs, d)
  | 4 => (x.etime, d)
  | 5 => (((x.rg ((rs + 1) % 16)).zeroExtend 64 <<< 32) ||| (x.rg rs).zeroExtend 64, d)
  | 6 => (BitVec.ofNat 64 ((d.now / blockTk + 1) * blockTk), s)
  | 7 => (BitVec.ofNat 64 (sec * secondTk), s)
  | 8 => (BitVec.ofNat 64 (d.std.firstTick (d.std.frameOf d.now + 1)), s)
  | 9 => (BitVec.ofNat 64 (d.nextLabel sec 60 * secondTk), s)
  | _ => (BitVec.ofNat 64 (d.nextLabel sec 3600 * secondTk), s)

/-- TGET with D at 1. -/
def Dev.wordSource (d : Dev) (p : Path) (x : Thread) (src ta : Nat) : Word :=
  let s := d.snap p
  match src with
  | 0 => (x.rt ta).truncate 32
  | 1 => (x.rt ta >>> 32).truncate 32
  | 2 => s.frm.truncate 32
  | 3 => s.line
  | 4 => s.sub
  | 5 => s.seq
  | 6 => BitVec.ofInt 32 d.utcOfs
  | _ => s.smp.truncate 32

def Dev.tget (d : Dev) (th : Fin 16) (w : Word) : Dev :=
  let x := d.thread th
  if w.getLsbD 25 then
    d.finish th fun y => y.setG (bitsOf w 21 4) (d.wordSource (.cue th) x (bitsOf w 17 4) (bitsOf w 15 2))
  else
    let r := d.timeSource (.cue th) x (bitsOf w 19 4) (bitsOf w 15 4)
    r.2.finish th fun y => y.setT (bitsOf w 23 2) r.1

/-! ### LD (R195, R196) -/

/-- Whether a cue access of `n` bytes at `a` lies in a window. -/
def inWindow (a n : Nat) : Bool :=
  decide (spaceOf a = spaceOf (a + n - 1)) && decide (spaceOf a ∈ [Space.par, .wave, .cue, .flash])

/-- Cut a span into parts that lie within one word each. -/
def wordParts : Nat → Nat → Nat → List (Nat × Nat)
  | 0, _, _ => []
  | fuel + 1, a, n => if n = 0 then [] else
      let k := min n (4 - a % 4)
      (a, k) :: wordParts fuel (a + k) (n - k)

/-- A flash window read, word by word: the bytes, and whether an address was refused. -/
def Dev.flashSpan (d : Dev) (a n : Nat) : List Byte × Bool × Dev :=
  (wordParts n a n).foldl (fun (acc : List Byte × Bool × Dev) q =>
    let r := acc.2.2.flashRead q.1 q.2
    (acc.1 ++ r.1, acc.2.1 || r.2.1, r.2.2)) ([], false, d)

/-- The loaded bytes go to a general register, sign-extended where S asks for it, or to a time register. -/
def Thread.loaded (x : Thread) (w : Word) (data : List Byte) : Thread :=
  let sz := bitsOf w 16 2
  let v := ofBytes data
  if sz = 3 then x.setT (bitsOf w 22 2) (BitVec.ofNat 64 v)
  else x.setG (bitsOf w 22 4)
    (if w.getLsbD 15 then BitVec.ofInt 32 (signed (8 * 2 ^ sz) v) else BitVec.ofNat 32 v)

def Dev.load (d : Dev) (n : Nat) (w : Word) : Dev :=
  let x := d.thread n
  let a := x.addr w
  let k := 2 ^ bitsOf w 16 2
  if !inWindow a k || (decide (spaceOf a = .flash) && !(d.flashAdmits a && d.flashAdmits (a + k - 1))) then
    d.trap n Trap.bounds 0
  else if a % k ≠ 0 ∧ d.feature Feat.memRotate = false then d.trap n Trap.align 0
  else if spaceOf a = .flash ∧ d.flashWaits = true then
    d.modThread n fun x => { x with state := .waiting, wait := Wait.memory }
  else if spaceOf a = .flash then
    let r := d.flashSpan a k
    r.2.2.finish n fun x => x.loaded w r.1
  else
    let r := d.readMem Master.cue a k
    if r.1.any LineState.isErr then r.2.2.trap n Trap.readErr 0
    else r.2.2.finish n fun x => x.loaded w r.2.1

/-! ### Outcomes of ST, SIG, TCUSET, GPO and HOSTMSG (R191) -/

/-- OK clears C; ECONFLICT, ESTATE and EQFULL are soft; any other status traps with REFUSED. -/
def Dev.outcome (d : Dev) (n : Nat) (st : Status) : Dev :=
  match st with
  | .ok | .late => d.finish n fun x => { x with fc := false }
  | .econflict | .estate | .eqfull =>
    (d.finish n fun x => { x with fc := true, lastSt := st.code }).bump F.cueCntSoftref
  | _ => d.trap n Trap.refused st.code

/-! ### Signals, waits, messages -/

def Dev.waitTrig (d : Dev) (n : Nat) (w ext : Word) : Dev :=
  let mask : BitVec 17 := ext.truncate 17
  let x := d.thread n
  let x := if x.latch.mask = mask then x else { x with latch := { x.latch with mask := mask, full := false } }
  let d := d.setThread n { x.next 2 with winst := w, wmask := ext, state := .waiting, wait := Wait.trig }
  let timeout := w.getLsbD 19 && decide (x.cursor.toNat ≤ d.now)
  if x.latch.full || timeout then d.endTrig n else d

def Dev.waitSig (d : Dev) (n : Nat) (w : Word) : Dev :=
  let d := d.finish n fun x => { x with winst := w, state := .waiting, wait := Wait.sig }
  let x := d.thread n
  let timeout := w.getLsbD 21 && decide (x.cursor.toNat ≤ d.now)
  if x.sigWord &&& (w.truncate 16) ≠ 0 || timeout then d.endSig n else d

def Dev.sigOp (d : Dev) (n : Nat) (w : Word) : Dev :=
  let k := if w.getLsbD 21 then bitsOf w 17 4 else ((d.thread n).rg (bitsOf w 22 4)).toNat
  if 15 < k then d.trap n Trap.refused Status.earg.code
  else (d.signal k (w.truncate 16)).outcome n .ok

/-- Records that take a shared entry (R51, R222). -/
def Dev.shared (d : Dev) : Nat := (d.hcp.rsp.filter fun r => r.kind != 1).length

/-- HOSTMSG (R51, R191): a message joins the response queue, or is refused. DESIGN CHOICE (log 24): a thread that runs before the first
NEGOTIATE executes HOSTMSG, SIG and WAITTRIG, since the instruction reference names no feature for them. -/
def Dev.hostMsg (d : Dev) (n : Nat) (w : Word) : Dev :=
  let x := d.thread n
  let ra := bitsOf w 22 4
  if 16 ≤ d.shared then ((d.bump F.hcpCntMsgdrop).cause Cause.msgDrop).outcome n .eqfull
  else
    let r : Record := ⟨2, n, 0, 0, BitVec.ofNat 32 (bitsOf w 0 16),
      (x.rg ((ra + 1) % 16)).zeroExtend 64 <<< 32 ||| (x.rg ra).zeroExtend 64⟩
    { d with hcp := { d.hcp with rsp := d.hcp.rsp ++ [r] } }.outcome n .ok

end Sys2Proof.Machine
end

