-- ==== Sys2Proof/Machine/Host.lean ====
section
/-! DEFINITION. The host command port (chapter 6) but for the register and memory accesses its transactions make: QRDY, tags,
responses, posted failures, command packets and their checks, negotiation, FLUSH, and the HCP registers. -/

namespace Sys2Proof.Machine

/-! ### QRDY (R210, R406) -/

/-- Bytes an item holds in the input buffer: those after its instruction byte. -/
def HostItem.size : HostItem → Nat
  | .wr _ data _ => 4 + data.length
  | .cmd c => 12 + c.args.length
  | .flush => 0

/-- QRDY while QCS_N is high. -/
def Dev.qrdy (d : Dev) : Bool :=
  d.coreOn && d.isReady && decide ((d.hcp.stream.map HostItem.size).sum + 272 ≤ 1024)

/-- The pattern of every word read while QRDY is low (R211). -/
def deadWord : Word := 0xDEAD0000

/-- Whether an instruction byte is that of the operation `op` (R207). -/
def insOk (op : Nat) (ins : Byte) : Bool :=
  decide (ins.toNat / 16 = op) && decide (ins.toNat / 4 % 4 ≠ 3) && decide (ins.toNat % 4 = 0)

/-! ### Tags, responses, notices (R218, R222 to R224) -/

def tagBit (t : Nat) : BitVec 16 := 1#16 <<< t

def Dev.tagHeld (d : Dev) (t : Nat) : Bool := d.hcp.held.getLsbD t

def Dev.setHcp (d : Dev) (f : HcpS → HcpS) : Dev := { d with hcp := f d.hcp }

def Dev.freeTag (d : Dev) (t : Nat) : Dev :=
  d.setHcp fun h => { h with held := h.held &&& ~~~tagBit t, exec := h.exec &&& ~~~tagBit t }

/-- A posted failure (R224): a WR word at `addr`, or the posted command `opc` of tag `tag`. -/
def Dev.postFail (d : Dev) (st : Status) (addr : Option Nat) (opc tag : Nat) : Dev :=
  let cmd := addr.isNone
  let d := match addr with
    | some a => d.put F.hcpPerrAddr a
    | none => d
  let d := ((((d.put F.hcpPerrInfoStatus st.code).put F.hcpPerrInfoOpc (if cmd then opc else 0)).put F.hcpPerrInfoTag
    (if cmd then tag else 0)).put F.hcpPerrInfoCmd (if cmd then 1 else 0)).put F.hcpPerrInfoValid 1
  let d := (d.bump F.hcpCntPosterr).cause Cause.postErr
  if 16 ≤ d.shared then d
  else d.setHcp fun h => { h with rsp := h.rsp ++
    [⟨3, 0xFF, st.code, if cmd then 4 else 0, BitVec.ofNat 32 (addr.getD (opc + 256 * tag)), d.time.ht⟩] }

/-- A command completes: its response is written, or, if it is posted, its tag is freed and a failure reported. A command whose
tag a FLUSH freed leaves no trace. -/
def Dev.complete (d : Dev) (opc tag : Nat) (posted : Bool) (st : Status) (flags : Nat) (val0 : Word) (val1 : Word64) :
    Dev :=
  if !d.tagHeld tag then d
  else if posted then
    let d := d.freeTag tag
    if st.isError then d.postFail st none opc tag else d
  else d.setHcp fun h => { h with
    exec := h.exec &&& ~~~tagBit tag, rsp := h.rsp ++ [⟨1, tag, st.code, flags, val0, val1⟩] }

/-- The front command of the stream completes and leaves it. -/
def Dev.done (d : Dev) (c : HostCmd) (st : Status) (val0 : Word := 0) (val1 : Word64 := 0) (flags : Nat := 0) : Dev :=
  (d.setHcp fun h => { h with stream := h.stream.drop 1 }).complete c.opc c.tag c.post st flags val0 val1

/-- FLUSH as the stream reaches it (R233). -/
def Dev.flushNow (d : Dev) : Dev :=
  let isCmd : HostItem → Bool
    | .cmd _ => true
    | _ => false
  let d := d.setHcp fun h => { h with
    stream := h.stream.filter (fun i => !isCmd i), rsp := [], held := 0, exec := 0, ledgerReq := none }
  let drop (s : Stamp) : Stamp := if s.src = 16 then { s with tag := 16 } else s
  { d with
    time := { d.time with strikeFifo := d.time.strikeFifo.map drop }
    alc := { d.alc with strikes := d.alc.strikes.map fun s => if s.src = 16 then { s with tag := 16 } else s } }

/-- Whether a TRIGGER still waits for its outcome (R221). -/
def Dev.trigOpen (d : Dev) : Bool :=
  (d.time.strikeFifo.any fun s => s.src == 16 && decide (s.tag < 16)) ||
    (d.alc.strikes.any fun s => s.src == 16 && decide (s.tag < 16))

/-- The outcome of a strike reaches the host, where it was a TRIGGER's (R234). -/
def Dev.trigOutcome (d : Dev) (src tag : Nat) (posted : Bool) (st : Status) (onset : Word64) : Dev :=
  if src = 16 ∧ tag < 16 then d.complete 0x30 tag posted st 0 0 onset else d

/-! ### Command packets (R216 to R219) -/

/-- LEN of a known OPC (Table 6.5). -/
def cmdLen (opc : Nat) : Option Nat :=
  match opc with
  | 0x00 | 0x01 | 0x04 | 0x30 => some 0
  | 0x02 | 0x10 | 0x12 | 0x17 => some 8
  | 0x03 | 0x11 | 0x14 | 0x15 | 0x16 | 0x20 | 0x21 | 0x22 | 0x23 => some 4
  | 0x13 => some 16
  | 0x18 => some 12
  | _ => none

/-- Whether a command is timed. -/
def isTimed (opc : Nat) : Bool := decide (0x10 ≤ opc ∧ opc ≤ 0x18)

/-- Byte `i` of the arguments. -/
def HostCmd.arg (c : HostCmd) (i : Nat) : Nat := (c.args.getD i 0).toNat

/-- The 32-bit argument at `i`. -/
def HostCmd.word (c : HostCmd) (i : Nat) : Word := BitVec.ofNat 32 (ofBytes ((c.args.drop i).take 4))

/-- Whether the packet is malformed (R217). -/
def malformed (packet : List Byte) : Bool :=
  decide (packet.length < 12) ||
    (let len := ofBytes ((packet.drop 2).take 2)
     decide (packet.length ≠ 12 + len) ||
       match cmdLen (packet.getD 0 0).toNat with
       | some l => decide (l ≠ len)
       | none => false)

/-- A rejected packet is recorded (R217, R218). -/
def Dev.reject (d : Dev) (st : Status) (opc tag : Nat) : Dev :=
  (((((d.put F.hcpRejStatus st.code).put F.hcpRejOpc opc).put F.hcpRejTag tag).put F.hcpRejValid 1).bump
    F.hcpCntReject).cause Cause.cmdRej

/-- Byte `i` of a packet; of one that ended before it, a value the manual does not state. -/
def Dev.packetByte (d : Dev) (packet : List Byte) (i : Nat) : Nat × Dev :=
  match packet[i]? with
  | some b => (b.toNat, d)
  | none => (Config.unstated d.fresh % 256, d.draw.2)

/-- A CMD packet that arrives with QRDY high; `ts` is the instant of the rise of QCS_N. -/
def Dev.takePacket (d : Dev) (packet : List Byte) (ts : Nat) : Dev :=
  if malformed packet then
    let (opc, d) := d.packetByte packet 0
    let (b1, d) := d.packetByte packet 1
    (d.bump F.hcpCntFrame).reject .earg opc (b1 % 32)
  else
    let opc := (packet.getD 0 0).toNat
    let b1 := (packet.getD 1 0).toNat
    let tag := b1 % 32
    if 16 ≤ tag ∨ d.tagHeld tag = true then d.reject .etag opc tag
    else
      let c : HostCmd := ⟨opc, tag, b1.testBit 5, b1.testBit 6, ofBytes ((packet.drop 4).take 8), packet.drop 12, ts⟩
      -- Table 6.4, byte 1, bit 7 is zero: a packet that sets it is kept as one with IMM and a DUE, which answers EARG
      let c := if b1.testBit 7 then { c with imm := true, due := 1 } else c
      (d.setHcp fun h => { h with
        held := h.held ||| tagBit tag, exec := h.exec ||| tagBit tag, stream := h.stream ++ [.cmd c] }).bump F.hcpCntCmd

/-- DUE and IMM as R216 and R219 require them. -/
def HostCmd.timeOk (c : HostCmd) : Bool :=
  if isTimed c.opc then !c.imm || decide (c.due = 0) else !c.imm && decide (c.due = 0)

/-- Bytes of the arguments that Table 6.5 calls zero, and ranges that the port itself checks. -/
def HostCmd.argsOk (c : HostCmd) : Bool :=
  let z (i n : Nat) : Bool := (List.range n).all fun k => decide (c.arg (i + k) = 0)
  match c.opc with
  | 0x02 => decide (c.word 0 % 4 = 0) && decide ((c.word 0).toNat < 0x8000)
  | 0x03 => decide (c.word 0 % 4 = 0) && decide ((c.word 0).toNat < 0x8000)
  | 0x10 => z 3 1 && z 6 2
  | 0x11 => z 1 3
  | 0x12 => decide (c.arg 1 < 128) && z 2 2
  | 0x13 => decide (c.arg 2 < 4) && z 3 1 && z 14 2
  | 0x17 => decide (c.arg 1 < 12) && z 2 2
  | 0x18 => z 1 3
  | 0x20 => decide (c.arg 0 < 16) && z 1 3
  | 0x21 | 0x22 => decide (c.arg 0 < 16)
  | 0x23 => decide (c.arg 0 < 16) && z 1 1
  | _ => (cmdLen c.opc).isSome

/-- The feature of a command but WREG (Table 6.5, R228). -/
def Dev.cmdFeature (d : Dev) (opc : Nat) : Bool :=
  if isTimed opc then d.feature Feat.swarm
  else match opc with
    | 0x04 => d.on F.hcpStatusNegotiated
    | 0x20 | 0x21 | 0x22 | 0x23 => d.feature Feat.cue
    | 0x30 => d.feature Feat.strike
    | _ => true

/-- EFEATURE and EARG of an accepted command (R219), before its unit's own checks. -/
def Dev.cmdCheck (d : Dev) (c : HostCmd) : Status :=
  if !d.cmdFeature c.opc then .efeature else if c.timeOk && c.argsOk then .ok else .earg

/-- The front item, if it is the command `opc` of tag `tag`. -/
def Dev.front (d : Dev) (opc tag : Nat) : Option HostCmd :=
  match d.hcp.stream with
  | .cmd c :: _ => if c.opc = opc ∧ c.tag = tag ∧ d.hcp.ledgerReq = none ∧ d.coreOn = true then some c else none
  | _ => none

/-! ### Swarm commands -/

/-- The request a swarm command makes, in the form of the instruction of the same name. -/
def Dev.cmdReq (d : Dev) (c : HostCmd) : SwReq :=
  let op : SwOp := match c.opc with
    | 0x10 => .von (c.arg 2 % 2 == 0) (if c.arg 2 / 2 % 2 = 1 then some (c.arg 1) else none) (c.arg 4 + 256 * c.arg 5)
    | 0x11 => .voff
    | 0x12 => .vset (c.arg 1) (c.word 4)
    | 0x13 => .vramp (c.arg 1) (ofBytes ((c.args.drop 8).take 8)) ((c.word 4).toNat * d.unit (c.arg 2))
    | 0x14 => .vkill
    | 0x15 => .valloc
    | 0x16 => .vfree
    | 0x17 => .modset (c.arg 1) (c.word 4)
    | _ => .busset (c.word 4) (c.word 8)
  ⟨op, c.arg 0, c.imm, c.due⟩

/-- A swarm command reaches the front: refused by the port, or its request goes to the ledger (R50). -/
def Dev.cmdSwarm (d : Dev) (opc tag : Nat) : Dev :=
  match d.front opc tag with
  | none => d
  | some c =>
    let r := d.cmdReq c
    let st := d.cmdCheck c
    if st = .ok then d.setHcp fun h => { h with ledgerReq := some r }
    else
      let a : LedgerAns := ⟨st, r.named, false, false, (d.effDue r).1⟩
      d.done c st a.word (BitVec.ofNat 64 a.etime)

/-- The ledger's answer to the front command. -/
def Dev.cmdAnswer (d : Dev) (a : LedgerAns) : Dev :=
  match d.hcp.stream with
  | .cmd c :: _ => (d.setHcp fun h => { h with ledgerReq := none }).done c a.status a.word (BitVec.ofNat 64 a.etime)
  | _ => d.setHcp fun h => { h with ledgerReq := none }

/-! ### Other commands without a register access -/

/-- A command that its unit answers with a status alone. -/
def Dev.cmdPlain (d : Dev) (opc tag : Nat) (f : HostCmd → Dev → Status × Dev) : Dev :=
  match d.front opc tag with
  | none => d
  | some c =>
    let st := d.cmdCheck c
    if st = .ok then
      let r := f c d
      r.2.done c r.1
    else d.done c st

/-- NOP, and every OPC that Table 6.5 does not list, which answers EARG (R219). -/
def Dev.cmdNop (d : Dev) (tag : Nat) : Dev :=
  match d.hcp.stream with
  | .cmd c :: _ => if c.opc = 0 ∨ cmdLen c.opc = none then d.cmdPlain c.opc tag fun _ d => (.ok, d) else d
  | _ => d

/-- FENCE completes once no TRIGGER is open (R221). -/
def Dev.cmdFence (d : Dev) (tag : Nat) : Dev := if d.trigOpen then d else d.cmdPlain 0x04 tag fun _ d => (.ok, d)

/-- TRIGGER (R234). -/
def Dev.cmdTrigger (d : Dev) (tag : Nat) : Dev :=
  match d.front 0x30 tag with
  | none => d
  | some c =>
    let st := d.cmdCheck c
    let fail (st : Status) (d : Dev) : Dev := d.draw.2.done c st 0 (BitVec.ofNat 64 (Config.unstated d.fresh))
    if st ≠ .ok then fail st d
    else match d.pushStamp ⟨c.ts, 16, false, c.tag, c.post⟩ with
      | (.close, d) => fail .ebusy d
      | (.full, d) => fail .eqfull d
      | (.log, d) => (d.offer 16 c.ts).done c .ok 0 (BitVec.ofNat 64 c.ts) 2
      | (.strike, d) => (d.offer 16 c.ts).setHcp fun h => { h with stream := h.stream.drop 1 }

/-! ### Negotiation (R13, R14, R226, R227) -/

/-- SYS_FEAT_OFFER. -/
def Dev.offerSet (d : Dev) : Word64 := if d.sys.lc = 3#2 then 0 else 0x3FFF

/-- The active set that SYS_FEAT_ACCEPT asks for: what needs SWARM goes without it. -/
def Dev.wanted (d : Dev) : Word64 :=
  let both := d.offerSet &&& BitVec.ofNat 64 (d.get64 F.sysFeatAcceptLo F.sysFeatAcceptHi)
  if both.getLsbD Feat.swarm then both else both &&& ~~~(0x5C#64)

/-- Whether a feature is in use (Table 6.8). -/
def Dev.inUse (d : Dev) (f : Nat) : Bool :=
  if f = Feat.swarm ∨ f = Feat.housePhase then d.on F.swmCtrlRun
  else if f = Feat.strike then d.strikeOn
  else if f = Feat.sentinel then d.apOn F.swmSenCtrlEn
  else if f = Feat.rate96 then d.rate96
  else d.outInUse f

/-- NEGOTIATE, once no TRIGGER is open (R221). -/
def Dev.cmdNegotiate (d : Dev) (tag : Nat) : Dev :=
  match d.front 0x01 tag with
  | none => d
  | some c =>
    let st := d.cmdCheck c
    if d.trigOpen then d
    else if st ≠ .ok then d.done c st 0 d.hcp.active
    else
      let want := d.wanted
      let blocked := (List.range 64).any fun f => d.feature f && !want.getLsbD f && d.inUse f
      let set := if blocked then d.hcp.active else want
      let d := ((d.setHcp fun h => { h with active := set }).put64 F.sysFeatAcceptLo F.sysFeatAcceptHi set.toNat).put
        F.hcpStatusNegotiated 1
      d.done c (if blocked then .estate else .ok) 0 set

/-! ### Responses (R222) -/

/-- A record's 16 bytes; `more` says that another record stands behind it. -/
def Record.bytes (r : Record) (more : Bool) : List Byte :=
  [BitVec.ofNat 8 r.kind, BitVec.ofNat 8 r.src, BitVec.ofNat 8 r.status, BitVec.ofNat 8 (r.flags + if more then 1 else 0)]
    ++ bytesOf r.val0.toNat 4 ++ bytesOf r.val1.toNat 8

/-- The bytes that an RSP returns. -/
def rspBytes : List Record → List Byte
  | [] => []
  | r :: t => r.bytes (!t.isEmpty) ++ rspBytes t

/-- Whole words of a list of bytes. -/
def wordsOfBytes (n : Nat) (l : List Byte) : List Word :=
  (List.range n).map fun i => BitVec.ofNat 32 (ofBytes ((l.drop (4 * i)).take 4))

/-- An RSP of `count` bytes that begins with QRDY high. -/
def Dev.rspRead (d : Dev) (count : Nat) (stalled : Bool) : Dev :=
  let data := wordsOfBytes (count / 4) (rspBytes d.hcp.rsp)
  let gone := if stalled then [] else d.hcp.rsp.take (count / 16)
  let d := (d.setHcp fun h => { h with rsp := h.rsp.drop gone.length }).each (gone.filter fun r => r.kind == 1)
    fun r d => d.freeTag r.src
  d.answer [] data

/-- A transaction that begins with QRDY low (R211). -/
def Dev.discardHost (d : Dev) (words : Nat) : Dev := (d.bump F.hcpCntDiscard).answer [] (List.replicate words deadWord)

/-- A frame error (R207). -/
def Dev.frameError (d : Dev) : Dev := (d.bump F.hcpCntFrame).answer []

/-! ### Registers (Table 6.11) -/

/-- EARG of writes to HCP registers. -/
def Dev.hcpCheck (_ : Dev) (a : Nat) (w : Word) : Status :=
  if a = F.hcpCfg.addr ∧ bitsOf w 0 5 < 4 then .earg else .ok

/-- FLUSH: at once where the stream brought it or is empty, else when the stream reaches it. -/
def Dev.hcpHook (d : Dev) (a : Nat) (w1 : Word) (byHost : Bool) : Dev :=
  if a = F.hcpCtrl.addr ∧ w1.getLsbD 0 = true then
    if byHost || d.hcp.stream.isEmpty then d.flushNow
    else d.setHcp fun h => { h with stream := h.stream ++ [.flush] }
  else d

/-- HCP registers that are views. -/
def Dev.hcpRead (d : Dev) (a : Nat) : Option Word :=
  let n := BitVec.ofNat 32
  if a = F.hcpStatusHeld.addr then
    let held := ((List.range 16).filter fun t => d.tagHeld t).length
    some (n (d.reg a / 2 ^ 24 * 2 ^ 24).toNat ||| n (held + 256 * d.hcp.rsp.length + 65536 * d.shared))
  else if a = F.hcpTagsHeld.addr then some (n (d.hcp.held.toNat + 65536 * d.hcp.exec.toNat))
  else if a = F.hcpAttnCauseRsp.addr then some (d.causes.zeroExtend 32)
  else if a = F.sysFeatOfferLo.addr then some (d.offerSet.truncate 32)
  else if a = F.sysFeatOfferHi.addr then some ((d.offerSet >>> 32).truncate 32)
  else none

end Sys2Proof.Machine
end

