-- ==== Sys2Proof/Machine/Store.lean ====
section
/-! DEFINITION. The memory block's engines (chapter 7): patrol scrubber, region engine, window-port turns, collisions, journal
recovery, and the MEM registers. -/

namespace Sys2Proof.Machine

/-! ### Patrol scrub (R252) -/

/-- The place of a line in the scrubber's walk: banks 0 to 12, lines ascending. -/
def scrubIndex (line : Nat) : Nat :=
  match spaceOf line with
  | .wave => (line - 0x01000000) / 32
  | .cue => 32768 + (line - 0x02000000) / 32
  | _ => 40960 + (line - 0x00100000) / 32

/-- The next line of the walk that is not VIRGIN, from place `from'` on, then from the start. -/
def Dev.scrubNext (d : Dev) (from' : Nat) : Option Nat :=
  let ls := sortBy (fun a b => decide (scrubIndex a ≤ scrubIndex b))
    ((d.mem.tags.filter fun x => x.2.code != 0#2).map (·.1))
  (ls.find? fun l => decide (from' ≤ scrubIndex l)).orElse fun _ => ls.head?

/-- The scrubber reads the next line of its walk. -/
def Dev.scrubLine (d : Dev) : Dev :=
  match d.scrubNext d.mem.scrub with
  | none => { d with mem := { d.mem with pass := 0 } }
  | some l =>
    let places := (scrubIndex l + 43008 - d.mem.scrub % 43008) % 43008 + 1
    let d := (d.readLine Master.scrub l).2
    { d with mem := { d.mem with scrub := scrubIndex l + 1, pass := d.mem.pass - places } }

/-- One line that counts against SCRUB_RATE. -/
def Dev.scrubMetered (d : Dev) : Dev :=
  if d.get F.memCfg ≤ d.mem.scrubbed then d
  else let d := d.scrubLine; { d with mem := { d.mem with scrubbed := d.mem.scrubbed + 1 } }

/-- The scrubber reads one line: without a limit in the pass that follows a wake, else within the block's SCRUB_RATE. -/
def Dev.scrub (d : Dev) : Dev :=
  if !d.on F.memCtrlScrubEn || !d.coreOn then d
  else if 0 < d.mem.pass then d.scrubLine
  else d.scrubMetered

/-- A block ends: the scrubber has read SCRUB_RATE lines in it, but for a pass that follows a wake. -/
def Dev.scrubBlock (d : Dev) : Dev :=
  let d := if d.on F.memCtrlScrubEn && d.coreOn && decide (d.mem.pass = 0) then
      Nat.repeat Dev.scrubMetered (d.get F.memCfg - d.mem.scrubbed) d
    else d
  { d with mem := { d.mem with scrubbed := 0 } }

/-- The pass after a wake from DOZE or NAP, where SCRUB_WAKE asks for it: a whole walk of 43,008 places. -/
def Dev.scrubWake (d : Dev) : Dev :=
  if d.on F.memCtrlScrubWake then { d with mem := { d.mem with pass := 43008 } } else d

/-! ### Region engine (R253) -/

/-- EARG of a START with the region as it stands. -/
def Dev.regionOk (d : Dev) : Bool :=
  let a := d.get F.memChkAddr
  let n := d.get F.memChkLen
  let last := a + 32 * n - 1
  decide (a % 32 = 0) && decide (0 < n) && decide (n ≤ 32768) && isSram a && decide (spaceOf a = spaceOf last)

/-- START: the operation is under way. -/
def Dev.regionStart (d : Dev) : Dev :=
  { d with mem := { d.mem with region := some ⟨d.on F.memChkCtrlOp, d.get F.memChkAddr, d.get F.memChkLen,
      d.on F.memChkCtrlStrict⟩ } }.put F.memChkStatBusy 1

/-- CHECK over the lines from `line` on: the CRC register, or the line and status that stopped it. -/
def Dev.regionCheck (d : Dev) (strict : Bool) : Nat → Nat → Word → Except (Nat × Status) Word × Dev
  | 0, _, crc => (.ok (crc ^^^ 0xFFFFFFFF#32), d)
  | n + 1, line, crc =>
    let r := d.readLine Master.region line
    if r.1.1.isErr then (.error (line, .epoison), r.2)
    else if strict && decide (r.1.1 = .virgin) then (.error (line, .evirgin), r.2)
    else r.2.regionCheck strict n (line + 32) (crcBytes crc r.1.2)

/-- WIPE of `n` lines. In voice parameter memory it writes every field of the line, and so ends the fields' ramps (R98). -/
def Dev.regionWipe (d : Dev) : Nat → Nat → Dev
  | 0, _ => d
  | n + 1, line =>
    ((((d.waitWipe line).grant Master.region line).storeLine line 0 (List.replicate 32 0)).endRamps
      ((List.range 32).map (line + ·))).regionWipe n (line + 32)

/-- The operation ends. -/
def Dev.regionDone (d : Dev) : Dev :=
  match d.mem.region with
  | none => d
  | some r =>
    let fin (st : Status) (d : Dev) : Dev :=
      (({ d with mem := { d.mem with region := none } }.put F.memChkStatBusy 0).put F.memChkStatStatus st.code).put
        F.memChkStatDone 1
    if r.wipe then fin .ok (d.regionWipe r.left r.line)
    else match d.regionCheck r.strict r.left r.line 0xFFFFFFFF with
      | (.ok crc, d) => fin .ok (d.setReg F.memChkCrc.addr crc)
      | (.error (l, st), d) => fin st ((d.put F.memChkCrc 0).put F.memChkFail l)

/-! ### Turns at a window port (R246, R247) -/

/-- The conflict counter of a master. -/
def confFld (m : Nat) : Option Fld :=
  match m with
  | 0 => some F.memCntConfSwm
  | 1 => some F.memCntConfCue
  | 2 => some F.memCntConfHost
  | 3 => some F.memCntConfMgmt
  | 4 => some F.memCntConfHkp
  | 5 => some F.memCntConfDma
  | 6 => some F.memCntConfChk
  | _ => none

def Dev.confBy (d : Dev) (m n : Nat) : Dev :=
  match confFld m with
  | some f => d.bumpBy f n
  | none => d

/-- Masters that ask for one bank's window port in one ECLK cycle, each with the cycles it holds the port: each waits for
those served before it, and the round robin goes on from the last. -/
def Dev.takeTurns (d : Dev) (bank : Nat) (asks : List (Nat × Nat)) : Dev :=
  let start := Tab.get (fun _ => 0) d.mem.rr bank
  let key (m : Nat) : Nat := (turnOf m + 6 - start) % 6
  let order := sortBy (fun a b => decide (key a.1 ≤ key b.1)) asks
  let r := order.foldl (fun (acc : Nat × Dev) q => (acc.1 + q.2, acc.2.confBy q.1 acc.1)) (0, d)
  match order.getLast? with
  | some q =>
    let d := r.2
    { d with mem := { d.mem with rr := Tab.set (fun _ => 0) d.mem.rr bank ((turnOf q.1 + 1) % 6) } }
  | none => d

/-- The engine-port cycles that the swarm and the cue engine lost to each other in a sample (R245, R247). The manual does not say which
cycles they ask in, so that their number is free; there are none where either has nothing to do. -/
def Dev.engineLosses (d : Dev) : Dev :=
  let swarm := d.swm.voices.any fun x => x.2.bound
  let cue := d.cue.threads.any fun x => decide (x.2.state = .ready)
  if swarm && cue then
    ((d.draw.2.draw.2).confBy Master.swarm (Config.unstated d.fresh)).confBy Master.cue (Config.unstated (d.fresh + 1))
  else d

/-! ### Collisions (R249) -/

/-- Record a same-word collision that the port of master `m` lost. -/
def Dev.collision (d : Dev) (m a : Nat) : Dev :=
  ((d.put F.memStatusColl 1).bump F.memCntColl).errLatch ErrKind.coll m (a / 8 * 8) (a / 8 % 4) 0

/-- A read by master `m` collides and is retried in its next turn, which counts as a lost cycle. -/
def Dev.retry (d : Dev) (m a : Nat) : Dev :=
  if isSram a && d.coreOn then (((d.collision m a).confBy m 1).readLine m (lineOf a)).2 else d

/-! ### Journal recovery (R260 to R262) -/

/-- Every slot of both journal sectors. -/
def slots : List (Nat × Nat) := (List.range 2).flatMap fun j => (List.range 256).map fun k => (j, k)

/-- A valid record: its slot, sector, sequence number and DONE. -/
structure JRec where
  j : Nat
  k : Nat
  sector : Nat
  seq : Nat
  done : Bool
  deriving DecidableEq, Repr

/-- The valid records of the journal sectors in `js`. -/
def Dev.records (d : Dev) (js : List Nat) : List JRec :=
  (slots.filter fun p => p.1 ∈ js).filterMap fun p =>
    match d.slot p.1 p.2 with
    | .valid sector seq done => some ⟨p.1, p.2, sector, seq, done⟩
    | _ => none

/-- One recovery erase. -/
def Dev.reErase (d : Dev) (r : JRec) : Dev :=
  ((d.flashErase r.sector).recordDone (slotOff r.j r.k)).bump F.memFlCntReerase

/-- The mask ROM's recovery at start-up: torn slots are counted, erases that did not end are made, and the active sector, its
next slot and the newest SEQ are found. -/
def Dev.recover (d : Dev) : Dev :=
  let torn := (slots.filter fun p => d.slot p.1 p.2 == .torn).length
  let d := d.bumpBy F.memFlCntTorn torn
  let switch := (d.records [0, 1]).find? fun r => r.k == 255 && !r.done
  let d := match switch with
    | some r => d.reErase r
    | none => d
  let js : List Nat := match switch with
    | some r => [0, 1].filter fun j => j + 1022 ≠ r.sector
    | none => [0, 1]
  let open' := sortBy (fun a b => decide (a.seq ≤ b.seq)) ((d.records js).filter fun r => !r.done)
  let d := d.each open' fun r d => d.reErase r
  let newest := (d.records [0, 1]).foldl (fun (m : Option JRec) r =>
    match m with
    | some x => if x.seq < r.seq then some r else m
    | none => some r) none
  let d := { d with mem := { d.mem with flash := .reset } }.flashShow
  match newest with
  | none => ((d.put F.memFlJrnlActive 0).put F.memFlJrnlNext 0).put F.memFlSeq 0
  | some r =>
    let used := (List.range 256).filter fun k => d.slot r.j k != .empty
    ((d.put F.memFlJrnlActive r.j).put F.memFlJrnlNext ((used.getLastD 0 + 1) % 256)).put F.memFlSeq r.seq

/-! ### Registers (Table 7.10) -/

/-- EARG and EBUSY of writes to MEM registers. -/
def Dev.memCheck (d : Dev) (a : Nat) (w : Word) : Status :=
  if a = F.memCfg.addr then (if bitsOf w 0 8 = 0 then .earg else .ok)
  else if a = F.memInjArm.addr then (if 71 < bitsOf w 3 7 ∨ 12 < bitsOf w 16 4 then .earg else .ok)
  else if a = F.memChkCtrlStart.addr ∧ w.getLsbD 0 = true then
    if !d.regionOk then .earg else if d.mem.region.isSome then .ebusy else .ok
  else .ok

/-- What writes to MEM registers start after their fields have changed. -/
def Dev.memHook (d : Dev) (a : Nat) (w1 : Word) : Dev :=
  if a = F.memInjArm.addr ∧ w1.getLsbD 0 = true then d.put F.memInjArm 1
  else if a = F.memChkCtrlStart.addr ∧ w1.getLsbD 0 = true then d.regionStart
  else d

/-- MEM registers that are views. -/
def Dev.memRead (d : Dev) (a : Nat) : Option Word :=
  let bit (c : Bool) (k : Nat) : Word := if c then 1#32 <<< k else 0
  if a = F.memStatusWiping.addr then some ((d.reg a &&& ~~~(1#32)) ||| bit (decide (d.mem.wiping ≠ 0#13)) 0)
  else if a = F.memFlStatusBusy.addr then
    some ((d.reg a &&& ~~~(0x10#32)) ||| bit (decide (d.sys.phase = .awaitJournal)) 4)
  else if a = F.memFlWinLo.addr then some (BitVec.ofNat 32 d.flashLo)
  else if a = F.memFlWinHi.addr then some (BitVec.ofNat 32 d.flashHi)
  else none

end Sys2Proof.Machine
end

