-- ==== Sys2Proof/Machine/TwoWire.lean ====
section
/-! DEFINITION. The two-wire target and controller (chapter 10) but for the window's accesses: pages, fixed registers, LAST_ST,
in-band attention, controller transfers, and the TWT and TWC registers. -/

namespace Sys2Proof.Machine

/-! ### The target -/

def Dev.setTwt (d : Dev) (f : TwtS → TwtS) : Dev := { d with twt := f d.twt }

/-- The target's address (R326). -/
def Dev.twtOwn (d : Dev) : Nat := 0x58 + d.twt.addrPins.toNat

/-- The base of the window (Table 10.1). -/
def pageBase (page : Nat) : Nat :=
  let off := page % 0x2000 * 0x80
  match page / 0x2000 with
  | 0 => off
  | 1 => 0x00100000 + off
  | 2 => 0x01000000 + off
  | 3 => 0x02000000 + off
  | k => 0x04000000 + (k - 4) * 0x100000 + off

/-- The region that a page selects. -/
def pageSpace (page : Nat) : Space :=
  match page / 0x2000 with
  | 0 => .reg
  | 1 => .par
  | 2 => .wave
  | 3 => .cue
  | _ => .flash

/-- Whether a window address lies within its page's region. -/
def inPage (page a : Nat) : Bool := decide (spaceOf a = pageSpace page)

/-- The next pointer (R329). -/
def nextPtr (p : Nat) : Nat := if p = 0xEF then 0 else if p = 0xFF then 0xF0 else p + 1

/-- Whether a register address belongs to an AON block (Table 1.1): PWR, HT, REF, TCU, TWT, SYS_RST_CAUSE, and the slow
receiver's fields of UA0. -/
def aonReg (a : Nat) : Bool :=
  decide (a ∈ [F.sysRstCausePor.addr, F.ua0SlowEn.addr, F.ua0CntWake.addr])
    || decide (0x0400 ≤ a ∧ a < 0x1800) || decide (0x4800 ≤ a ∧ a < 0x5400)

/-- Whether a window byte can be served: an AON block's always, any other while the CORE domain runs (R337). -/
def Dev.served (d : Dev) (a : Nat) : Bool := d.coreOn || (decide (a < 0x8000) && aonReg (a / 4 * 4))

/-- LAST_ST takes the status of an item (R333). `bad` says that an item of the same transfer failed. -/
def Dev.lastSt (d : Dev) (st : Status) (a : Nat) (bad : Bool) : Dev :=
  let d := if bad && !st.isError then d else d.setTwt fun t => { t with lastSt := st.code }
  if st.isError then (if d.twt.err then d else d.put F.twtErrAddr a).setTwt fun t => { t with err := true } else d

/-- MUTE_N as STATUS shows it. -/
def Dev.mutedLow (d : Dev) : Bool := d.outp.muteLow

/-- A fixed register (Table 10.2) and what its read does. -/
def Dev.fixedRead (d : Dev) (p : Nat) : Byte × Dev :=
  let b (x : Bool) (k : Nat) : Nat := if x then 2 ^ k else 0
  let n (x : Nat) : Byte × Dev := (BitVec.ofNat 8 x, d)
  match p with
  | 0xF0 => n (d.twt.page / 256)
  | 0xF1 => n d.twt.page
  | 0xF2 => n (b d.coreOn 0 + b d.twt.cmd.isSome 1 + b d.twt.err 2 + b d.attnLow 3 + b d.mutedLow 4 + b d.twt.strExp 5)
  | 0xF3 => n d.attnCopy.toNat
  | 0xF4 => n (d.attnCopy.toNat / 256)
  | 0xF6 => (d.twt.arg, d)
  | 0xF7 => (BitVec.ofNat 8 d.twt.lastSt, d.setTwt fun t => { t with err := false })
  | 0xF8 => (d.twt.seq, d)
  | 0xF9 => n d.power
  | 0xFA => n d.sys.lc.toNat
  | 0xFC => n 0x43
  | 0xFD => n 0x54
  | 0xFE => n 0x80
  | 0xFF => (Config.revision, d)
  | _ => n 0

/-- A W1C of event causes (R230, R334): at once in the AON copy, and in HCP_ATTN_CAUSE once the CORE domain runs. -/
def Dev.clearCauses (d : Dev) (bits : BitVec 9) : Dev :=
  if d.coreOff then d.setTwt fun t => { t with attn := t.attn &&& ~~~(bits &&& 0x0BE#9), w1c := t.w1c ||| bits }
  else
    let ev := BitVec.ofNat 5 (d.get F.hcpAttnCauseEvents) &&& ~~~((bits >>> 1).truncate 5)
    let d := d.put F.hcpAttnCauseEvents ev.toNat
    if bits.getLsbD 7 then d.put F.hcpAttnCauseReset 0 else d

/-- A write to a fixed register other than MGMT_CMD. -/
def Dev.fixedWrite (d : Dev) (p : Nat) (b : Byte) : Dev :=
  match p with
  | 0xF0 => d.setTwt fun t => { t with pageHi := some b.toNat }
  | 0xF1 => d.setTwt fun t => { t with page := t.pageHi.getD (t.page / 256) * 256 + b.toNat, pageHi := none }
  | 0xF3 => d.clearCauses (b.zeroExtend 9)
  | 0xF4 => d.clearCauses (b.zeroExtend 9 <<< 8)
  | 0xF6 => d.setTwt fun t => { t with arg := b }
  | _ => d

/-- A completed management command (R333, R335): its OK replaces no error of the transfer that started it. -/
def Dev.mgmtEnd (d : Dev) (st : Status) : Dev :=
  (d.setTwt fun t => { t with cmd := none, seq := t.seq + 1 }).lastSt st 0xF5 d.twt.cmdBad

/-- The transfer to the target ends, by a STOP. -/
def Dev.twtEnd (d : Dev) : Dev :=
  d.setTwt fun t => { t with addressed := false, stretch := false, iba := { t.iba with stopAt := d.now } }

/-- Its own stretch of 400 µs ended with the CORE domain still off (R336). -/
def Dev.stretchOver (d : Dev) : Dev :=
  if d.twt.stretch && !d.coreOn then
    (d.setTwt fun t => { t with stretch := false, strExp := true }).bump F.twtCntStretchTo
  else d

/-- CORE_UP becomes 1: the stretch ends, STR_EXP clears, and pending W1Cs apply (R334, R336). -/
def Dev.twtCoreUp (d : Dev) : Dev :=
  let w := d.twt.w1c
  (d.setTwt fun t => { t with stretch := false, strExp := false, w1c := 0 }).clearCauses w

/-- Whether the target signals the condition of R230 in band. -/
def Dev.ibaWanted (d : Dev) : Bool := d.on F.twtCfgIbaEn && d.attnLow

/-- Whether a request is due: none has been sent in full since the condition became true, or REPEAT ms have passed (R341, R342). -/
def Dev.ibaDue (d : Dev) : Bool :=
  match d.twt.iba.sent with
  | none => true
  | some t => d.get F.twtIbaRepeat != 0 && decide (t + d.get F.twtIbaRepeat * blockTk ≤ d.now)

/-- Whether the bus has been idle for IDLE µs since the last STOP (R341). -/
def Dev.ibaIdle (d : Dev) : Bool :=
  !d.twt.addressed && decide (d.twt.iba.stopAt * 1000 + d.get F.twtIbaIdle * blockTk ≤ d.now * 1000)

/-- Whether the target may ask for attention in band now (R341). -/
def Dev.ibaReady (d : Dev) : Bool := d.ibaWanted && d.ibaDue && d.ibaIdle && decide (d.twt.iba.onBus = 0)

/-- A request begins: it holds TWT_SDA low for 737 XI cycles (R341). -/
def Dev.ibaStart (d : Dev) : Dev := if d.ibaReady then d.setTwt fun t => { t with iba := { t.iba with onBus := 737 } } else d

/-- SCL falls during a request, which is due again (R342). -/
def Dev.ibaBreak (d : Dev) : Dev :=
  if d.twt.iba.onBus = 0 then d
  else (d.setTwt fun t => { t with iba := { t.iba with onBus := 0 } }).bump F.twtCntIbaAbort

/-- One XI cycle of the target (R341): a request goes on and ends, and the condition is looked at (DESIGN CHOICE, log 13). -/
def Dev.ibaCycle (d : Dev) : Dev :=
  let d := match d.twt.iba.onBus with
    | 0 => d
    | 1 => (d.setTwt fun t => { t with iba := { t.iba with onBus := 0, sent := some d.now } }).bump F.twtCntIba
    | n + 2 => d.setTwt fun t => { t with iba := { t.iba with onBus := n + 1 } }
  if d.ibaWanted ∨ d.twt.iba.sent = none then d else d.setTwt fun t => { t with iba := { t.iba with sent := none } }

/-! ### The controller (R344 to R348) -/

def Dev.setTwc (d : Dev) (f : TwcS → TwcS) : Dev := { d with twc := f d.twc }

/-- LEN of a TWC_XFER word. -/
def xferLen (w : Word) : Nat := if bitsOf w 16 12 = 0 then 4096 else bitsOf w 16 12

/-- Whether the bytes of a DMA transfer lie within wave or cue memory (R345). -/
def dmaFits (a n : Nat) : Bool :=
  decide (spaceOf a = .wave ∨ spaceOf a = .cue) && decide (spaceOf (a + n - 1) = spaceOf a)

/-- GO: the transfer starts. -/
def Dev.twcStart (d : Dev) : Dev :=
  let w := d.reg F.twcXferAddr.addr
  ((d.setTwc fun t => { t with
    xfer := w, dma := d.get F.twcDmaAddr, moved := 0, sent := [], buf := [], again := [], retries := 0, lost := false }).put
    F.twcStatusBusy 1).put F.twcStatusHeld 0

/-- A transfer ends: DONE, LAST_ST, TWC_COUNT; HELD where it ended well without a STOP. -/
def Dev.twcEnd (d : Dev) (st : Status) (count : Nat) : Dev :=
  let held := decide (st = .ok) && !d.twc.xfer.getLsbD 8
  ((((((d.setTwc fun t => { t with lost := false, buf := [] }).put F.twcStatusBusy 0).put F.twcStatusHeld
    (if held then 1 else 0)).put F.twcStatusDone 1).put F.twcStatusLastSt st.code).put F.twcCount count).bump F.twcCntXfer

/-- A byte that the addressed device refused: `0` the address, `k + 1` data byte `k`. -/
def Dev.twcNack (d : Dev) (at' : Nat) : Dev :=
  let d := (d.put (if at' = 0 then F.twcStatusNackAddr else F.twcStatusNackData) 1).bump F.twcCntNack
  d.twcEnd .ebusy (at' - 1)

/-- Bytes that DMA reads for a transmission, line by line, up to the first POISON or uncorrectable line. -/
def Dev.dmaRead (d : Dev) : Nat → Nat → Nat → List Byte × Bool × Dev
  | 0, _, _ => ([], true, d)
  | fuel + 1, a, n =>
    if n = 0 then ([], true, d)
    else
      let k := min n (lineOf a + 32 - a)
      let r := d.readLine Master.dma (lineOf a)
      if r.1.1.isErr then ([], false, r.2)
      else
        let q := r.2.dmaRead fuel (a + k) (n - k)
        (((r.1.2.drop (a - lineOf a)).take k) ++ q.1, q.2.1, q.2.2)

/-- DMA writes received bytes line by line from `a`: the bytes stored or refused, and whether every line took its part. The
bytes of the last line wait in `buf` while more are to come. -/
def Dev.dmaWrite (d : Dev) (last : Bool) : Nat → Nat → List Byte → List Byte × Nat × Bool × Dev
  | 0, _, data => (data, 0, true, d)
  | fuel + 1, a, data =>
    let k := lineOf a + 32 - a
    if data.isEmpty ∨ (data.length < k ∧ last = false) then (data, 0, true, d)
    else
      let part := data.take k
      let r := d.writeWhole Master.dma a part
      if r.1 ≠ .ok then ([], part.length, false, r.2)
      else
        let q := r.2.dmaWrite last fuel (a + part.length) (data.drop k)
        (q.1, part.length + q.2.1, q.2.2.1, q.2.2.2)

/-- A transmission sends bytes up to data byte `n`: those that DMA reads, or those of a retry and then those of TX, as far as they go
(R345, R347). Whether a line refused its DMA read. -/
def Dev.twcMove (d : Dev) (n : Nat) : Bool × Dev :=
  let t := d.twc
  if t.xfer.getLsbD 9 then
    let r := d.dmaRead (n + 1) (t.dma + t.moved) (n - t.moved)
    (!r.2.1, r.2.2.setTwc fun t => { t with sent := t.sent ++ r.1, moved := t.moved + r.1.length })
  else
    let bytes := (t.again ++ t.tx).take (n - t.moved)
    (false, d.setTwc fun t => { t with
      again := t.again.drop bytes.length, tx := t.tx.drop (bytes.length - t.again.length), sent := t.sent ++ bytes,
      moved := t.moved + bytes.length })

/-- A transmission goes on as far as its bytes reach, up to data byte `n`; `full` ends it there. -/
def Dev.twcSend (d : Dev) (n : Nat) (full : Dev → Dev) : Dev :=
  let r := d.twcMove n
  if r.1 then (r.2.put F.twcStatusErr 1).twcEnd .epoison r.2.twc.moved
  else if r.2.twc.moved = n then full r.2 else r.2

/-- A reception goes on with bytes from the addressed device: as many as RX can take, or all of them by DMA. -/
def Dev.twcReceive (d : Dev) (data : List Byte) : Dev :=
  let t := d.twc
  let n := xferLen t.xfer
  if t.xfer.getLsbD 9 then
    let data := data.take (n - t.moved)
    let all := t.buf ++ data
    let last := decide (t.moved + data.length = n)
    let a := t.dma + t.moved - t.buf.length
    let r := d.dmaWrite last (all.length + 1) a all
    let d := r.2.2.2.setTwc fun t => { t with buf := r.1, moved := t.moved + data.length }
    if !r.2.2.1 then (d.put F.twcStatusErr 1).twcEnd .epoison (t.moved - t.buf.length + r.2.1)
    else if last then d.twcEnd .ok n else d
  else
    let k := min (min (n - t.moved) (16 - t.rx.length)) data.length
    let d := d.setTwc fun t => { t with rx := t.rx ++ data.take k, moved := t.moved + k }
    if t.moved + k = n then d.twcEnd .ok n else d

/-- The bus has carried the transfer as far as it could (R344, R345, R348). -/
def Dev.twcDone (d : Dev) (rx : List Byte) (nack : Option Nat) : Dev :=
  if !d.on F.twcStatusBusy || d.twc.lost || !d.coreOn then d
  else
    let rd := d.twc.xfer.getLsbD 7
    match nack with
    | some 0 => d.twcNack 0
    | some (k + 1) =>
      if rd then d.twcReceive rx
      else if k < d.twc.moved ∨ xferLen d.twc.xfer ≤ k then d
      else d.twcSend (k + 1) fun d => d.twcNack (k + 1)
    | none =>
      let n := xferLen d.twc.xfer
      if rd then d.twcReceive rx else d.twcSend n fun d => d.twcEnd .ok n

/-- Arbitration is lost (R347): a retry is to follow, or the transfer ends. -/
def Dev.twcLose (d : Dev) : Dev :=
  if !d.on F.twcStatusBusy || d.twc.lost || !d.coreOn then d
  else
    let d := (d.put F.twcStatusArbLost 1).bump F.twcCntArb
    if d.twc.retries < d.get F.twcCfgRetry then d.setTwc fun t => { t with lost := true }
    else d.twcEnd .ebusy d.twc.moved

/-- A retry starts the transfer again from its first byte (R347): the bytes already sent go out again before those of TX
(DESIGN CHOICE, log 13). -/
def Dev.twcRetryNow (d : Dev) : Dev :=
  if !d.on F.twcStatusBusy || !d.twc.lost || !d.coreOn then d
  else (d.setTwc fun t => { t with
    lost := false, retries := t.retries + 1, moved := 0, buf := [], again := if t.xfer.getLsbD 9 then [] else t.sent ++ t.again, sent := [] }).bump F.twcCntRetry

/-- No GO came within TWC_TO.CHAIN: the controller sends the STOP itself (R344). -/
def Dev.twcChain (d : Dev) : Dev := if d.on F.twcStatusHeld then d.put F.twcStatusHeld 0 else d

/-- SCL stayed low too long (R348), or a wait for a FIFO did (R345). -/
def Dev.twcStuck (d : Dev) (sclLow : Bool) : Dev :=
  if !d.on F.twcCfgEn || !d.coreOn then d
  else if sclLow then
    let d := (d.put F.twcStatusStuck 1).bump F.twcCntStuck
    if d.on F.twcStatusBusy then d.twcEnd .ebusy d.twc.moved
    else (d.put F.twcStatusLastSt Status.ebusy.code).put F.twcStatusHeld 0
  else if !d.on F.twcStatusBusy || d.twc.xfer.getLsbD 9 then d
  else if d.twc.xfer.getLsbD 7 then (if 16 ≤ d.twc.rx.length then d.twcEnd .eqfull d.twc.moved else d)
  else if d.twc.tx.isEmpty && d.twc.again.isEmpty then d.twcEnd .estate d.twc.moved else d

/-- A write of TWC_DATA pushes TX; TX full, nothing is queued (Table 0.5, DEDUCED, log 13). -/
def Dev.twcPush (d : Dev) (b : Byte) : Status × Dev :=
  if 16 ≤ d.twc.tx.length then (.eqfull, d) else (.ok, d.setTwc fun t => { t with tx := t.tx ++ [b] })

/-- A read of TWC_DATA pops RX. With RX empty VALID is 0; BYTE holds its reset value until RX is first popped, and after that the
manual states none. -/
def Dev.twcPop (d : Dev) : Word × Dev :=
  match d.twc.rx with
  | [] => if d.twc.popped then (BitVec.ofNat 32 (Config.unstated d.fresh % 256), d.draw.2) else (0, d)
  | b :: t => (b.zeroExtend 32 ||| 0x100, d.setTwc fun x => { x with rx := t, popped := true })

/-! ### Registers (Tables 10.7 and 10.8) -/

/-- EARG, ESTATE and EBUSY of writes to TWT and TWC registers. -/
def Dev.twoWireCheck (d : Dev) (a : Nat) (w : Word) : Status :=
  if a = F.twtIbaRepeat.addr then (if bitsOf w 8 8 < 5 then .earg else .ok)
  else if a = F.twcTimingLow.addr then
    if bitsOf w 0 8 < 2 ∨ bitsOf w 8 8 < 2 ∨ bitsOf w 16 8 < 2 ∨ bitsOf w 24 8 < 2 then .earg else .ok
  else if a = F.twcToStuck.addr then (if bitsOf w 0 8 = 0 ∨ bitsOf w 8 8 = 0 then .earg else .ok)
  else if a = F.twcXferAddr.addr ∧ w.getLsbD 10 = true then
    if w.getLsbD 9 && !dmaFits (d.get F.twcDmaAddr) (xferLen w) then .earg
    else if !d.on F.twcCfgEn then .estate
    else if d.on F.twcStatusBusy then .ebusy
    else .ok
  else if a = F.twcDataByte.addr then (if 16 ≤ d.twc.tx.length then .eqfull else .ok)
  else .ok

/-- What writes to TWC registers start after their fields have changed. -/
def Dev.twoWireHook (d : Dev) (a : Nat) (w1 : Word) : Status × Dev :=
  if a = F.twcXferAddr.addr ∧ w1.getLsbD 10 = true then (.ok, d.twcStart)
  else if a = F.twcDataByte.addr then (d.setReg a 0).twcPush ((d.reg a).truncate 8)
  else if a = F.twcCfgEn.addr ∧ d.on F.twcCfgEn = false ∧ d.on F.twcStatusBusy = true then
    (.ok, (d.put F.twcStatusBusy 0).put F.twcStatusHeld 0)
  else (.ok, d)

/-- TWT and TWC registers that are views. -/
def Dev.twoWireRead (d : Dev) (a : Nat) : Option (Word × Dev) :=
  let b (x : Bool) (k : Nat) : Nat := if x then 2 ^ k else 0
  if a = F.twtAddr.addr then some (BitVec.ofNat 32 d.twtOwn, d)
  else if a = F.twtStatusAddressed.addr then
    some (BitVec.ofNat 32 (b d.twt.addressed 0 + b d.twt.stretch 1 + b d.twt.strExp 2 + b (d.twt.iba.onBus != 0) 3
      + 256 * d.twt.ptr
      + 65536 * d.twt.page), d)
  else if a = F.twcStatusBusy.addr then
    some (insBits (insBits (d.reg a) 8 5 d.twc.tx.length) 16 5 d.twc.rx.length, d)
  else if a = F.twcDataByte.addr then some d.twcPop
  else none

end Sys2Proof.Machine
end

