-- ==== Sys2Proof/Machine/Crypto.lean ====
section
/-! DEFINITION. The algorithms that chapter 13 names by their standard and this file writes out: AES-256 (FIPS 197), SHA-512
(FIPS 180-4) and the verification of Ed25519 (RFC 8032). Bytes and words are natural numbers below 2^8 and 2^64, and field
elements natural numbers below 2^255 - 19. TAKEN FROM THE STANDARDS the manual names (R426, R427, R431), PRESUMED from those standards, log 28. -/

namespace Sys2Proof.Machine

/-! ### AES-256 -/

/-- The S-box, sixteen entries to a number, the first in the lowest byte. -/
def sboxRows : List Nat := [
  0x76abd7fe2b670130c56f6bf27b777c63, 0xc072a49cafa2d4adf04759fa7dc982ca, 0x1531d871f1e5a534ccf73f362693fdb7,
  0x75b227ebe28012079a059618c323c704, 0x842fe329b3d63b52a05a6e1b1a2c8309, 0xcf584c4a39becb6a5bb1fc20ed00d153,
  0xa89f3c507f02f94585334d43fbaaefd0, 0xd2f3ff1021dab6bcf5389d928f40a351, 0x73195d643d7ea7c41744975fec130ccd,
  0xdb0b5ede14b8ee4688902a22dc4f8160, 0x79e4959162acd3c25c2406490a3a32e0, 0x08ae7a65eaf4566ca94ed58d6d37c8e7,
  0x8a8bbd4b1f74dde8c6b4a61c2e2578ba, 0x9e1dc186b95735610ef6034866b53e70, 0xdf2855cee9871e9b948ed9691198f8e1,
  0x16bb54b00f2d99416842e6bf0d89a18c]

/-- The inverse S-box. -/
def sboxInvRows : List Nat := [
  0xfbd7f3819ea340bf38a53630d56a0952, 0xcbe9dec444438e3487ff2f9b8239e37c, 0x4ec3fa420b954cee3d23c2a632947b54,
  0x25d18b6d49a25b76b224d92866a12e08, 0x92b6655dcc5ca4d41698688664f6f872, 0x849d8da75746155edab9edfd5048706c,
  0x0645b3b80558e4f70ad3bc8c00abd890, 0x6b8a130103bdafc1020f3fca8f1e2cd0, 0x73e6b4f0cecff297eadc674f4111913a,
  0x6edf751ce837f9e28535ade72274ac96, 0x1bbe18aa0e62b76f89c5291d711af147, 0xf45acd78fec0db9a2079d2c64b3e56fc,
  0x5fec8027591012b131c7078833a8dd1f, 0xef9cc9939f7ae52d0d4ab519a97f5160, 0x619953833cbbebc8b0f52aae4d3be0a0,
  0x7d0c2155631469e126d677ba7e042b17]

/-- Entry `x` of an S-box. -/
def sboxAt (rows : List Nat) (x : Nat) : Nat := rows.getD (x / 16) 0 / 256 ^ (x % 16) % 256

/-- Multiplication by x in GF(2^8). -/
def aesTwice (x : Nat) : Nat := if x < 128 then 2 * x else Nat.xor (2 * x) 0x11B

/-- Multiplication in GF(2^8) by a constant below 16. -/
def aesTimes (c x : Nat) : Nat :=
  let x2 := aesTwice x
  let x4 := aesTwice x2
  let x8 := aesTwice x4
  let term (i y : Nat) : Nat := if c.testBit i then y else 0
  Nat.xor (Nat.xor (term 0 x) (term 1 x2)) (Nat.xor (term 2 x4) (term 3 x8))

def xorBytes (a b : List Nat) : List Nat := List.zipWith Nat.xor a b

/-- The rows of a state are turned: byte `r` of column `c` comes from column `c + by * r` (5.1.2, 5.3.1). -/
def aesShift (by' : Nat) (s : List Nat) : List Nat :=
  (List.range 16).map fun i => s.getD ((i + 4 * by' * (i % 4)) % 16) 0

/-- Each column is multiplied by a polynomial (5.1.3, 5.3.3): `k` is its first row. -/
def aesMix (k : List Nat) (s : List Nat) : List Nat :=
  (List.range 16).map fun i =>
    let term (j : Nat) : Nat := aesTimes (k.getD ((4 + j - i % 4) % 4) 0) (s.getD (i / 4 * 4 + j) 0)
    Nat.xor (Nat.xor (term 0) (term 1)) (Nat.xor (term 2) (term 3))

/-- The next words of the key schedule (5.2), newest first: `i` counts from 8 to 59. -/
def aesSchedule : Nat → Nat → Nat → List (List Nat) → List (List Nat)
  | 0, _, _, ws => ws
  | n + 1, i, rcon, ws =>
    let sub (l : List Nat) : List Nat := l.map (sboxAt sboxRows)
    let last := ws.getD 0 []
    let turned := last.drop 1 ++ last.take 1
    let x := if i % 8 = 0 then xorBytes (sub turned) [rcon, 0, 0, 0] else if i % 8 = 4 then sub last else last
    aesSchedule n (i + 1) (if i % 8 = 0 then aesTwice rcon else rcon) (xorBytes (ws.getD 7 []) x :: ws)

/-- A number of `n` bytes, most significant first. -/
def bytesBe (n v : Nat) : List Nat := (List.range n).map fun i => v / 256 ^ (n - 1 - i) % 256

/-- The number that bytes spell, most significant first. -/
def natBe (l : List Nat) : Nat := l.foldl (fun n b => 256 * n + b) 0

/-- The number that bytes spell, least significant first. -/
def natLe (l : List Nat) : Nat := natBe l.reverse

/-- The fifteen round keys, the last first. -/
def aesRoundKeys (key : BitVec 256) : List (List Nat) :=
  let b := bytesBe 32 key.toNat
  let ws := aesSchedule 52 8 1 (((List.range 8).map fun i => (b.drop (4 * i)).take 4).reverse)
  (List.range 15).map fun i => (((ws.drop (4 * i)).take 4).reverse).flatten

/-- AES-256 of one block (5.1). -/
def aesEncrypt (key : BitVec 256) (block : BitVec 128) : BitVec 128 :=
  let round (mix : Bool) (s k : List Nat) : List Nat :=
    let s := aesShift 1 (s.map (sboxAt sboxRows))
    xorBytes (if mix then aesMix [2, 3, 1, 1] s else s) k
  match (aesRoundKeys key).reverse with
  | k0 :: ks =>
    let s := (ks.dropLast).foldl (round true) (xorBytes (bytesBe 16 block.toNat) k0)
    BitVec.ofNat 128 (natBe (round false s (ks.getLastD [])))
  | [] => block

/-- The inverse cipher (5.3). -/
def aesDecrypt (key : BitVec 256) (block : BitVec 128) : BitVec 128 :=
  let round (s k : List Nat) : List Nat := xorBytes ((aesShift 3 s).map (sboxAt sboxInvRows)) k
  match aesRoundKeys key with
  | k14 :: ks =>
    let s := (ks.dropLast).foldl (fun s k => aesMix [14, 11, 13, 9] (round s k)) (xorBytes (bytesBe 16 block.toNat) k14)
    BitVec.ofNat 128 (natBe (round s (ks.getLastD [])))
  | [] => block

/-! ### SHA-512 -/

/-- The constants of the rounds. -/
def shaK : List Nat :=
  [0x428a2f98d728ae22, 0x7137449123ef65cd, 0xb5c0fbcfec4d3b2f, 0xe9b5dba58189dbbc,
    0x3956c25bf348b538, 0x59f111f1b605d019, 0x923f82a4af194f9b, 0xab1c5ed5da6d8118,
    0xd807aa98a3030242, 0x12835b0145706fbe, 0x243185be4ee4b28c, 0x550c7dc3d5ffb4e2,
    0x72be5d74f27b896f, 0x80deb1fe3b1696b1, 0x9bdc06a725c71235, 0xc19bf174cf692694]
  ++ [0xe49b69c19ef14ad2, 0xefbe4786384f25e3, 0x0fc19dc68b8cd5b5, 0x240ca1cc77ac9c65,
    0x2de92c6f592b0275, 0x4a7484aa6ea6e483, 0x5cb0a9dcbd41fbd4, 0x76f988da831153b5,
    0x983e5152ee66dfab, 0xa831c66d2db43210, 0xb00327c898fb213f, 0xbf597fc7beef0ee4,
    0xc6e00bf33da88fc2, 0xd5a79147930aa725, 0x06ca6351e003826f, 0x142929670a0e6e70]
  ++ [0x27b70a8546d22ffc, 0x2e1b21385c26c926, 0x4d2c6dfc5ac42aed, 0x53380d139d95b3df,
    0x650a73548baf63de, 0x766a0abb3c77b2a8, 0x81c2c92e47edaee6, 0x92722c851482353b,
    0xa2bfe8a14cf10364, 0xa81a664bbc423001, 0xc24b8b70d0f89791, 0xc76c51a30654be30,
    0xd192e819d6ef5218, 0xd69906245565a910, 0xf40e35855771202a, 0x106aa07032bbd1b8]
  ++ [0x19a4c116b8d2d0c8, 0x1e376c085141ab53, 0x2748774cdf8eeb99, 0x34b0bcb5e19b48a8,
    0x391c0cb3c5c95a63, 0x4ed8aa4ae3418acb, 0x5b9cca4f7763e373, 0x682e6ff3d6b2b8a3,
    0x748f82ee5defb2fc, 0x78a5636f43172f60, 0x84c87814a1f0ab72, 0x8cc702081a6439ec,
    0x90befffa23631e28, 0xa4506cebde82bde9, 0xbef9a3f7b2c67915, 0xc67178f2e372532b]
  ++ [0xca273eceea26619c, 0xd186b8c721c0c207, 0xeada7dd6cde0eb1e, 0xf57d4f7fee6ed178,
    0x06f067aa72176fba, 0x0a637dc5a2c898a6, 0x113f9804bef90dae, 0x1b710b35131c471b,
    0x28db77f523047d84, 0x32caab7b40c72493, 0x3c9ebe0a15c9bebc, 0x431d67c49c100d4c,
    0x4cc5d4becb3e42b6, 0x597f299cfc657e2a, 0x5fcb6fab3ad6faec, 0x6c44198c4a475817]

/-- The initial hash value. -/
def shaInit : List Nat := [
  0x6a09e667f3bcc908, 0xbb67ae8584caa73b, 0x3c6ef372fe94f82b, 0xa54ff53a5f1d36f1,
  0x510e527fade682d1, 0x9b05688c2b3e6c1f, 0x1f83d9abfb41bd6b, 0x5be0cd19137e2179]

/-- A word turned right. -/
def rotr (n x : Nat) : Nat := Nat.lor (x / 2 ^ n) (x % 2 ^ n * 2 ^ (64 - n))

def xor3 (a b c : Nat) : Nat := Nat.xor (Nat.xor a b) c

/-- The message schedule of a block, newest word first: `n` words more. -/
def shaSchedule : Nat → List Nat → List Nat
  | 0, w => w
  | n + 1, w =>
    let x := w.getD 14 0
    let y := w.getD 1 0
    let s0 := xor3 (rotr 1 x) (rotr 8 x) (x / 2 ^ 7)
    let s1 := xor3 (rotr 19 y) (rotr 61 y) (y / 2 ^ 6)
    shaSchedule n ((s1 + w.getD 6 0 + s0 + w.getD 15 0) % 2 ^ 64 :: w)

/-- One round on the eight working variables; `kw` is the round's constant and word. -/
def shaRound (v : List Nat) (kw : Nat × Nat) : List Nat :=
  match v with
  | [a, b, c, d, e, f, g, h] =>
    let s1 := xor3 (rotr 14 e) (rotr 18 e) (rotr 41 e)
    let ch := Nat.xor (Nat.land e f) (Nat.land (2 ^ 64 - 1 - e) g)
    let t1 := h + s1 + ch + kw.1 + kw.2
    let s0 := xor3 (rotr 28 a) (rotr 34 a) (rotr 39 a)
    let maj := xor3 (Nat.land a b) (Nat.land a c) (Nat.land b c)
    [(t1 + s0 + maj) % 2 ^ 64, a, b, c, (d + t1) % 2 ^ 64, e, f, g]
  | _ => v

/-- One block of 128 bytes. -/
def shaBlock (h block : List Nat) : List Nat :=
  let w := ((List.range 16).map fun i => natBe ((block.drop (8 * i)).take 8)).reverse
  let v := (shaK.zip (shaSchedule 64 w).reverse).foldl shaRound h
  List.zipWith (fun x y => (x + y) % 2 ^ 64) h v

/-- Blocks of 128 bytes, `n` of them. -/
def shaBlocks : Nat → List Nat → List Nat → List Nat
  | 0, h, _ => h
  | n + 1, h, l => shaBlocks n (shaBlock h (l.take 128)) (l.drop 128)

/-- SHA-512 of bytes: 64 bytes. -/
def sha512 (l : List Nat) : List Nat :=
  let n := l.length
  let zeros := (239 - n % 128) % 128
  let m := l ++ 0x80 :: List.replicate zeros 0 ++ bytesBe 16 (8 * n)
  (shaBlocks ((n + zeros + 17) / 128) shaInit m).flatMap (bytesBe 8)

/-! ### Ed25519 -/

/-- The field's prime, and the group order. -/
def edP : Nat := 2 ^ 255 - 19
def edL : Nat := 2 ^ 252 + 27742317777372353535851937790883648493

/-- `b ^ e` modulo `m`, for `e` below 2^`n`: from the highest bit down. -/
def powMod (m b e : Nat) : Nat → Nat
  | 0 => 1
  | n + 1 =>
    let r := powMod m b (e / 2) n
    if e % 2 = 1 then r * r % m * b % m else r * r % m

def edInv (x : Nat) : Nat := powMod edP x (edP - 2) 255

/-- The curve's d, and a square root of -1. -/
def edD : Nat := (edP - 121665) * edInv 121666 % edP
def edI : Nat := powMod edP 2 ((edP - 1) / 4) 255

/-- A point in extended coordinates (RFC 8032, 5.1.4). -/
structure EdPoint where
  x : Nat
  y : Nat
  z : Nat
  t : Nat
  deriving DecidableEq, Repr

def EdPoint.zero : EdPoint := ⟨0, 1, 1, 0⟩

/-- The sum of two points. -/
def EdPoint.add (p q : EdPoint) : EdPoint :=
  let sub (u v : Nat) : Nat := u + edP - v
  let a := sub p.y p.x * sub q.y q.x % edP
  let b := (p.y + p.x) * (q.y + q.x) % edP
  let c := 2 * (p.t * q.t % edP * edD) % edP
  let d := 2 * (p.z * q.z) % edP
  let e := sub b a
  let f := sub d c
  let g := d + c
  let h := b + a
  ⟨e * f % edP, g * h % edP, f * g % edP, e * h % edP⟩

/-- `k` times a point, for `k` below 2^`n`. -/
def EdPoint.times (p : EdPoint) (k : Nat) : Nat → EdPoint
  | 0 => .zero
  | n + 1 =>
    let r := p.times (k / 2) n
    let r := r.add r
    if k % 2 = 1 then r.add p else r

/-- Whether two points are the same. -/
def EdPoint.same (p q : EdPoint) : Bool :=
  decide (p.x * q.z % edP = q.x * p.z % edP) && decide (p.y * q.z % edP = q.y * p.z % edP)

/-- The point that 32 bytes encode (5.1.3). -/
def edDecode (l : List Nat) : Option EdPoint :=
  let v := natLe l
  let y := v % 2 ^ 255
  let sign := v / 2 ^ 255 % 2
  if l.length ≠ 32 ∨ edP ≤ y then none
  else
    let u := (y * y + edP - 1) % edP
    let w := (edD * (y * y % edP) + 1) % edP
    let x := u * powMod edP w 3 2 % edP * powMod edP (u * powMod edP w 7 3 % edP) ((edP - 5) / 8) 255 % edP
    let root : Option Nat :=
      if w * (x * x % edP) % edP = u then some x
      else if (w * (x * x % edP) + u) % edP = 0 then some (x * edI % edP) else none
    match root with
    | none => none
    | some x =>
      if x = 0 ∧ sign = 1 then none
      else
        let x := if x % 2 = sign then x else edP - x
        some ⟨x, y, 1, x * y % edP⟩

/-- The base point: y is 4/5, and x is even. -/
def edBase : EdPoint := (edDecode (bytesBe 32 (4 * edInv 5 % edP)).reverse).getD .zero

/-- Verification (5.1.7), by its group equation with the cofactor 8. RFC 8032 allows the check without it as well: the two differ
for points of small order alone (DESIGN CHOICE, log 28). -/
def ed25519Verify (key msg sig : List Byte) : Bool :=
  let key := key.map BitVec.toNat
  let msg := msg.map BitVec.toNat
  let sig := sig.map BitVec.toNat
  let s := natLe (sig.drop 32)
  match edDecode key, edDecode (sig.take 32) with
  | some a, some r =>
    let k := natLe (sha512 (sig.take 32 ++ key ++ msg)) % edL
    decide (sig.length = 64) && decide (s < edL)
      && EdPoint.same (edBase.times (8 * s) 256) ((r.times 8 4).add ((a.times k 253).times 8 4))
  | _, _ => false

end Sys2Proof.Machine
end

