-- ==== Sys2Proof/Machine/Serial.lean ====
section
/-! DEFINITION. The serial ports (chapter 11): UART0 with its queues, address mode, DMA ring and time-of-day sentences, the slow
receiver, the card interface, and their registers. -/

namespace Sys2Proof.Machine

/-! ### Bit decision (R358) -/

/-- A bit as its three samples decide it: the centre, or the majority. -/
def decideBit (maj : Bool) (b : BitVec 3) : Bool :=
  if maj then (b.getLsbD 0 && b.getLsbD 1) || (b.getLsbD 0 && b.getLsbD 2) || (b.getLsbD 1 && b.getLsbD 2)
  else b.getLsbD 1

/-- Whether the samples of a bit disagree. -/
def bitNoisy (b : BitVec 3) : Bool := b != 0#3 && b != 7#3

/-- The number that bits spell, lowest first. -/
def natOfBits : List Bool → Nat
  | [] => 0
  | b :: t => (if b then 1 else 0) + 2 * natOfBits t

/-- Whether an odd number of bits is 1. -/
def oddBits (l : List Bool) : Bool := l.foldl xor false

/-! ### UART0 queues (R360, R361) -/

def Dev.setUa0 (d : Dev) (f : Ua0S → Ua0S) : Dev := { d with ua0 := f d.ua0 }

/-- UA0_RTS_N follows the receive queue's level (R361). -/
def Dev.ua0Rts (d : Dev) : Dev :=
  let n := d.ua0.rx.length
  let low :=
    if !d.on F.ua0CfgFlow then true
    else if d.get F.ua0FlowRtsHi ≤ n then false
    else if n ≤ d.get F.ua0FlowRtsLo then true
    else d.ua0.rtsLow
  d.setUa0 fun u => { u with rtsLow := low }

/-- An entry for the receive queue; a full queue drops it (R360). -/
def Dev.ua0Queue (d : Dev) (e : RxEntry) : Dev :=
  if 32 ≤ d.ua0.rx.length then (d.put F.ua0StatusOvr 1).bump F.ua0CntOvr
  else (d.setUa0 fun u => { u with rx := u.rx ++ [e] }).ua0Rts

/-- Read UA0_DATA (R360). With the queue empty VALID is 0, and the manual states neither DATA nor FLAGS. -/
def Dev.ua0Pop (d : Dev) : Word × Dev :=
  match d.ua0.rx with
  | [] => (BitVec.ofNat 32 (Config.unstated d.fresh % 0x2000), d.draw.2)
  | e :: t =>
    (BitVec.ofNat 32 (e.data.toNat + 0x200 * e.flags.toNat + 0x8000), (d.setUa0 fun u => { u with rx := t }).ua0Rts)

/-- Write UA0_DATA (R360). -/
def Dev.ua0Push (d : Dev) (v : BitVec 9) : Status × Dev :=
  if 16 ≤ d.ua0.tx.length then (.eqfull, d) else (.ok, d.setUa0 fun u => { u with tx := u.tx ++ [v] })

/-- Data bits of a character. -/
def Dev.ua0Bits (d : Dev) : Nat := if d.on F.ua0CfgNine then 9 else if d.on F.ua0CfgBits7 then 7 else 8

/-- Whether a parity bit is sent. -/
def Dev.ua0HasPar (d : Dev) : Bool := !d.on F.ua0CfgNine && decide (d.get F.ua0CfgPar ≠ 0)

/-- Whether a character is being sent. -/
def Dev.ua0Sending (d : Dev) : Bool :=
  match d.ua0.shift with
  | some s => decide (d.now < s.2)
  | none => false

/-- The transmitter is ready for its next character and sees UA0_CTS_N (R361). -/
def Dev.ua0TxStart (d : Dev) (ctsLow : Bool) : Dev :=
  let d := d.setUa0 fun u => { u with ctsLow := ctsLow }
  if !d.on F.ua0CtrlEn || !d.coreOn || (d.on F.ua0CfgFlow && !ctsLow) then d
  else match d.ua0.tx with
    | [] => d
    | c :: t =>
      let n := 2 + d.ua0Bits + (if d.ua0HasPar then 1 else 0) + (if d.on F.ua0CfgStop2 then 1 else 0)
      let long := n * d.get F.ua0Baud * d.time.incr.toNat / 2 ^ 40
      d.setUa0 fun u => { u with tx := t, shift := some (c, d.now + long) }

/-! ### Time-of-day sentences (R366 to R369) -/

/-- The number that decimal digits spell. -/
def decimal (l : List Nat) : Option Nat :=
  if l.all fun c => decide (48 ≤ c ∧ c ≤ 57) then some (l.foldl (fun n c => 10 * n + (c - 48)) 0) else none

/-- An upper-case hexadecimal digit. -/
def hexDigit (c : Nat) : Option Nat :=
  if 48 ≤ c ∧ c ≤ 57 then some (c - 48) else if 65 ≤ c ∧ c ≤ 70 then some (c - 55) else none

/-- The fields of a sentence (Table 11.2). -/
structure Tod where
  date : Nat
  time : Nat
  ofs : Int
  leap : Nat
  leapDate : Nat
  sum : Nat
  deriving DecidableEq, Repr

/-- The syntax of Table 11.2 over the characters from "$" to LF. -/
def todParse (s : List Nat) : Option Tod := do
  let k ← if s.getD 24 0 = 44 then some 2 else if s.getD 25 0 = 44 then some 3 else none
  let r := s.drop (23 + k)
  guard (s.take 5 = [36, 84, 79, 68, 44] ∧ s.getD 13 0 = 44 ∧ s.getD 20 0 = 44 ∧ r.length = 15)
  guard (r.getD 1 0 = 44 ∧ r.getD 10 0 = 42 ∧ r.getD 13 0 = 13 ∧ r.getD 14 0 = 10)
  let date ← decimal ((s.drop 5).take 8)
  let time ← decimal ((s.drop 14).take 6)
  let ofs ← decimal ((s.drop 22).take k)
  let sign ← if s.getD 21 0 = 43 then some (1 : Int) else if s.getD 21 0 = 45 then some (-1) else none
  let leap ← if r.getD 0 0 = 48 then some 0 else if r.getD 0 0 = 43 then some 1 else if r.getD 0 0 = 45 then some 2 else none
  let leapDate ← decimal ((r.drop 2).take 8)
  let h ← hexDigit (r.getD 11 0)
  let l ← hexDigit (r.getD 12 0)
  return ⟨date, time, sign * ofs, leap, leapDate, 16 * h + l⟩

/-- The XOR of every character between "$" and "*". -/
def todSum (s : List Nat) : Nat := ((s.drop 1).takeWhile (· ≠ 42)).foldl Nat.xor 0

def leapYear (y : Nat) : Bool := decide (y % 4 = 0) && (decide (y % 100 ≠ 0) || decide (y % 400 = 0))

def monthDays (y m : Nat) : Nat :=
  if m = 2 then (if leapYear y then 29 else 28) else if m = 4 ∨ m = 6 ∨ m = 9 ∨ m = 11 then 30 else 31

/-- Whether YYYYMMDD is a date of the Gregorian calendar. -/
def dateOk (n : Nat) : Bool :=
  let (y, m, d) := (n / 10000, n / 100 % 100, n % 100)
  decide (1 ≤ y) && decide (1 ≤ m ∧ m ≤ 12) && decide (1 ≤ d ∧ d ≤ monthDays y m)

/-- Days of the date since 1970-01-01. -/
def dayOf (n : Nat) : Int :=
  let (y, m, d) := (n / 10000, n / 100 % 100, n % 100)
  let p := y - 1
  let before := 365 * p + p / 4 - p / 100 + p / 400
  let inYear := ((List.range (m - 1)).map fun i => monthDays y (i + 1)).sum + d - 1
  (before + inYear : Nat) - 719162

/-- The range rules of R368. -/
def Tod.ok (t : Tod) : Bool :=
  let (h, m, s) := (t.time / 10000, t.time / 100 % 100, t.time % 100)
  dateOk t.date && decide (19700101 ≤ t.date ∧ t.date ≤ 21551231) && (decide (t.leapDate = 0) || dateOk t.leapDate)
    && decide (h < 24) && decide (m < 60)
    && (decide (s < 60) || (decide (s = 60) && decide (t.leap = 1) && decide (t.date = t.leapDate)
      && decide (t.time = 235960)))
    && (decide (t.leap = 0) == decide (t.leapDate = 0))

/-- The label in TAI seconds (R369). -/
def Tod.sec (t : Tod) : Int :=
  dayOf t.date * 86400 + (t.time / 10000 * 3600 + t.time / 100 % 100 * 60 + t.time % 100 : Nat) + t.ofs

/-- S_L (R369). -/
def Tod.leapAt (t : Tod) : Int := (dayOf t.leapDate + 1) * 86400 + t.ofs + (if t.leap = 1 then 1 else -1)

/-- A sentence is judged (R368) and, if it is valid, timed under R77. -/
def Dev.todJudge (d : Dev) (l : List RxEntry) : Dev :=
  let s := l.map fun e => e.data.toNat % 256
  let d := d.put F.ua0TodStatValid 1
  let bad (r : Nat) : Dev := (d.put F.ua0TodStatReason r).bump F.ua0CntTodBad
  if (l.any fun e => e.flags != 0#4) || decide (s.getLastD 0 ≠ 10) then bad 1
  else match todParse s with
    | none => bad 2
    | some t =>
      if t.sum ≠ todSum s then bad 3
      else if !t.ok then bad 4
      else if d.get F.refCtrlTodSrc ≠ 1 then d.put F.ua0TodStatReason 0
      else
        let timely := match d.ref.lastPps with
          | some p => decide (p + 10 * blockTk ≤ d.now) && decide ((d.now : Int) ≤ p + 950 * blockTk)
          | none => false
        if !timely || d.ref.sentence.isSome then (d.put F.ua0TodStatReason 5).bump F.refCntLabelBad
        else
          let v := (t.sec % (2 ^ 64 : Nat)).toNat
          ({ d with ref := { d.ref with sentence := some ⟨t.sec, t.ofs, t.leap, t.leapAt⟩ } }.put64 F.ua0TodSecLo
            F.ua0TodSecHi v).put F.ua0TodStatReason 0

/-- The parser takes a data character (R366). -/
def Dev.todChar (d : Dev) (e : RxEntry) : Dev :=
  let c := e.data.toNat % 256
  let copy := d.on F.ua0CfgTodCopy
  let setCand (x : Option (List RxEntry)) (d : Dev) : Dev := d.setUa0 fun u => { u with cand := x }
  let d' := match d.ua0.cand with
    | none =>
      if c = 36 ∧ (d.ua0.prevLf || d.ua0.first) = true then
        setCand (some [e]) (if copy then d.ua0Queue e else d)
      else d.ua0Queue e
    | some l =>
      let l' := l ++ [e]
      let d := if copy then d.ua0Queue e else d
      if l.length < 5 ∧ [36, 84, 79, 68, 44].getD l.length 0 ≠ c then
        setCand none (if copy then d else d.each l' fun e d => d.ua0Queue e)
      else if c = 10 ∨ 64 ≤ l'.length then (setCand none d).todJudge l'
      else setCand (some l') d
  d'.setUa0 fun u => { u with prevLf := decide (c = 10), first := false }

/-! ### UART0 reception (R356 to R362) -/

/-- Whether an address character matches (R362). -/
def Dev.addrMatch (d : Dev) (a : Nat) : Bool :=
  decide ((a ^^^ d.get F.ua0AddrAddr) &&& d.get F.ua0AddrMask = 0)
    || (d.on F.ua0AddrBcastEn && decide (a = d.get F.ua0AddrBcast))

/-- A start bit that is decided as 1. -/
def Dev.ua0False (d : Dev) : Dev :=
  if d.on F.ua0CtrlEn && d.coreOn then (d.setUa0 fun u => { u with rxBusy := false }).bump F.ua0CntFalse else d

/-- A character with its flags is counted, and its flags reach UA0_STATUS. -/
def Dev.ua0Count (d : Dev) (e : RxEntry) : Dev :=
  let d := d.bump F.ua0CntRx
  let d := if e.flags.getLsbD 0 then (d.put F.ua0StatusNoise 1).bump F.ua0CntNoise else d
  let d := if e.flags.getLsbD 1 then (d.put F.ua0StatusFrame 1).bump F.ua0CntFrame else d
  let d := if e.flags.getLsbD 2 then (d.put F.ua0StatusPar 1).bump F.ua0CntPar else d
  if e.flags.getLsbD 3 then d.put F.ua0StatusBreak 1 else d

/-- A character's entry from its decided bits after the start bit: `n` data bits, the parity bit if any, the stop bit. -/
def rxEntry (n par : Nat) (noise : Bool) (v : List Bool) : RxEntry :=
  let data := v.take n
  let stop := v.getLastD true
  let parBad := decide (par ≠ 0) && (oddBits (v.take (n + 1)) != decide (par = 2))
  let brk := v.all (!·)
  let b (x : Bool) (k : Nat) : Nat := if x then 2 ^ k else 0
  ⟨BitVec.ofNat 9 (natOfBits data), BitVec.ofNat 4 (b noise 0 + b (!stop && !brk) 1 + b parBad 2 + b brk 3)⟩

/-- A UART0 character completes; no bits at all say that its start bit has begun (R372). -/
def Dev.ua0Rx (d : Dev) (bits : List (BitVec 3)) : Dev :=
  let maj := d.on F.ua0CfgDec
  let n := d.ua0Bits
  let par := if d.ua0HasPar then d.get F.ua0CfgPar else 0
  if !d.on F.ua0CtrlEn || !d.coreOn || d.ua0.slowOn then d
  else if bits.isEmpty then d.setUa0 fun u => { u with rxBusy := true }
  else if bits.length ≠ n + 2 + (if par = 0 then 0 else 1) then d
  else
    let d := d.setUa0 fun u => { u with rxBusy := false }
    let v := bits.map (decideBit maj)
    if v.headD true then d.ua0False
    else
      let e := rxEntry n par (maj && bits.any bitNoisy) (v.drop 1)
      if !d.on F.ua0CfgNine then
        let d := d.ua0Count e
        if d.on F.ua0CfgTodEn then d.todChar e else d.ua0Queue e
      else if e.data.getLsbD 8 then
        let hit := d.addrMatch (e.data.toNat % 256)
        let d := (d.ua0Count e).setUa0 fun u => { u with selected := hit }
        if hit then d.ua0Queue e else d
      else if !d.ua0.selected then d
      else
        let d := d.ua0Count e
        if d.on F.ua0CfgTodEn then d.todChar e else d.ua0Queue e

/-! ### Receive DMA (R363 to R365) -/

/-- The ring's rules, which a write of 1 to UA0_DMA_CFG.EN needs (R363). -/
def Dev.ringOk (d : Dev) : Bool :=
  let a := d.get F.ua0DmaBase
  let n := d.get F.ua0DmaLen
  decide (a % 32 = 0) && decide (n % 32 = 0) && decide (64 ≤ n ∧ n ≤ 65536)
    && decide (spaceOf a = .wave ∨ spaceOf a = .cue) && decide (spaceOf (a + n - 1) = spaceOf a)

/-- The engine writes bytes of its buffer from `from'` up to `upto`; whether memory took them. -/
def Dev.ringWrite (d : Dev) (from' upto : Nat) : Bool × Dev :=
  let u := d.ua0
  let r := d.writeWhole Master.dma (d.get F.ua0DmaBase + u.lineAt + from') ((u.line.take upto).drop from')
  let d := r.2.put F.ua0DmaStatLastSt r.1.code
  if r.1 = .ok then (true, d.put F.ua0DmaWptr ((u.lineAt + upto) % max 1 (d.get F.ua0DmaLen)))
  else (false, ((d.put F.ua0DmaCfgEn 0).put F.ua0StatusDmaErr 1).setUa0 fun u => { u with line := u.line.take u.written })

/-- A full buffer is written as a full line. -/
def Dev.ringLine (d : Dev) : Dev :=
  if d.ua0.line.length < 32 then d
  else
    let r := d.ringWrite 0 32
    if r.1 then
      r.2.setUa0 fun u =>
        { u with line := u.line.drop 32, written := 0, lineAt := (u.lineAt + 32) % max 1 (d.get F.ua0DmaLen) }
    else r.2

/-- The DMA engine takes an entry from the receive queue. -/
def Dev.dmaTake (d : Dev) : Dev :=
  let u := d.ua0
  let wide := d.on F.ua0DmaCfgWide
  let size := if wide then 2 else 1
  let len := max 1 (d.get F.ua0DmaLen)
  let at' := (u.lineAt + u.line.length) % len
  let room := (d.get F.ua0DmaRptr % len + 2 * len - 1 - at') % len
  if !d.on F.ua0DmaCfgEn || !d.on F.ua0CtrlEn || !d.coreOn || decide (room < size) then d
  else match u.rx with
    | [] => d
    | e :: t =>
      let v := e.data.toNat + 512 * e.flags.toNat
      let lost := !wide && (e.flags != 0#4 || e.data.getLsbD 8)
      let d := (d.setUa0 fun u => { u with rx := t, line := u.line ++ bytesOf v size }).ua0Rts
      (d.whenB lost fun d => d.bump F.ua0CntFlaglost).ringLine

/-- The bytes gathered since the last write are written as a partial write (R364). -/
def Dev.dmaFlush (d : Dev) : Dev :=
  let u := d.ua0
  if u.line.length ≤ u.written then d
  else
    let r := d.ringWrite u.written u.line.length
    if r.1 then ((r.2.setUa0 fun u => { u with written := u.line.length }).put F.ua0DmaStatFlushed 1).bump F.ua0CntFlush
    else r.2

/-- No character has completed for UA0_DMA_CFG.TO bit periods. -/
def Dev.dmaTimeout (d : Dev) : Dev := if d.on F.ua0DmaCfgEn && d.coreOn then d.dmaFlush else d

/-- UA0_CTRL.EN written 0 (R383). -/
def Dev.ua0Stop (d : Dev) : Dev := (d.setUa0 fun u => { u with cand := none, rxBusy := false }).dmaFlush

/-- UA0_CTRL.EN written 1: the port starts. -/
def Dev.ua0Start (d : Dev) : Dev :=
  let full := d.on F.ua0CfgFlow && decide (d.get F.ua0FlowRtsHi ≤ d.ua0.rx.length)
  d.setUa0 fun u => { u with first := true, prevLf := false, rtsLow := !full }

/-! ### The slow receiver (R370, R371) -/

/-- A slow character of 11 bits; whether it is the match that wakes. -/
def Dev.slowRx (d : Dev) (bits : List (BitVec 3)) : Bool × Dev :=
  let v := bits.map (decideBit true)
  if !d.ua0.slowOn || !d.on F.pwrStatusSxiOk || decide (bits.length ≠ 11) then (false, d)
  else if v.headD true then (false, d.bump F.ua0CntFalse)
  else
    let e := rxEntry 9 0 (bits.any bitNoisy) (v.drop 1)
    let hit := e.data.getLsbD 8 && d.addrMatch (e.data.toNat % 256)
    if d.ua0.slowSel then
      (false, if (e.data.getLsbD 8 && !hit) || decide (4 ≤ d.ua0.slowBuf.length) then d
        else d.setUa0 fun u => { u with slowBuf := u.slowBuf ++ [e] })
    else if hit && v.getLastD false then
      (true, ((d.setUa0 fun u => { u with slowSel := true, slowBuf := [e] }).put F.ua0StatusWoke 1).bump F.ua0CntWake)
    else (false, d)

/-- Hand-over to the main receiver, once the CORE domain runs. -/
def Dev.slowHandover (d : Dev) : Dev :=
  if !d.ua0.slowSel || !d.coreOn then d
  else
    let buf := d.ua0.slowBuf
    let d := d.setUa0 fun u => { u with slowSel := false, slowOn := false, slowBuf := [], selected := true }
    d.each buf fun e d => (d.ua0Count e).ua0Queue e

/-- The conditions of R372. -/
def Dev.serialIdle (d : Dev) : Bool :=
  !(d.on F.ua0CtrlEn && (!d.on F.ua0SlowEn || d.on F.ua0CfgTodEn)) && d.ua0.rx.isEmpty && d.ua0.tx.isEmpty
    && decide (d.ua0.line.length ≤ d.ua0.written) && !d.ua0Sending && !d.ua0.rxBusy
    && decide (d.get F.ua1StatusState = 0)

/-! ### The card: states and failures (R373, R381) -/

def Dev.setUa1 (d : Dev) (f : Ua1S → Ua1S) : Dev := { d with ua1 := f d.ua1 }

/-- UA1_STATUS.STATE. -/
def Card.off : Nat := 0
def Card.activating : Nat := 1
def Card.atr : Nat := 2
def Card.ready : Nat := 3
def Card.exchange : Nat := 4
def Card.deactivating : Nat := 5

def Dev.card (d : Dev) : Nat := d.get F.ua1StatusState

/-- Whether CARD_DET shows a card. -/
def Dev.cardPresent (d : Dev) : Bool := d.ua1.det != d.on F.ua1CfgDetPol

/-- Deactivation begins (R381): CARD_RST_N goes low, and 24 card clocks follow. -/
def Dev.cardDeact (d : Dev) : Dev :=
  if d.card = Card.off ∨ d.card = Card.deactivating then d
  else (d.setUa1 fun u => { u with
    all := false, one := false, sw1 := none, line := [], wait := [], rep := 0, rstHigh := false,
    deact := some (24 * d.get F.ua1CfgClkdiv, d.get F.ua1CfgClkdiv) }).put F.ua1StatusState Card.deactivating

/-- A failure (R381); an update step that uses the card stops (R446). -/
def Dev.cardFail (d : Dev) (why : Nat) : Dev :=
  let st : Status := if why = 10 then .epoison else .estate
  let d := ((((d.put F.ua1StatusFail why).put F.ua1StatusErr 1).put F.ua1StatusDone 1).put F.ua1StatusLastSt st.code).bump
    F.ua1CntFail
  let d := if 2 ≤ why then d.cardDeact else d
  if d.on F.ua1StatusUpd then
    { d with upd := { d.upd with outcome := some (.estate, 1, 0, 0) } }.put F.updEventCard 1
  else d

/-- Activation begins (R373): CARD_RST_N is low, CARD_VCC_EN active, CARD_IO released. -/
def Dev.cardBegin (d : Dev) : Dev :=
  let d := (d.setUa1 fun u => { u with
    clk := false, atr := [], rep := 0, rstHigh := false, vccEn := true, ioFree := true }).put F.ua1StatusState Card.activating
  { d with upd := { d.upd with app := false, ef := none } }

/-- A write of 1 to ACT in OFF. -/
def Dev.cardAct (d : Dev) : Dev := if d.cardPresent then d.cardBegin else d.cardFail 1

/-- One XI cycle of the deactivation (R381): after 8 card clocks CARD_CLK stops low, after 16 CARD_IO is driven low, after 24 CARD_VCC_EN
is released and STATE becomes OFF. ACT is refused for 10 ms then, and an update step that waits for the card activates it (R429). -/
def Dev.cardCycle (d : Dev) : Dev :=
  match d.ua1.deact with
  | none => d
  | some (k, div) =>
    let left := k - 1
    let d := d.setUa1 fun u => { u with
      deact := some (left, div), clk := u.clk && decide (16 * div < left), ioFree := u.ioFree && decide (8 * div < left) }
    if 0 < left then d
    else
      let d := (d.setUa1 fun u => { u with deact := none, vccEn := false, lockout := d.now + 10 * blockTk }).put
        F.ua1StatusState Card.off
      if d.on F.ua1StatusUpd && d.upd.outcome.isNone then
        if d.pwr.vioB && d.cardPresent then d.cardBegin else d.cardFail 1
      else d

/-- CARD_CLK starts. -/
def Dev.cardClk (d : Dev) : Dev :=
  if d.card = Card.activating ∧ d.coreOn = true then d.setUa1 fun u => { u with clk := true } else d

/-- CARD_RST_N goes high. -/
def Dev.cardRelease (d : Dev) : Dev :=
  if d.card = Card.activating ∧ d.ua1.clk = true ∧ d.coreOn = true then
    (d.setUa1 fun u => { u with rstHigh := true }).put F.ua1StatusState Card.atr
  else d

/-- No TS came (R374). -/
def Dev.cardTsTimeout (d : Dev) : Dev :=
  if d.card = Card.atr ∧ d.ua1.atr = [] ∧ d.coreOn = true then d.cardFail 2 else d

/-- The ATR's gap or length in time ran over (R376). -/
def Dev.cardAtrTimeout (d : Dev) : Dev :=
  if d.card = Card.atr ∧ d.ua1.atr ≠ [] ∧ d.coreOn = true then d.cardFail 4 else d

/-- CARD_DET shows the card gone (R381). -/
def Dev.cardGone (d : Dev) : Dev :=
  let d := d.setUa1 fun u => { u with det := d.on F.ua1CfgDetPol }
  if d.card = Card.off then d else d.cardFail 9

/-! ### The ATR (R376, R377) -/

/-- What an ATR has said: TA1, TC1, TC2, TA2, the T of TD1, and whether any TD names a protocol other than T=0. -/
structure Atr where
  ta1 : Option Nat
  tc1 : Option Nat
  ta2 : Option Nat
  tc2 : Option Nat
  t1 : Option Nat
  other : Bool
  deriving DecidableEq, Repr

/-- The next byte where it is announced. -/
def atrByte (here : Bool) (l : List Nat) : Option (Option Nat × List Nat) :=
  if here then match l with
    | [] => none
    | b :: t => some (some b, t)
  else some (none, l)

/-- The interface bytes of group `i` on, announced by `y`: none while bytes are missing. -/
def atrGroups : Nat → Nat → Nat → List Nat → Atr → Option (Atr × List Nat)
  | 0, _, _, l, a => some (a, l)
  | fuel + 1, i, y, l, a => do
    let (ta, l) ← atrByte (y.testBit 0) l
    let (_, l) ← atrByte (y.testBit 1) l
    let (tc, l) ← atrByte (y.testBit 2) l
    let (td, l) ← atrByte (y.testBit 3) l
    let a := if i = 1 then { a with ta1 := ta, tc1 := tc } else if i = 2 then { a with ta2 := ta, tc2 := tc } else a
    match td with
    | none => some (a, l)
    | some v =>
      let a := { a with other := a.other || decide (v % 16 ≠ 0), t1 := if i = 1 then some (v % 16) else a.t1 }
      atrGroups fuel (i + 1) (v / 16) l a

/-- An ATR after TS: what it says once all its bytes are there. -/
def atrParse (l : List Nat) : Option Atr := do
  let (t0, r) ← atrByte true l
  let t0 := t0.getD 0
  let (a, r) ← atrGroups 34 1 (t0 / 16) r ⟨none, none, none, none, none, false⟩
  guard (t0 % 16 + (if a.other then 1 else 0) ≤ r.length)
  return a

/-- Fi and Di of TA1 (ISO 7816-3; PRESUMED, log 14). -/
def fiOf (ta1 : Nat) : Option Nat :=
  [some 372, some 372, some 558, some 744, some 1116, some 1488, some 1860, none, none, some 512, some 768, some 1024,
   some 1536, some 2048, none, none].getD (ta1 / 16) none

def diOf (ta1 : Nat) : Option Nat :=
  [none, some 1, some 2, some 4, some 8, some 16, some 32, some 64, some 12, some 20, none, none, none, none, none,
   none].getD (ta1 % 16) none

/-- Fi/Di where it is an integer between 31 and 2,048. -/
def fiDi (ta1 : Nat) : Option Nat := do
  let f ← fiOf ta1
  let q ← diOf ta1
  guard (f % q = 0 ∧ 31 ≤ f / q ∧ f / q ≤ 2048)
  return f / q

/-- The ETU that an ATR gives, or none where the port fails with cause 5. -/
def Atr.etu (a : Atr) : Option Nat := do
  let e ← fiDi (a.ta1.getD 0x11)
  match a.ta2 with
  | none => do
    guard (a.t1.getD 0 = 0)
    return 372
  | some v => do
    guard (v % 16 = 0 ∧ v.testBit 4 = false)
    return e

/-- A complete ATR sets the parameters, or fails. -/
def Dev.atrDone (d : Dev) (a : Atr) (l : List Nat) : Dev :=
  if a.other = true ∧ l.foldl Nat.xor 0 ≠ 0 then d.cardFail 4
  else match a.etu with
    | none => d.cardFail 5
    | some etu =>
      let n := a.tc1.getD 0
      ((((d.put F.ua1ParamEtu etu).put F.ua1ParamGt (if n = 255 then 12 else 12 + n)).put F.ua1ParamWi (a.tc2.getD 10)).put
        F.ua1StatusState Card.ready)

/-- An ATR byte joins UA1_ATR. -/
def Dev.atrStore (d : Dev) (b : Byte) : Dev :=
  let k := d.ua1.atr.length
  let d := if k = 0 then d.each (List.range 9) fun i d => d.put (F.ua1Atr i) 0 else d
  let w := d.reg (F.ua1Atr (k / 4)).addr
  ((d.setReg (F.ua1Atr (k / 4)).addr (insBits w (8 * (k % 4)) 8 b.toNat)).put F.ua1AtrLen (k + 1)).setUa1
    fun u => { u with atr := u.atr ++ [b] }

/-- An ATR byte after TS. -/
def Dev.atrNext (d : Dev) (b : Byte) : Dev :=
  if 33 ≤ d.ua1.atr.length then d.cardFail 4
  else
    let d := d.atrStore b
    let l := (d.ua1.atr.drop 1).map (·.toNat)
    match atrParse l with
    | none => d
    | some a => d.atrDone a l

/-- TS (R374): the raw levels of the eight data bits and the parity bit. -/
def Dev.atrTs (d : Dev) (v : List Bool) : Dev :=
  let v := v.take 9
  if v = [true, true, false, true, true, true, false, false, true] then (d.put F.ua1StatusConv 0).atrStore 0x3B
  else if v = [true, true, false, false, false, false, false, false, true] then (d.put F.ua1StatusConv 1).atrStore 0x3F
  else d.cardFail 3

/-! ### T=0 (R378 to R380) -/

/-- Data bytes of the exchange. -/
def Dev.cardLen (d : Dev) : Nat :=
  if d.on F.ua1XcfgDir && decide (d.get F.ua1XcfgP3 = 0) then 256 else d.get F.ua1XcfgP3

/-- The header byte `k`. -/
def Dev.cardHdr (d : Dev) (k : Nat) : Byte :=
  if k < 4 then BitVec.ofNat 8 (bitsOf (d.reg F.ua1HdrCla.addr) (8 * k) 8) else BitVec.ofNat 8 (d.get F.ua1XcfgP3)

/-- Whether a GO's data lie within one region (R380). -/
def Dev.cardDmaFits (d : Dev) (x : Word) : Bool :=
  let n := if x.getLsbD 8 && decide (bitsOf x 0 8 = 0) then 256 else bitsOf x 0 8
  let a := d.get F.ua1DmaAddr
  decide (n = 0) || (decide (spaceOf a = .wave ∨ spaceOf a = .cue) && decide (spaceOf (a + n - 1) = spaceOf a))

/-- GO in READY. -/
def Dev.cardGo (d : Dev) : Dev :=
  (d.setUa1 fun u => { u with
    sent := 0, pos := 0, all := false, one := false, sw1 := none, line := [], rep := 0, out := [] }).put
    F.ua1StatusState Card.exchange

/-- A character of the card, or the port's, needs a repetition (R375): whether the port goes on. -/
def Dev.cardRepeat (d : Dev) : Dev :=
  if d.get F.ua1CfgRetry ≤ d.ua1.rep then d.cardFail 7
  else (d.setUa1 fun u => { u with rep := u.rep + 1 }).bump F.ua1CntRepeat

/-- The received bytes of a line are written (R380). -/
def Dev.cardStore (d : Dev) : Bool × Dev :=
  if d.ua1.line.isEmpty then (true, d)
  else
    let r := d.writeWhole Master.dma (d.get F.ua1DmaAddr + d.ua1.pos - d.ua1.line.length) d.ua1.line
    (decide (r.1 = .ok), r.2.setUa1 fun u => { u with line := [] })

/-- One more data byte has moved. -/
def Dev.cardMoved (d : Dev) : Dev :=
  let n := d.cardLen
  d.setUa1 fun u => { u with pos := u.pos + 1, one := false, all := u.all && decide (u.pos + 1 < n) }

/-- The bytes of the present line for a send by DMA: whether memory gave them. -/
def Dev.cardFetch (d : Dev) : Bool × Dev :=
  if !d.ua1.line.isEmpty then (true, d)
  else
    let a := d.get F.ua1DmaAddr + d.ua1.pos
    let k := min (d.cardLen - d.ua1.pos) (lineOf a + 32 - a)
    let r := d.readLine Master.dma (lineOf a)
    (!r.1.1.isErr, r.2.setUa1 fun u => { u with line := (r.1.2.drop (a - lineOf a)).take k })

/-- The card took a character. -/
def Dev.cardSent (d : Dev) (b : Byte) : Dev := d.setUa1 fun u => { u with out := u.out ++ [b], rep := 0 }

/-- The port sends its next character; `error` is the card's error signal. -/
def Dev.cardTx (d : Dev) (error : Bool) : Dev :=
  let u := d.ua1
  if d.card ≠ Card.exchange ∨ d.coreOn = false then d
  else if u.sent < 5 then
    if error then d.cardRepeat else (d.cardSent (d.cardHdr u.sent)).setUa1 fun u => { u with sent := u.sent + 1 }
  else if d.on F.ua1XcfgDir || !(u.all || u.one) then d
  else if d.on F.ua1XcfgDma then
    let r := d.cardFetch
    if !r.1 then r.2.cardFail 10
    else if error then r.2.cardRepeat
    else ((r.2.cardSent (r.2.ua1.line.headD 0)).setUa1 fun u => { u with line := u.line.drop 1 }).cardMoved
  else match u.tx with
    | [] => d
    | b :: t => if error then d.cardRepeat else ((d.cardSent b).setUa1 fun u => { u with tx := t }).cardMoved

/-- Bytes that wait enter the receive queue as it has room (R380). -/
def Dev.cardMakeRoom (d : Dev) : Dev :=
  d.setUa1 fun u => { u with rx := u.rx ++ u.wait.take (16 - u.rx.length), wait := u.wait.drop (16 - u.rx.length) }

/-- A received data byte; one for which the queue has no room waits (R380). -/
def Dev.cardData (d : Dev) (b : Byte) : Dev :=
  if d.on F.ua1XcfgDma then
    let d := (d.setUa1 fun u => { u with line := u.line ++ [b] }).cardMoved
    if (d.get F.ua1DmaAddr + d.ua1.pos) % 32 = 0 then
      let r := d.cardStore
      if r.1 then r.2 else r.2.cardFail 10
    else d
  else (d.setUa1 fun u => { u with wait := u.wait ++ [b] }).cardMakeRoom.cardMoved

/-- SW2 completes the exchange (R378). -/
def Dev.cardEnd (d : Dev) (sw1 sw2 : Byte) : Dev :=
  let r := if d.on F.ua1XcfgDir && d.on F.ua1XcfgDma then d.cardStore else (true, d)
  if !r.1 then r.2.cardFail 10
  else
    let d := r.2.setUa1 fun u => { u with sw1 := none, line := [] }
    ((((((d.put F.ua1ResultSw1 sw1.toNat).put F.ua1ResultSw2 sw2.toNat).put F.ua1ResultCount d.ua1.pos).put
      F.ua1StatusLastSt 0).put F.ua1StatusDone 1).put F.ua1StatusState Card.ready).bump F.ua1CntApdu

/-- A procedure byte (Table 11.4). -/
def Dev.cardProc (d : Dev) (b : Byte) : Dev :=
  let ins := d.cardHdr 1
  let left := decide (d.ua1.pos < d.cardLen)
  if b = 0x60#8 then d
  else if b = ins then (if left then d.setUa1 fun u => { u with all := true } else d.cardFail 8)
  else if b = ~~~ins then (if left then d.setUa1 fun u => { u with one := true } else d.cardFail 8)
  else if b.toNat / 16 = 6 ∨ b.toNat / 16 = 9 then d.setUa1 fun u => { u with sw1 := some b }
  else d.cardFail 8

/-- A character of the card without a parity error. -/
def Dev.cardByte (d : Dev) (b : Byte) : Dev :=
  let d := d.setUa1 fun u => { u with rep := 0 }
  let u := d.ua1
  if d.card = Card.atr then d.atrNext b
  else if u.sent < 5 then d
  else match u.sw1 with
    | some s => d.cardEnd s b
    | none =>
      if u.all || u.one then (if d.on F.ua1XcfgDir then d.cardData b else d)
      else d.cardProc b

/-- A character of the card (R375): its ten bits as levels. -/
def Dev.cardRx (d : Dev) (bits : List (BitVec 3)) : Dev :=
  let maj := d.on F.ua1CfgDec
  let v := bits.map (decideBit maj)
  if !d.coreOn || decide (bits.length ≠ 10) || v.headD true || !(decide (d.card = Card.atr) || decide (d.card = Card.exchange))
  then d
  else
    let d := if maj && bits.any bitNoisy then (d.put F.ua1StatusNoise 1).bump F.ua1CntNoise else d
    let lv := v.drop 1
    if d.card = Card.atr ∧ d.ua1.atr = [] then d.atrTs lv
    else
      let inv := d.on F.ua1StatusConv
      let lg := if inv then lv.map (!·) else lv
      if oddBits lg then (d.bump F.ua1CntParerr).cardRepeat
      else
        let data := lg.take 8
        d.cardByte (BitVec.ofNat 8 (natOfBits (if inv then data.reverse else data)))

/-- No character came within WT, or a wait for a queue reached it (R379, R380). -/
def Dev.cardWt (d : Dev) : Dev :=
  let u := d.ua1
  let sending := (u.all || u.one) && !d.on F.ua1XcfgDir && (d.on F.ua1XcfgDma || !u.tx.isEmpty)
  if d.card = Card.exchange ∧ d.coreOn = true ∧ u.sent = 5 ∧ sending = false then d.cardFail 6 else d

/-- A write of UA1_DATA; TX full, nothing is queued (Table 0.5, DEDUCED, log 13). -/
def Dev.ua1Push (d : Dev) (b : Byte) : Status × Dev :=
  if 16 ≤ d.ua1.tx.length then (.eqfull, d) else (.ok, d.setUa1 fun u => { u with tx := u.tx ++ [b] })

/-- A read of UA1_DATA. With RX empty VALID is 0, and the manual states no BYTE. -/
def Dev.ua1Pop (d : Dev) : Word × Dev :=
  match d.ua1.rx with
  | [] => (BitVec.ofNat 32 (Config.unstated d.fresh % 256), d.draw.2)
  | b :: t => (b.zeroExtend 32 ||| 0x100, (d.setUa1 fun u => { u with rx := t }).cardMakeRoom)

/-! ### Registers (Tables 11.5 and 11.6) -/

/-- Registers of UA1 that refuse writes while an update step uses the card (R381). -/
def updHolds (a : Nat) : Bool := a ∈ [F.ua1CtrlEn.addr, F.ua1HdrCla.addr, F.ua1XcfgP3.addr, F.ua1DmaAddr.addr]

/-- EARG, ESTATE, EBUSY and EQFULL of the action bits of UA1_CTRL. -/
def Dev.cardCheck (d : Dev) (w : Word) : Status :=
  let act : Status :=
    if !w.getLsbD 1 then .ok
    else if d.card ≠ Card.off ∨ d.now < d.ua1.lockout ∨ d.pwr.vioB = false ∨ w.getLsbD 0 = false then .estate else .ok
  let go : Status :=
    if !w.getLsbD 3 then .ok
    else if d.on F.ua1XcfgDma && !d.cardDmaFits (d.reg F.ua1XcfgP3.addr) then .earg
    else if d.card = Card.exchange then .ebusy
    else if d.card ≠ Card.ready then .estate else .ok
  let held : Status := if d.on F.ua1StatusUpd then .ebusy else .ok
  Status.first [act, go, held]

/-- Refusals of writes to UA0 and UA1 registers. -/
def Dev.serialCheck (d : Dev) (a : Nat) (w : Word) : Status :=
  if a = F.ua0CfgPar.addr then
    if bitsOf w 1 2 = 3 ∨ (w.getLsbD 4 = true ∧ bitsOf w 1 2 ≠ 0) then .earg else .ok
  else if a = F.ua0Baud.addr then (if bitsOf w 0 24 < 0x1000 then .earg else .ok)
  else if a = F.ua0FlowRtsHi.addr then
    if bitsOf w 8 6 + 1 ≤ bitsOf w 0 6 ∧ bitsOf w 0 6 ≤ 32 then .ok else .earg
  else if a = F.ua0DmaCfgEn.addr then
    if bitsOf w 8 8 < 2 ∨ (w.getLsbD 0 = true ∧ d.ringOk = false) then .earg else .ok
  else if a = F.ua0DataData.addr then (if 16 ≤ d.ua0.tx.length then .eqfull else .ok)
  else if a = F.ua1CfgClkdiv.addr then (if 5 ≤ bitsOf w 0 5 ∧ bitsOf w 0 5 ≤ 24 then .ok else .earg)
  else if a = F.ua1DataByte.addr then (if 16 ≤ d.ua1.tx.length then .eqfull else .ok)
  else if a = F.ua1CtrlEn.addr then d.cardCheck w
  else if updHolds a && d.on F.ua1StatusUpd then .ebusy
  else .ok

/-- What writes to UA0 and UA1 registers start: `old` is the register before, `w1` its W1S bits written. -/
def Dev.serialHook (d : Dev) (a : Nat) (old w1 : Word) : Status × Dev :=
  if a = F.ua0CtrlEn.addr then
    let d := if w1.getLsbD 1 then d.setUa0 fun u => { u with tx := [] } else d
    let d := if w1.getLsbD 2 then (d.setUa0 fun u => { u with rx := [] }).ua0Rts else d
    if old.getLsbD 0 = d.on F.ua0CtrlEn then (.ok, d)
    else (.ok, if d.on F.ua0CtrlEn then d.ua0Start else d.ua0Stop)
  else if a = F.ua0DmaCfgEn.addr then (.ok, if old.getLsbD 0 && !d.on F.ua0DmaCfgEn then d.dmaFlush else d)
  else if a = F.ua0DataData.addr then (d.setReg a 0).ua0Push (BitVec.ofNat 9 (bitsOf (d.reg a) 0 9))
  else if a = F.ua1DataByte.addr then (d.setReg a 0).ua1Push (BitVec.ofNat 8 (bitsOf (d.reg a) 0 8))
  else if a = F.ua1CtrlEn.addr then
    let d := if w1.getLsbD 1 then d.cardAct else d
    let d := if w1.getLsbD 3 then d.cardGo else d
    let stop := w1.getLsbD 2 || (old.getLsbD 0 && !d.on F.ua1CtrlEn)
    (.ok, if stop then d.cardDeact else d)
  else (.ok, d)

/-- UA0 and UA1 registers that are views. -/
def Dev.serialRead (d : Dev) (a : Nat) : Option (Word × Dev) :=
  let b (x : Bool) : Nat := if x then 1 else 0
  if a = F.ua0StatusRxLvl.addr then
    let u := d.ua0
    let w := insBits (insBits (insBits (d.reg a) 0 6 u.rx.length) 8 5 u.tx.length) 16 1 (b (u.rtsLow && d.coreOn))
    some (insBits (insBits (insBits w 17 1 (b u.ctsLow)) 18 1 (b u.selected)) 19 1 (b d.ua0Sending), d)
  else if a = F.ua0DataData.addr then some d.ua0Pop
  else if a = F.ua1DataByte.addr then some d.ua1Pop
  else if a = F.ua1StatusPresent.addr then some (insBits (d.reg a) 4 1 (b d.cardPresent), d)
  else none

end Sys2Proof.Machine
end

