-- ==== Sys2Proof/Machine/Update.lean ====
section
/-! DEFINITION. Field update (chapter 13): packages, slots, markers, steps, the copy, the start-time decisions, trials, the
library commit and the settings records. -/

namespace Sys2Proof.Machine

/-! ### Flash words and markers (R422, R423) -/

def Dev.setUpd (d : Dev) (f : UpdS → UpdS) : Dev := { d with upd := f d.upd }

def Dev.fl (d : Dev) (off n : Nat) : Nat := ofBytes (d.flashBytes off n)

/-- A marker counts as set when any of its bits is 0. -/
def Dev.marked (d : Dev) (off : Nat) : Bool := decide (d.fl off 4 ≠ 0xFFFFFFFF)

/-- Set a marker. -/
def Dev.mark (d : Dev) (off : Nat) : Dev := d.program off (List.replicate 4 0)

/-- A partly set marker is programmed to 0 when the mask ROM finds it. -/
def Dev.fixMarker (d : Dev) (off : Nat) : Dev := if d.marked off then d.mark off else d

/-- One journalled sector erase from start to end (R260). -/
def Dev.eraseSector (d : Dev) (sector : Nat) : Dev := (d.pageDone.eraseEnd.eraseStart sector).eraseEnd

/-- Erase the sectors that hold `n` bytes from offset `off`. -/
def Dev.eraseBytes (d : Dev) (off n : Nat) : Dev :=
  d.each (List.range ((n + 4095) / 4096)) fun i d => d.eraseSector (off / 4096 + i)

/-! ### Slots (R421 to R423) -/

def slotBase (b : Nat) : Nat := 0x100000 * b

/-- The offset of kind `k`'s part in slot `b` (Table 13.1). -/
def partAt (b k : Nat) : Nat := slotBase b + (if k = 1 then 0x1000 else if k = 2 then 0x81000 else 0x91000)

def magicSlot : List Byte := [0x53, 0x4C, 0x4F, 0x54]

/-- Whether a slot's header verifies. -/
def Dev.headerOkAt (d : Dev) (b : Nat) : Bool :=
  let h := d.flashBytes (slotBase b) 0x80
  h.take 4 == magicSlot && decide (d.fl (slotBase b + 0x80) 4 = (crc32c h).toNat)

/-- Markers COPIED, TRY1, TRY2, CONFIRMED, REJECTED of a slot. -/
def mkCopied (b : Nat) : Nat := slotBase b + 0x100
def mkTry (b i : Nat) : Nat := slotBase b + 0x100 + 4 * i
def mkConfirmed (b : Nat) : Nat := slotBase b + 0x10C
def mkRejected (b : Nat) : Nat := slotBase b + 0x110

def Dev.slotValid (d : Dev) (b : Nat) : Bool := d.headerOkAt b && d.marked (mkCopied b)

def Dev.slotGen (d : Dev) (b : Nat) : Nat := d.fl (slotBase b + 4) 4
def Dev.slotPkg (d : Dev) (b : Nat) : Nat := d.fl (slotBase b + 8) 4
def Dev.slotRec (d : Dev) (b : Nat) : Nat := d.fl (slotBase b + 0xC) 1
def Dev.slotVer (d : Dev) (b k : Nat) : Nat := d.fl (slotBase b + 0x10 + 0x10 * k) 2
def Dev.slotLen (d : Dev) (b k : Nat) : Nat := d.fl (slotBase b + 0x14 + 0x10 * k) 4

/-- The running slot R: valid, confirmed, of the highest GEN. -/
def Dev.runSlot (d : Dev) : Option Nat :=
  let ok (b : Nat) : Bool := d.slotValid b && d.marked (mkConfirmed b)
  if ok 0 && ok 1 then some (if d.slotGen 0 < d.slotGen 1 then 1 else 0)
  else if ok 0 then some 0 else if ok 1 then some 1 else none

/-- The inactive slot N; with no R, slot A (DEDUCED, log 15). -/
def Dev.idleSlot (d : Dev) : Nat :=
  match d.runSlot with
  | some b => 1 - b
  | none => 0

/-- Whether a PKG_ID stands in R's reject list, whose empty entries read 0xFFFF_FFFF. -/
def Dev.inRejectList (d : Dev) (id : Nat) : Bool :=
  match d.runSlot with
  | some b => decide (id ≠ 0xFFFFFFFF) && (List.range 16).any fun i => decide (d.fl (slotBase b + 0x200 + 4 * i) 4 = id)
  | none => false

/-! ### The staged package (Tables 13.3, 13.4, 13.8) -/

def stagingBase : Nat := 0x200000
def mkStaged (k : Nat) : Nat := stagingBase + 0x800 + 4 * k
def mkSig : Nat := stagingBase + 0x810
def mkVerified : Nat := stagingBase + 0x814
def mkArm1 : Nat := stagingBase + 0x818
def mkArm2 : Nat := stagingBase + 0x81C
def mkLibDone : Nat := stagingBase + 0x820
def mkDiscard : Nat := stagingBase + 0x824

/-- A part entry. -/
structure Part where
  kind : Nat
  ver : Nat
  off : Nat
  len : Nat
  iv : List Byte
  ranges : List (Nat × Nat)
  deriving DecidableEq, Repr

/-- The four accept ranges in 16 bytes. -/
def rangesOf (l : List Byte) : List (Nat × Nat) :=
  (List.range 4).map fun j => (ofBytes ((l.drop (4 * j)).take 2), ofBytes ((l.drop (4 * j + 2)).take 2))

/-- Part entry `k` of a header. -/
def partOf (h : List Byte) (k : Nat) : Part :=
  let e := (h.drop (0x40 + 0x30 * k)).take 0x30
  ⟨ofBytes (e.take 1), ofBytes ((e.drop 2).take 2), ofBytes ((e.drop 4).take 4), ofBytes ((e.drop 8).take 4),
   (e.drop 12).take 12, rangesOf ((e.drop 0x18).take 16)⟩

def hU (h : List Byte) (off n : Nat) : Nat := ofBytes ((h.drop off).take n)
def pkgLen (h : List Byte) : Nat := hU h 8 4
def headId (h : List Byte) : Nat := hU h 0xC 4
def pkgParts (h : List Byte) : List Part := (List.range (min 4 (hU h 6 1))).map (partOf h)

/-- The bytes 0x000 to 0x4FF of the staged package. -/
def Dev.pkgHead (d : Dev) : List Byte := d.flashBytes stagingBase 0x500

/-- Whether staging holds block 0 of a package that is not discarded (R435). -/
def Dev.pkgHeld (d : Dev) : Bool :=
  decide (d.flashBytes stagingBase 4 = [0x46, 0x4C, 0x42, 0x4E]) && !d.marked mkDiscard

def Dev.pkgId (d : Dev) : Nat := d.fl (stagingBase + 0xC) 4

/-- Whether N holds the staged package's PKG_ID. -/
def Dev.idleHolds (d : Dev) : Bool := d.headerOkAt d.idleSlot && decide (d.slotPkg d.idleSlot = d.pkgId)

/-- Whether the staged package is rejected. -/
def Dev.pkgRejected (d : Dev) : Bool := d.inRejectList d.pkgId || (d.idleHolds && d.marked (mkRejected d.idleSlot))

/-- Marker TRYi of N for the staged package. -/
def Dev.triedIdle (d : Dev) (i : Nat) : Bool := d.idleHolds && d.marked (mkTry d.idleSlot i)

/-- Whether a trial has used attempt `i` of the staged package (R434): TRYi stands in the slot that holds it, which is R once the
trial is confirmed (R439). -/
def Dev.tried (d : Dev) (i : Nat) : Bool :=
  [0, 1].any fun b => d.headerOkAt b && decide (d.slotPkg b = d.pkgId) && d.marked (mkTry b i)

/-- Whether an arm awaits the next reset. -/
def Dev.armPending (d : Dev) : Bool :=
  (d.marked mkArm1 && !d.tried 1) || (d.marked mkArm2 && !d.tried 2)

/-! ### Header rules (R424, R431) -/

/-- Limits of Table 13.1. -/
def kindMax (k : Nat) : Nat := if k = 1 then 524288 else if k = 2 ∨ k = 3 then 65536 else if k = 4 then 909312 else 0

def allZero (l : List Byte) : Bool := l.all (· == 0#8)

/-- The rules of Table 13.4 for one part. -/
def Part.ok (p : Part) (h : List Byte) (k : Nat) : Bool :=
  let e := (h.drop (0x40 + 0x30 * k)).take 0x30
  decide (1 ≤ p.kind ∧ p.kind ≤ 4) && decide (e.getD 1 1 = 0#8) && decide (p.off % 4096 = 0 ∧ 0x1000 ≤ p.off)
    && decide (1 ≤ p.len ∧ p.len ≤ kindMax p.kind) && decide (p.off + p.len + 4096 ≤ pkgLen h) && allZero (e.drop 0x28)
    && decide (p.ranges.getD (p.kind - 1) (0, 0) = (0, 0)) && p.ranges.all fun r => decide (r.1 ≤ r.2)

/-- No two parts share a kind or an IV, or overlap. -/
def partsApart : List Part → Bool
  | [] => true
  | p :: t => t.all (fun q => decide (p.kind ≠ q.kind) && decide (p.iv ≠ q.iv)
      && (decide (p.off + p.len ≤ q.off) || decide (q.off + q.len ≤ p.off))) && partsApart t

/-- The rules of Tables 13.3 and 13.4 that have no reason of their own. -/
def headOk (h : List Byte) : Bool :=
  let n := hU h 6 1
  decide (h.take 4 = [0x46, 0x4C, 0x42, 0x4E]) && decide (hU h 4 2 = 1) && decide (1 ≤ n ∧ n ≤ 4)
    && decide (hU h 7 1 = 1 ∨ hU h 7 1 = 2) && decide (pkgLen h % 4096 = 0 ∧ 12288 ≤ pkgLen h ∧ pkgLen h ≤ 1048576)
    && decide (headId h ≠ 0 ∧ headId h ≠ 0xFFFFFFFF) && allZero ((h.drop 0x14).take 4)
    && ((List.range 4).all fun k => if k < n then (partOf h k).ok h k else allZero ((h.drop (0x40 + 0x30 * k)).take 0x30))
    && partsApart (pkgParts h)

/-- The classes that the life-cycle state accepts (Table 13.5). -/
def Dev.classOkay (d : Dev) (c : Nat) : Bool :=
  if d.sys.lc = 3#2 then false else if d.sys.lc = 2#2 then c == 1 else c == 1 || c == 2

/-! ### Keys (R427, R431) -/

/-- The device class key; it reads 0 once the keys are disabled (R413). -/
def Dev.classKey (d : Dev) : BitVec 256 := if d.sys.keysOff then 0 else Config.deviceClassKey

/-- A number of `n` bytes, most significant first, and back. -/
def beOf (l : List Byte) : Nat := l.foldl (fun n b => 256 * n + b.toNat) 0
def beBytes (v n : Nat) : List Byte := (bytesOf v n).reverse

/-- One step of the RFC 3394 unwrap: `t` counts down, block `i` of the four. -/
def unwrapStep (key : BitVec 256) (t : Nat) (s : Nat × List Nat) : Nat × List Nat :=
  let i := (t - 1) % 4
  let a := Nat.xor s.1 t
  let b := (aesDecrypt key (BitVec.ofNat 128 (a * 2 ^ 64 + s.2.getD i 0))).toNat
  (b / 2 ^ 64, s.2.set i (b % 2 ^ 64))

/-- The package key that WKEY wraps, or none where the integrity check fails. -/
def Dev.unwrap (d : Dev) (h : List Byte) : Option (BitVec 256) :=
  let c := (List.range 5).map fun i => beOf ((h.drop (0x18 + 8 * i)).take 8)
  let r := (List.range 24).foldl (fun s i => unwrapStep d.classKey (24 - i) s) (c.headD 0, c.drop 1)
  if r.1 = 0xA6A6A6A6A6A6A6A6 ∧ d.sys.keysOff = false then
    some (BitVec.ofNat 256 (r.2.foldl (fun n x => 2 ^ 64 * n + x) 0))
  else none

/-- AES-256 in CTR mode over a part's bytes (R427): unit `j` uses the IV followed by `j`. -/
def ctr (key : BitVec 256) (iv : List Byte) (l : List Byte) : List Byte :=
  let pad (j : Nat) : List Byte := beBytes (aesEncrypt key (BitVec.ofNat 128 (beOf (iv ++ beBytes j 4)))).toNat 16
  (List.range ((l.length + 15) / 16)).flatMap fun j => List.zipWith (· ^^^ ·) ((l.drop (16 * j)).take 16) (pad j)

/-- A staged part's plaintext. -/
def Dev.plain (d : Dev) (key : BitVec 256) (p : Part) : List Byte := ctr key p.iv (d.flashBytes (stagingBase + p.off) p.len)

/-! ### Checks of the staged package (R425, R426, R433) -/

/-- The CRC of block `i` (R425). -/
def Dev.blockCrc (d : Dev) (i : Nat) : Nat :=
  if i = 0 then
    let h := d.pkgHead
    (crc32c (h.take 0x100 ++ List.replicate 4 0 ++ h.drop 0x104)).toNat
  else (crc32c (d.flashBytes (stagingBase + 4096 * i) 4096)).toNat

/-- Entry `i` of the block check table. -/
def Dev.checkEntry (d : Dev) (i : Nat) : Nat := d.fl (stagingBase + 0x100 + 4 * i) 4

/-- The first staged block whose CRC does not match; entries beyond the package must be 0. -/
def Dev.badBlock (d : Dev) : Option Nat :=
  let n := pkgLen d.pkgHead / 4096
  (List.range 256).find? fun i => if i < n then decide (d.blockCrc i ≠ d.checkEntry i) else decide (d.checkEntry i ≠ 0)

/-- The signature of the staged package (R426). -/
def Dev.signatureOk (d : Dev) : Bool :=
  let h := d.pkgHead
  let n := pkgLen h
  ed25519Verify (Config.publicKey (decide (hU h 7 1 = 2)))
    (h ++ d.flashBytes (stagingBase + 0x1000) (n - 64 - 0x1000)) (d.flashBytes (stagingBase + n - 64) 64)

/-- The library region, and the version of the library in force (R440). -/
def libBase : Nat := 0x320000
def Dev.libVer (d : Dev) : Nat :=
  if d.flashBytes libBase 4 = [0x57, 0x4C, 0x49, 0x42] then d.fl (libBase + 4) 2 else 0

/-- The part of kind `k` in force: its version and its accept ranges. A library in force imposes none. -/
def Dev.inForce (d : Dev) (k : Nat) : Option (Nat × List (Nat × Nat)) :=
  if k = 4 then some (d.libVer, [])
  else d.runSlot.map fun b => (d.slotVer b k, rangesOf (d.flashBytes (slotBase b + 0x40 + 0x10 * k) 16))

/-- A range accepts a version; (0, 0) accepts every one. -/
def accepts (r : Nat × Nat) (v : Nat) : Bool := r == (0, 0) || (decide (r.1 ≤ v) && decide (v ≤ r.2))

/-- Compatibility (R433): the reason of a failure, 11 or 12. -/
def Dev.compat (d : Dev) : Option Nat :=
  let ps := pkgParts d.pkgHead
  let own (k : Nat) : Option Part := ps.find? fun p => p.kind == k
  let entry (k : Nat) : Option (Nat × List (Nat × Nat)) :=
    match own k with
    | some p => some (p.ver, p.ranges)
    | none => d.inForce k
  let kinds := [1, 2, 3, 4]
  let fits (p q : Nat) : Bool :=
    match entry p, entry q with
    | some x, some y => p == q || accepts (x.2.getD (q - 1) (0, 0)) y.1
    | _, _ => true
  let rule1 := kinds.all fun p => kinds.all fun q => fits p q
  let rule2 := (own 4).isNone || [1, 2, 3].all fun p =>
    match entry p with
    | some x => accepts (x.2.getD 3 (0, 0)) d.libVer
    | none => true
  let rule3 := decide (d.sys.lc ≠ 2#2) || ps.all fun p =>
    match d.inForce p.kind with
    | some x => decide (x.1 ≤ p.ver)
    | none => true
  let rule4 := d.runSlot.isSome || [1, 2, 3].all fun k => (own k).isSome
  if !rule3 then some 12 else if rule1 && rule2 && rule4 then none else some 11

/-! ### What UPD shows (R444) -/

/-- The status of a reason of Table 13.11. -/
def reasonStatus (r : Nat) : Status :=
  if r = 0 then .ok else if r = 14 then .ebusy
  else if r = 3 ∨ r = 8 ∨ r = 11 ∨ r = 16 then .earg
  else if r = 4 ∨ r = 5 ∨ r = 6 ∨ r = 7 ∨ r = 12 ∨ r = 13 then .eperm else .estate

/-- The staging state as the mask ROM derives it. -/
def Dev.updShow (d : Dev) : Dev :=
  let on := d.pkgHeld && !d.pkgRejected
  let b (x : Bool) : Nat := if x then 1 else 0
  let h := d.pkgHead
  let staged := ((List.range 4).map fun k => if on && d.marked (mkStaged k) then 2 ^ k else 0).sum
  let d := ((((d.put F.updStatusScanned (b on)).put F.updStatusStaged staged).put F.updStatusVerified
    (b (on && d.marked mkVerified))).put F.updStatusArmed (b (on && d.armPending))).put F.updStatusAttempts
      (b (d.triedIdle 1) + b (d.triedIdle 2))
  let d := (((d.put F.updPkgId (if on then headId h else 0)).put F.updPkgInfoClass (if on then hU h 7 1 else 0)).put
    F.updPkgInfoNparts (if on then hU h 6 1 else 0)).put F.updPkgInfoBlocks (if on then pkgLen h / 4096 else 0)
  d.each (List.range 4) fun k d =>
    let p := partOf h k
    (d.put (F.updPartKind k) (if on then p.kind else 0)).put (F.updPartVer k) (if on then p.ver else 0)

/-- The slot that runs. -/
def Dev.bootSlot (d : Dev) : Nat := d.get F.updStatusRunSlot

/-- STATE while no step runs. -/
def Dev.restState (d : Dev) : Nat := if d.upd.trial then 2 else if d.runSlot.isNone then 3 else 0

/-- UPD_RUNVERj from the slot that runs and from the library. -/
def Dev.showVersions (d : Dev) (b : Nat) : Dev :=
  (d.each [1, 2, 3] fun k d => d.put (F.updRunver (k - 1)) (d.slotVer b k)).put (F.updRunver 3) d.libVer

/-! ### Starting a step (R430, Table 13.7) -/

/-- Why a step is not accepted: a reason of Table 13.11; `none` where it is. 3 stands for a code that is no step. -/
def Dev.stepRefused (d : Dev) (code : Nat) : Option Nat :=
  let st := d.restState
  let lib := d.on F.updStatusLibCommit
  let ok : Option Bool :=
    if code = 0x01 then some (decide (st = 0 ∨ st = 3) && !lib)
    else if 0x10 ≤ code ∧ code ≤ 0x13 then
      some (d.on F.updStatusScanned && decide (code - 0x10 < d.get F.updPkgInfoNparts))
    else if code = 0x20 then
      some (d.on F.updStatusScanned && (List.range (d.get F.updPkgInfoNparts)).all fun k => d.marked (mkStaged k))
    else if code = 0x30 then some (d.on F.updStatusVerified && !d.upd.trial)
    else if code = 0x40 then some (!d.upd.trial && !lib)
    else if code = 0x50 then some (decide (st = 0 ∨ st = 2))
    else if code = 0x60 then some true
    else none
  match ok with
  | none => some 3
  | some ok =>
    if d.sys.lc = 3#2 then some 7
    else if code = 0x30 ∧ d.pkgHeld = true ∧ d.pkgRejected = true then some 6
    else if !ok then some 10
    else if d.upd.step.isSome then some 14
    else none

/-- Whether a step reads the card. -/
def Dev.stepNeedsCard (d : Dev) (code : Nat) : Bool :=
  decide (code = 0x01) || (decide (0x10 ≤ code ∧ code ≤ 0x13) && !d.marked (mkStaged (code - 0x10)))
    || (decide (code = 0x20) && !d.marked mkSig)

/-- UPD_REASON. -/
def Dev.putReason (d : Dev) (code part block : Nat) : Dev :=
  ((d.put F.updReasonCode code).put F.updReasonPart part).put F.updReasonBlock block

/-- A step is requested (R430). A refusal leaves its reason in UPD_REASON (DEDUCED, log 15). -/
def Dev.updStart (d : Dev) (code : Nat) : Status × Dev :=
  match d.stepRefused code with
  | some r =>
    (reasonStatus r, if r = 3 then d else d.putReason r 0 0)
  | none =>
    let d := ((((d.setUpd fun u => { u with step := some code, outcome := none, wantReset := false }).put F.updStatusState 1).put
      F.updStatusStep code).put F.updProgressDone 0).put F.updProgressTotal 0
    if d.stepNeedsCard code then
      let d := d.put F.ua1StatusUpd 1
      -- a card that is being deactivated is activated once it is OFF
      if d.card ≠ Card.off then (.ok, d)
      else if d.pwr.vioB && d.cardPresent then (.ok, d.cardBegin)
      else (.ok, d.cardFail 1)
    else (.ok, d)

/-- The running step's outcome. -/
def Dev.outcome' (d : Dev) (reason part block : Nat) : Dev :=
  d.setUpd fun u => { u with outcome := some (reasonStatus reason, reason, part, block) }

/-- Whether the body of step `code` may run now. -/
def Dev.stepOpen (d : Dev) (code : Nat) : Bool :=
  decide (d.upd.step = some code) && d.upd.outcome.isNone && d.coreOn

/-- A step ends (R430, R447). Whether it asks for a CORE reset. -/
def Dev.updDone (d : Dev) : Bool × Dev :=
  match d.upd.step, d.upd.outcome with
  | some _, some (st, reason, part, block) =>
    let reset := d.upd.wantReset
    let d := (d.setUpd fun u => { u with step := none, outcome := none, wantReset := false }).put F.ua1StatusUpd 0
    let d := d.updShow.put F.updStatusState d.restState
    let d := ((d.put F.updStatusLastSt st.code).putReason reason part block).put F.updEventStepDone 1
    let d := if st = .ok then d.bump F.updCntStep else d
    let d := if reason = 1 ∨ reason = 2 then d.bump F.updCntCarderr else d
    let d := if reason = 13 then d.bump F.updCntSigfail else d
    (reset, d)
  | _, _ => (false, d)

/-! ### Reading the card (R429, R446) -/

/-- The exchanges that reads of the package make (Table 13.6). -/
inductive Apdu where
  | app
  | ef (n : Nat)
  | read (x : Nat)
  deriving DecidableEq, Repr

/-- CLA INS P1 P2, and UA1_XCFG with P3 and DIR. -/
def Apdu.header : Apdu → Nat × Nat × Nat × Nat × Nat
  | .app => (0, 0xA4, 4, 0x0C, 7)
  | .ef _ => (0, 0xA4, 2, 0x0C, 2)
  | .read x => (0, 0xB0, x % 0x8000 / 256, x % 256, 0x100)

/-- The exchanges for `reads` reads from package byte `x`: the application once for each activation, and an EF where it differs
from the one last selected. -/
def Dev.apdus (d : Dev) (x reads : Nat) : List Apdu :=
  let ef := x / 0x8000
  (if d.upd.app then [] else [.app]) ++ (if d.upd.ef = some ef then [] else [.ef ef])
    ++ (List.range reads).map fun i => .read (x + 256 * i)

/-- What an exchange that ended well selected. -/
def Dev.selected (d : Dev) (a : Apdu) : Dev :=
  d.setUpd fun u => match a with
    | .app => { u with app := true, ef := none }
    | .ef n => { u with ef := some n }
    | .read _ => u

/-- The last exchange of a series of `n`: its header, and its result. -/
def Dev.exchanged (d : Dev) (l : List Apdu) (n sw1 sw2 count : Nat) : Dev :=
  let h := ((l.drop (n - 1)).headD .app).header
  let d := (((((d.bumpBy F.ua1CntApdu n).put F.ua1HdrCla h.1).put F.ua1HdrIns h.2.1).put F.ua1HdrP1 h.2.2.1).put F.ua1HdrP2
    h.2.2.2.1).setReg F.ua1XcfgP3.addr (BitVec.ofNat 32 h.2.2.2.2)
  (((d.put F.ua1ResultSw1 sw1).put F.ua1ResultSw2 sw2).put F.ua1ResultCount count).put F.ua1StatusDone 1

/-- `reads` exchanges of 256 bytes from package byte `x` that all end well, with the selections they need. -/
def Dev.cardReads (d : Dev) (x reads : Nat) : Dev :=
  let l := d.apdus x reads
  ((d.each l fun a d => d.selected a).exchanged l l.length 0x90 0 256).put F.ua1StatusLastSt 0

/-- The bytes of one read of `n` bytes from `x`, or the step's end. -/
def Dev.cardGet (d : Dev) (r : CardRead) (x n part : Nat) : Option (List Byte) × Dev :=
  match r with
  | .bytes b => (some b, d.cardReads x (n / 256))
  | .failure why => (none, (d.cardFail why.val).outcome' 1 part (x / 4096))
  | .badStatus before sw1 sw2 count =>
    let l := d.apdus x (n / 256)
    let d := (d.each (l.take before) fun a d => d.selected a).exchanged l (before + 1) sw1.toNat sw2.toNat count
    (none, d.outcome' 2 part (x / 4096))

/-- Whether a read fits what it stands for: the bytes asked for, with the card ready. -/
def Dev.readFits (d : Dev) (r : CardRead) (n : Nat) : Bool :=
  decide (d.card = Card.ready) && match r with
    | .bytes b => decide (b.length = n)
    | .failure c => decide (2 ≤ c.val)
    | .badStatus before sw1 sw2 _ => decide (before < n / 256 + 2) && !(sw1 == 0x90#8 && sw2 == 0#8)

/-! ### SCAN, STAGE, VERIFY (R431, R432) -/

/-- The reason for which SCAN refuses a package: EPERM before EARG (R19). -/
def Dev.scanReason (d : Dev) (h : List Byte) : Nat :=
  if hU h 0x10 2 ≠ 0x0128 ∨ Config.revision.toNat < hU h 0x12 1 ∨ hU h 0x13 1 < Config.revision.toNat then 4
  else if !d.classOkay (hU h 7 1) then 5
  else if d.inRejectList (headId h) then 6
  else if (d.unwrap h).isNone then 7
  else if !headOk h then 3
  else 0

/-- The body of SCAN. -/
def Dev.scanBody (d : Dev) (read : CardRead) : Dev :=
  if !d.stepOpen 0x01 || !d.readFits read 0x500 then d
  else
    let d := d.put F.updProgressTotal 1
    match d.cardGet read 0 0x500 0 with
    | (none, d) => d
    | (some h, d) =>
      let r := d.scanReason h
      if r ≠ 0 then d.outcome' r 0 0
      else
        let d := if headId h ≠ d.pkgId then d.eraseSector 512 else d
        ((d.program stagingBase h).put F.updProgressDone 1).outcome' 0 0 0

/-- Block `i` of a package from the card into its staging sector: whether the step goes on. -/
def Dev.stageBlock (d : Dev) (b : BlockIn) (i part : Nat) : Bool × Dev :=
  match d.cardGet b.read (4096 * i) 4096 part with
  | (none, d) => (false, d)
  | (some l, d) =>
    if (crc32c l).toNat ≠ d.checkEntry i then (false, (d.bump F.updCntCrcerr).outcome' 8 part i)
    else
      let d := d.eraseSector (512 + i)
      if b.readBack then (true, (d.program (stagingBase + 4096 * i) l).bump F.updProgressDone)
      else
        let bad := (List.range 4096).map fun j => BitVec.ofNat 8 (Config.unstated (d.fresh + j))
        (false, ({ d with fresh := d.fresh + 4096 }.program (stagingBase + 4096 * i) bad).outcome' 9 part i)

/-- Blocks from `i` on, `n` of them: 0 the list is too short, 1 all are staged, 2 the step has stopped. -/
def Dev.stageBlocks (d : Dev) (part : Nat) : Nat → Nat → List BlockIn → Nat × Dev
  | 0, _, _ => (1, d)
  | _ + 1, _, [] => (0, d)
  | n + 1, i, b :: t =>
    if !d.readFits b.read 4096 then (0, d)
    else
      let r := d.stageBlock b i part
      if r.1 then r.2.stageBlocks part n (i + 1) t else (2, r.2)

/-- The body of STAGE k. -/
def Dev.stageBody (d : Dev) (blocks : List BlockIn) : Dev :=
  let k := d.upd.step.getD 0 - 0x10
  if d.upd.step.getD 0 < 0x10 ∨ 0x13 < d.upd.step.getD 0 ∨ d.stepOpen (0x10 + k) = false then d
  else if !d.classOkay (hU d.pkgHead 7 1) then d.outcome' 5 k 0
  else if d.marked (mkStaged k) then d.outcome' 0 k 0
  else
    let p := partOf d.pkgHead k
    let n := (p.len + 4095) / 4096
    let d' := (d.put F.updProgressTotal n).put F.updProgressDone 0
    match d'.stageBlocks k n (p.off / 4096) blocks with
    | (0, _) => d
    | (1, d) => (d.mark (mkStaged k)).outcome' 0 k 0
    | (_, d) => d

/-- The index of the part that holds package block `i`; 0 for the blocks of no part. -/
def partOfBlock (h : List Byte) (i : Nat) : Nat :=
  ((pkgParts h).findIdx? fun p => decide (p.off / 4096 ≤ i) && decide (4096 * i < p.off + p.len)).getD 0

/-- VERIFY after the signature block is staged. -/
def Dev.verifyChecks (d : Dev) : Dev :=
  match d.badBlock with
  | some i => (d.bump F.updCntCrcerr).outcome' 8 (partOfBlock d.pkgHead i) i
  | none =>
    let c := d.compat
    if c = some 12 then d.outcome' 12 0 0
    else if !d.signatureOk then d.outcome' 13 0 0
    else if c = some 11 then d.outcome' 11 0 0
    else (d.mark mkVerified).outcome' 0 0 0

/-- The body of VERIFY. -/
def Dev.verifyBody (d : Dev) (signature : BlockIn) : Dev :=
  let i := pkgLen d.pkgHead / 4096 - 1
  if !d.stepOpen 0x20 then d
  else if !d.classOkay (hU d.pkgHead 7 1) then d.outcome' 5 0 0
  else if d.marked mkSig then d.verifyChecks
  else if !d.readFits signature.read 4096 then d
  else
    let r := (d.put F.updProgressTotal 1).stageBlock signature i 0
    if r.1 then (r.2.mark mkSig).verifyChecks else r.2

/-! ### ACTIVATE, CANCEL, EJECT, SAVE -/

/-- The body of ACTIVATE. -/
def Dev.activateBody (d : Dev) : Dev :=
  if !d.stepOpen 0x30 then d
  else if d.armPending then d.outcome' 0 0 0
  else if !d.classOkay (hU d.pkgHead 7 1) then d.outcome' 5 0 0
  else match d.compat with
    | some r => d.outcome' r 0 0
    | none =>
      ((d.mark (if d.tried 1 then mkArm2 else mkArm1)).setUpd fun u => { u with wantReset := d.on F.updCfgActReset }).outcome' 0 0 0

/-- The body of CANCEL. -/
def Dev.cancelBody (d : Dev) : Dev := if d.stepOpen 0x40 then (d.mark mkDiscard).outcome' 0 0 0 else d

/-- The body of EJECT. -/
def Dev.ejectBody (d : Dev) : Dev := if d.stepOpen 0x60 then d.cardDeact.outcome' 0 0 0 else d

/-- Settings copy `c` of record `r` (R442). -/
def copyAt (r c : Nat) : Nat := 0x300000 + 0x10000 * r + 0x8000 * c

def Dev.copyCount (d : Dev) (at' : Nat) : Nat := d.fl (at' + 0xC) 4

/-- Whether a settings copy is valid. -/
def Dev.copyOk (d : Dev) (at' : Nat) : Bool :=
  let n := d.copyCount at'
  decide (d.flashBytes at' 4 = [0x53, 0x54, 0x4E, 0x47]) && decide (n ≤ 4092)
    && decide (d.fl (at' + 0x14) 4 = (crc32c (d.flashBytes at' 0x14 ++ d.flashBytes (at' + 0x20) (8 * n))).toNat)

def Dev.copySeq (d : Dev) (at' : Nat) : Nat := d.fl (at' + 8) 4

/-- The valid copy of a record with the higher SEQ. -/
def Dev.newest (d : Dev) (r : Nat) : Option Nat :=
  let (a, b) := (copyAt r 0, copyAt r 1)
  if d.copyOk a && d.copyOk b then some (if d.copySeq a < d.copySeq b then b else a)
  else if d.copyOk a then some a else if d.copyOk b then some b else none

/-- The entries of a copy: register addresses and values. -/
def Dev.copyEntries (d : Dev) (at' : Nat) : List (Nat × Word) :=
  (List.range (d.copyCount at')).map fun i => (d.fl (at' + 0x20 + 8 * i) 4, BitVec.ofNat 32 (d.fl (at' + 0x24 + 8 * i) 4))

/-- Write entries into record `r` on behalf of the image in slot `b` (R442). -/
def Dev.saveEntries (d : Dev) (r b : Nat) (entries : List (Nat × Word)) : Dev :=
  let newest := d.newest r
  let at' := if newest = some (copyAt r 0) then copyAt r 1 else copyAt r 0
  let seq := (newest.map d.copySeq).getD 0 + 1
  let body := entries.flatMap fun e => bytesOf e.1 4 ++ bytesOf e.2.toNat 4
  let head := [0x53, 0x54, 0x4E, 0x47] ++ d.flashBytes (slotBase b + 0xE) 2 ++ bytesOf 0 2 ++ bytesOf seq 4
    ++ bytesOf entries.length 4 ++ bytesOf (d.slotPkg b) 4
  let d := d.eraseBytes at' 0x8000
  (d.program (at' + 0x20) body).program at' (head ++ bytesOf (crc32c (head ++ body)).toNat 4 ++ bytesOf 0 8)

/-- The body of SAVE. -/
def Dev.saveBody (d : Dev) (entries : List (Nat × Word)) : Dev :=
  if !d.stepOpen 0x50 || decide (4092 < entries.length) then d
  else (d.saveEntries (d.slotRec d.bootSlot) d.bootSlot entries).outcome' 0 0 0

/-! ### The copy (R434) -/

/-- The package's part of kind `k`. -/
def Dev.pkgPart (d : Dev) (k : Nat) : Option Part := (pkgParts d.pkgHead).find? fun p => p.kind == k

/-- What kind `k` of N is to hold: version, accept ranges as bytes, plaintext. -/
def Dev.newPart (d : Dev) (key : BitVec 256) (k : Nat) : Nat × List Byte × List Byte :=
  match d.pkgPart k with
  | some p =>
    let i := (List.range 4).find? fun i => (partOf d.pkgHead i).kind == k
    (p.ver, (d.pkgHead.drop (0x40 + 0x30 * i.getD 0 + 0x18)).take 16, d.plain key p)
  | none =>
    match d.runSlot with
    | some b => (d.slotVer b k, d.flashBytes (slotBase b + 0x40 + 0x10 * k) 16, d.flashBytes (partAt b k) (d.slotLen b k))
    | none => (0, List.replicate 16 0, [])

/-- The copy's first stage: the reason of its failure (R434 step 1). -/
def Dev.copyReason (d : Dev) : Nat :=
  if !d.classOkay (hU d.pkgHead 7 1) then 5
  else if (d.unwrap d.pkgHead).isNone then 7
  else match d.compat with
    | some r => r
    | none => if d.badBlock.isSome then 8 else 0

/-- Stages 2 to 6: N becomes a valid copy. -/
def Dev.copyParts (d : Dev) (key : BitVec 256) : Dev :=
  let n := d.idleSlot
  let gen := (d.runSlot.map d.slotGen).getD 0
  let rec' := (d.runSlot.map d.slotRec).getD 0
  let rejects := (d.runSlot.map fun b => d.flashBytes (slotBase b + 0x200) 64).getD (List.replicate 64 0xFF)
  let ps := [1, 2, 3].map fun k => (k, d.newPart key k)
  let fw := ((ps.headD (1, 0, [], [])).2.2.2).take 8
  let head := magicSlot ++ bytesOf (gen + 1) 4 ++ bytesOf d.pkgId 4 ++ bytesOf (1 - rec') 1 ++ bytesOf 0 1 ++ fw.take 6
    ++ List.replicate 12 0
    ++ ps.flatMap (fun p => bytesOf p.2.1 2 ++ bytesOf 0 2 ++ bytesOf p.2.2.2.length 4 ++ bytesOf (crc32c p.2.2.2).toNat 4
      ++ bytesOf 0 4)
    ++ ps.flatMap (fun p => p.2.2.1)
  let d := d.eraseSector (256 * n)
  let d := d.each ps fun p d => d.eraseBytes (partAt n p.1) p.2.2.2.length
  let d := d.eraseBytes (copyAt (1 - rec') 0) 0x10000
  let d := d.each ps fun p d => d.program (partAt n p.1) p.2.2.2
  let d := d.program (slotBase n) (head ++ bytesOf (crc32c head).toNat 4)
  (d.program (slotBase n + 0x200) rejects).mark (mkCopied n)

/-! ### Booting (R435 to R437) -/

/-- Start-up goes on with the image of slot `b`. -/
def Dev.boot (d : Dev) (b : Nat) : Dev :=
  let d := (d.put F.updStatusRunSlot b).updShow.showVersions b
  let d := (d.put F.updSettingsOwnRec (d.slotRec b)).put F.updStatusState d.restState
  { d with sys := { d.sys with phase := .awaitSettings } }

/-- A new trial token: never 0 and never the previous one. -/
def newToken (t old : Word) : Word := if t ≠ 0 ∧ t ≠ old then t else if old = 1 then 2 else 1

/-- N boots on trial for attempt `i`. -/
def Dev.bootTrial (d : Dev) (i : Nat) : Dev :=
  let n := d.idleSlot
  let tok := newToken (Config.token d.fresh) d.upd.token
  let d := (d.draw.2.mark (mkTry n i)).setUpd fun u =>
    { u with trial := true, token := tok, copy := none, confirming := false, deadline := d.now + 120000 * blockTk }
  let d := ((d.put F.updToken tok.toNat).put F.updEventTrial 1).bump F.updCntTrial
  d.boot n

/-- Row 4's condition: the attempt whose arm no trial has used. -/
def Dev.armed (d : Dev) : Option Nat :=
  if !d.pkgHeld || d.pkgRejected then none
  else if d.marked mkArm2 && !d.tried 2 then some 2
  else if d.marked mkArm1 && !d.tried 1 then some 1
  else none

/-- A trial has ended unconfirmed and R boots (Table 13.9, rows 3 and 5). -/
def Dev.fallBack (d : Dev) (b : Nat) : Dev :=
  let d := (((d.put F.updEventFallback 1).put F.updStatusFallback 1).bump F.updCntFallback).put F.updReasonCode 15
  -- the last step of a package under trial is ACTIVATE (the bench note's STEP 0x30; DEDUCED, log 15)
  (d.put F.updStatusStep 0x30).boot b

/-- Row 4: copy N if it is not valid, or try it. -/
def Dev.copyOrTry (d : Dev) (i : Nat) : Dev :=
  if d.slotValid d.idleSlot && d.idleHolds then d.bootTrial i else d.setUpd fun u => { u with copy := some i }

/-- Add the staged PKG_ID to R's reject list, in its first empty entry. -/
def Dev.addReject (d : Dev) (b : Nat) : Dev :=
  match (List.range 16).find? fun i => decide (d.fl (slotBase b + 0x200 + 4 * i) 4 = 0xFFFFFFFF) with
  | some i => d.program (slotBase b + 0x200 + 4 * i) (bytesOf d.pkgId 4)
  | none => d

/-- Every marker of the slots and of the staging area. -/
def allMarkers : List Nat :=
  ([0, 1].flatMap fun b => (List.range 5).map fun i => slotBase b + 0x100 + 4 * i)
    ++ (List.range 10).map fun i => stagingBase + 0x800 + 4 * i

/-- The start-time state machine (Table 13.9). -/
def Dev.startDecision (d : Dev) : Dev :=
  if d.sys.phase ≠ .awaitStart ∨ d.upd.copy.isSome = true ∨ d.on F.updStatusLibCommit = true then d
  else
    let d := d.each allMarkers fun m d => d.fixMarker m
    let d := d.updShow
    match d.runSlot with
    | none =>
      let d := d.put F.updStatusState 3
      match d.armed with
      | some i => if d.compat.isNone then d.copyOrTry i else d
      | none => d
    | some b =>
      let n := d.idleSlot
      if d.pkgHeld && decide (d.slotPkg b = d.pkgId) && (d.pkgPart 4).isSome && !d.marked mkLibDone then
        d.put F.updStatusLibCommit 1
      else if d.pkgHeld && d.triedIdle 2 && !d.marked (mkConfirmed n) && !d.marked (mkRejected n) then
        (((d.mark (mkRejected n)).addReject b).put F.updEventRejected 1 |>.bump F.updCntReject).fallBack b
      else match d.armed with
        | some i => d.copyOrTry i
        | none =>
          if d.pkgHeld && d.triedIdle 1 && !d.marked (mkConfirmed n) && !d.marked mkArm2 then d.fallBack b else d.boot b

/-- The copy runs at start-up; a failure of its first stage discards the package (R434). -/
def Dev.imageCopy (d : Dev) : Dev :=
  match d.upd.copy with
  | none => d
  | some i =>
    if d.sys.phase ≠ .awaitStart then d
    else
      let r := d.copyReason
      match r, d.unwrap d.pkgHead with
      | 0, some key => (d.copyParts key).bootTrial i
      | _, _ =>
        let bad := (if r = 8 then d.badBlock else none).map fun i => (partOfBlock d.pkgHead i, i)
        let d := ((d.mark mkDiscard).setUpd fun u => { u with copy := none }).putReason r (bad.getD (0, 0)).1 (bad.getD (0, 0)).2
        let d := if r = 8 then d.bump F.updCntCrcerr else d
        match d.runSlot with
        | some b => d.boot b
        | none => d.updShow

/-! ### The library commit (R441) -/

/-- The library header's CRC over bytes 16 to LENGTH − 1. -/
def Dev.libOk (d : Dev) (len : Nat) : Bool :=
  decide (d.flashBytes libBase 4 = [0x57, 0x4C, 0x49, 0x42])
    && decide (d.fl (libBase + 12) 4 = (crc32c (d.flashBytes (libBase + 16) (len - 16))).toNat)

/-- The commit runs; at start-up R boots after it. -/
def Dev.libCommit (d : Dev) : Dev :=
  if !d.on F.updStatusLibCommit then d
  else
    let goOn (d : Dev) : Dev :=
      if d.sys.phase = .awaitStart then
        match d.runSlot with
        | some b => d.boot b
        | none => d
      else d.showVersions d.bootSlot
    match d.pkgPart 4, d.unwrap d.pkgHead with
    | some p, some key =>
      let data := d.plain key p
      let d := d.each (List.range 222) fun i d => d.eraseSector (800 + i)
      let d := d.program libBase data
      if d.libOk p.len then
        goOn (((d.mark mkLibDone).put F.updStatusLibCommit 0).put F.updEventLibDone 1)
      else goOn ((d.bump F.updCntCrcerr).put F.updReasonCode 8)
    | _, _ => goOn (d.put F.updReasonCode 7)

/-! ### Confirmation (R438, R439) -/

/-- UPD_TOKEN as the HKP and the management path read it. -/
def Dev.tokenNow (d : Dev) : Word := if d.upd.trial then d.upd.token else 0

/-- EARG and ESTATE of a confirmation by the side that MGMT_CONFIRM names. -/
def Dev.confirmCheck (d : Dev) (token : Word) : Status :=
  if token ≠ d.tokenNow then .earg
  else if !d.on F.updStatusSelftestOk || decide (d.get F.updStatusState ≠ 2) || d.upd.confirming || decide (d.upd.deadline ≤ d.now) then .estate
  else .ok

/-- A confirmation that no rule of permission refuses. -/
def Dev.confirm (d : Dev) (token : Word) : Status × Dev :=
  match d.confirmCheck token with
  | .ok =>
    let d := d.setUpd fun u => { u with confirming := true }
    (.ok, if (d.pkgPart 4).isSome && d.idleHolds then d.put F.updStatusLibCommit 1 else d)
  | .earg => (.earg, (d.bump F.updCntBadtoken).putReason 16 0 0)
  | st => (st, d)

/-- The CONFIRMED marker is programmed (R439). -/
def Dev.confirmedDone (d : Dev) : Dev :=
  if !d.upd.confirming then d
  else
    let d := (d.mark (mkConfirmed d.bootSlot)).setUpd fun u => { u with trial := false, confirming := false }
    (((d.put F.updToken 0).put F.updStatusState (if d.upd.step.isSome then 1 else 0)).put F.updEventConfirmed 1).updShow

/-! ### Settings at start-up (R443) -/

/-- Entries are applied in order as management-path writes, by `write`; a refused one is skipped and counted. -/
def Dev.applyEntries (d : Dev) (write : Dev → Nat → Word → Status × Dev) (l : List (Nat × Word)) : Dev :=
  d.each l fun e d =>
    let r := write d e.1 e.2
    if r.1.isError then d.bump F.updCntSeterr else r.2

/-- SETTINGS_UNREAD. -/
def Dev.unread (d : Dev) : Dev := (d.put F.updStatusSettingsUnread 1).put F.updEventSettingsUnread 1

/-- The image takes its settings. -/
def Dev.takeSettings (d : Dev) (write : Dev → Nat → Word → Status × Dev) (translated : List (Nat × Word)) : Dev :=
  let b := d.bootSlot
  let own := d.slotRec b
  let readable (at' : Nat) : Bool :=
    let s := d.fl (at' + 4) 2
    decide (d.fl (slotBase b + 0x10) 2 ≤ s) && decide (s ≤ d.fl (slotBase b + 0x12) 2)
  let take (at' : Nat) (d : Dev) : Dev := d.put F.updSettingsSchema (d.fl (at' + 4) 2)
  if d.upd.trial then
    let from' := d.newest (1 - own)
    let d := d.eraseBytes (copyAt own 0) 0x10000
    match from' with
    | some at' =>
      if readable at' then
        (((take at' d).applyEntries write translated).saveEntries own b translated).put F.updSettingsMigrated 1
      else (d.saveEntries own b []).unread
    | none => (d.saveEntries own b []).unread
  else
    match d.newest own with
    | some at' => if readable at' then (take at' d).applyEntries write (d.copyEntries at') else d.unread
    | none => d.unread

/-! ### Registers (Table 13.12) -/

/-- What writes to UPD registers start; `w1` holds the WO bits written. A refused write records what R430 and R438 say. -/
def Dev.updHook (d : Dev) (a : Nat) (w1 : Word) : Status × Dev :=
  if a = F.updCmd.addr then d.updStart (bitsOf w1 0 8)
  else if a = F.updConfirm.addr then (if d.on F.updCfgMgmtConfirm then d.confirm w1 else (.eperm, d))
  else (.ok, d)

/-- UPD registers that are views. -/
def Dev.updRead (d : Dev) (p : Path) (a : Nat) : Option Word :=
  if a = F.updToken.addr then some (if p.isMgmt then d.tokenNow else 0)
  else if a = F.updDeadline.addr then
    some (if d.upd.trial && !d.upd.confirming then BitVec.ofNat 32 ((d.upd.deadline - d.now + blockTk - 1) / blockTk) else 0)
  else none

end Sys2Proof.Machine
end

