-- ==== Sys2Proof/Machine/Power.lean ====
section
/-! DEFINITION. Shadows and their apply points (R41, R52, R53), and the power controller (chapter 12): known events, the choice of
a state, entries, wakes, the floor and the supplies. -/

namespace Sys2Proof.Machine

/-! ### Shadows (R41) -/

/-- The applied values of the register at `a` that apply at `pt` take their shadows. -/
def Dev.applyReg (d : Dev) (pt : ApplyPoint) (a : Nat) : Dev :=
  d.each ((regFields a).filter fun f => f.acc = .rws pt) fun f d => d.putAp ⟨a, f.lo, f.w⟩ (d.get ⟨a, f.lo, f.w⟩)

/-- Every shadow of apply point `pt` of the registers that `run` admits applies; class 0's AON copy follows (R463). A register
listed in neither file stands at its reset value in both. -/
def Dev.applyWhere (d : Dev) (pt : ApplyPoint) (run : Nat → Bool) : Dev :=
  let d := d.each ((d.regs.map (·.1) ++ d.applied.map (·.1)).filter run) fun a d => d.applyReg pt a
  if pt = .block ∧ run (F.fltWin 0).addr = true then d.aonCopy.dropHealth else d

/-- The registers of the swarm, and of the cue engine. -/
def isSwm (a : Nat) : Bool := decide (0x1800 ≤ a ∧ a < 0x2000)
def isCue (a : Nat) : Bool := decide (0x2800 ≤ a ∧ a < 0x3000)

/-- Whether the clocks of the block that holds the register at `a` stand still in power state `s`: the swarm's from IDLE on, the cue
engine's from DOZE on, every CORE block's in NAP (Tables 1.2 and 12.2). -/
def stands (s a : Nat) : Bool :=
  !aonReg a && ((isSwm a && decide (1 ≤ s)) || (isCue a && decide (2 ≤ s)) || decide (s = 3))

/-- Whether the clocks of the block that holds the register at `a` run. -/
def Dev.clockRuns (d : Dev) (a : Nat) : Bool := aonReg a || (!d.coreOff && !stands d.power a)

/-- The apply point `pt` is reached: the blocks whose clocks run apply their shadows. -/
def Dev.applyPoint (d : Dev) (pt : ApplyPoint) : Dev := d.applyWhere pt d.clockRuns

/-- The registers of the block whose BLOCK_APPLY stands at `b + 0x3FC`. -/
def inBlock (b a : Nat) : Bool := decide (blockBase a = b)

/-- BLOCK_APPLY.APPLY (R41, R53). -/
def Dev.applyBlock (d : Dev) (b : Nat) : Dev := d.applyWhere .apply (inBlock b)

/-- BLOCK_APPLY.DISCARD (R53): APPLY-point shadows take the applied values back. -/
def Dev.discardBlock (d : Dev) (b : Nat) : Dev :=
  d.each ((d.regs.map (·.1) ++ d.applied.map (·.1)).filter (inBlock b)) fun a d =>
    d.each ((regFields a).filter fun f => f.acc = .rws .apply) fun f d => d.put ⟨a, f.lo, f.w⟩ (d.ap ⟨a, f.lo, f.w⟩)

/-- BLOCK_APPLY.PEND (R53). -/
def Dev.applyPend (d : Dev) (b : Nat) : Bool :=
  ((d.regs.map (·.1) ++ d.applied.map (·.1)).filter (inBlock b)).any fun a =>
    (regFields a).any fun f => decide (f.acc = .rws .apply) && decide (d.get ⟨a, f.lo, f.w⟩ ≠ d.ap ⟨a, f.lo, f.w⟩)

/-! ### Known events (R391, Table 12.3) -/

/-- A known event: its source and its instant. -/
abbrev Known := Nat × Nat

def Dev.queueEvents (d : Dev) : List Known := d.alc.queue.map fun e => (1, (d.dueSample e.due - 1) * d.period)

/-- The release instants of timed waits; of WAITTRIG and WAITSIG with T at 1, the timeout at the cursor. -/
def Dev.cueEvents (d : Dev) : List Known :=
  (List.range 16).filterMap fun n =>
    let x := d.thread n
    if x.state ≠ .waiting then none
    else if x.wait = Wait.at' ∨ x.wait = Wait.after' ∨ x.wait = Wait.yield then some (2, x.target)
    else if (x.wait = Wait.trig ∧ x.winst.getLsbD 19 = true) ∨ (x.wait = Wait.sig ∧ x.winst.getLsbD 21 = true) then
      some (2, x.cursor.toNat)
    else none

/-- The house time of the `e`-th next event of a channel's source; SXI and the pin give none. -/
def Dev.sourceAt (d : Dev) (src e : Nat) : Option Nat :=
  if src = 0 then some (d.now + eclkTk e)
  else if src = 1 then some ((d.time.smp.toNat + e) * d.period)
  else if src = 2 then some ((d.time.blk.toNat + e) * blockTk)
  else none

/-- Source events of a running channel to its next overflow and compares, on its own or as a pair's low channel (R307, R312). -/
def Dev.chanSteps (d : Dev) (n : Nat) : List Nat :=
  let k : CntStep := ⟨d.get (F.tcuChCnt n), 0, d.get (F.tcuChTop n)⟩
  let events (s : Nat) : Nat := s * 2 ^ d.get (F.tcuChCfgPresc n) - (d.chan n).acc
  -- a count above TOP wraps with the next event (R302, R310)
  let ovf := if k.top < k.old then 1 else events (k.top + 1 - k.old)
  let once := d.on (F.tcuChCfgOneshot n)
  let own (c : Nat) : List Nat := if k.top < c ∨ (once = true ∧ c ≤ k.old) then [] else [events (k.dist c)]
  let pair (chi clo : Nat) : List Nat := if chi = d.get (F.tcuChCnt (n + 1)) then own clo else []
  ovf :: (if d.cmp64 n then
      pair (d.get (F.tcuChCmpa (n + 1))) (d.get (F.tcuChCmpa n)) ++ pair (d.get (F.tcuChCmpb (n + 1))) (d.get (F.tcuChCmpb n))
    else own (d.get (F.tcuChCmpa n)) ++ own (d.get (F.tcuChCmpb n)))

/-- The next compare, overflow or start of each channel with SLOW at 0 (R319). -/
def Dev.tcuEvents (d : Dev) : List Known :=
  (List.range 8).flatMap fun n =>
    let c := d.chan n
    if d.chained n || d.on (F.tcuChCfgSlow n) || d.frozen n then []
    else if c.armed then [(3, d.startAt n)]
    else if !c.run then []
    else (d.chanSteps n).filterMap fun s =>
      (d.sourceAt (d.get (F.tcuChCfgSrc n)) s).map fun t => (3, t)

def Dev.refEvents (d : Dev) : List Known :=
  (match d.ref.reanchor with
    | some r => [(4, r.at')]
    | none => [])
  ++ (if d.get F.htLeapCtrlDir = 0 then [] else [(4, d.get64 F.htLeapLo F.htLeapHi * secondTk)])

def Dev.floorEvents (d : Dev) : List Known := if d.on F.pwrFloorPend then [(5, d.pwr.floorAt.toNat)] else []

def Dev.knownEvents (d : Dev) : List Known :=
  d.queueEvents ++ d.cueEvents ++ d.tcuEvents ++ d.refEvents ++ d.floorEvents

/-- PWR_NEXT: the earliest known event; of several at one instant, the source listed first. -/
def Dev.pwrNext (d : Dev) : Option Known :=
  d.knownEvents.foldl (fun (m : Option Known) k =>
    match m with
    | some x => if k.2 < x.2 then some k else m
    | none => some k) none

/-! ### The choice (R392, R393) -/

/-- The conditions of Table 12.4 that fail, in the order of PWR_BLOCK. -/
def Dev.pwrFails (d : Dev) : List Bool :=
  let calm (x : Thread) : Bool := !x.running || (decide (x.state = .waiting) && decide (1 ≤ x.wait) && decide (x.wait ≤ 5))
  [!d.boundVoices.isEmpty || (List.range 16).any d.huskBusy,
   d.strikeOn,
   d.halted,
   !((List.range 16).all fun n => calm (d.thread n)),
   d.pwr.qcsLow || !d.hcp.stream.isEmpty || decide (d.hcp.exec ≠ 0#16),
   d.mem.flash.page.isSome || d.mem.flash.erasing.isSome || d.mem.flash.suspended || d.upd.step.isSome || d.upd.trial,
   decide (d.mem.wiping ≠ 0#13) || d.on F.memChkStatBusy,
   !d.serialIdle,
   d.on F.twcStatusBusy || d.on F.twcStatusHeld,
   d.twt.addressed,
   d.get F.outPortRun != 0,
   (List.range 8).any fun n => d.chanBusy n && !d.on (F.tcuChCfgSlow (d.lowOf n)),
   !d.on F.pwrCtrlQuiet,
   !d.on F.pwrHost,
   !d.on F.pwrStatusSxiOk]

/-- The deepest state that R392 permits, from the failing conditions. -/
def permitted (l : List Bool) : Nat :=
  if (l.take 3).any id then 0 else if ((l.drop 3).take 7).any id then 1 else if (l.drop 10).any id then 2 else 3

/-- The deepest state that an active floor allows (R397). -/
def Dev.floorLimit (d : Dev) : Nat := if d.on F.pwrFloorActive then d.pwr.floorState else 3

/-- The deepest state for the conditions, LIMIT and the floor. -/
def Dev.pwrCeil (d : Dev) : Nat := min (permitted d.pwrFails) (min (d.get F.pwrCtrlLimit) d.floorLimit)

/-- E and W of Table 12.2 in microseconds. -/
def entryUs (s : Nat) : Nat := if s = 1 then 1 else if s = 2 then 20 else if s = 3 then 100 else 0
def wakeUs (s : Nat) : Nat := if s = 1 then 2 else if s = 2 then 180 else if s = 3 then 2500 else 0

/-- Whether the time to the next known event is at least `us` microseconds and the guard that `guard` gives for its instant. -/
def Dev.eventFits (d : Dev) (us : Nat) (guard : Nat → Nat) : Bool :=
  match d.pwrNext with
  | some k => decide ((us + guard k.2) * 3145728 + d.now * 1000 ≤ k.2 * 1000)
  | none => true

/-- The same with PWR_GUARD as it stands, for a choice (R393, R416). -/
def Dev.pwrFits (d : Dev) (us : Nat) : Bool := d.eventFits us fun _ => d.get F.pwrGuard

/-- The guard of the wake for the event at `t`: that of the choice which scheduled it, whatever PWR_GUARD was written since (R416). -/
def Dev.guardFor (d : Dev) (t : Nat) : Nat :=
  match d.pwr.sched with
  | some (e, g) => if e = t then g else d.get F.pwrGuard
  | none => d.get F.pwrGuard

/-- The wake for the next known event is scheduled, unless it is already. -/
def Dev.schedule (d : Dev) : Dev :=
  { d with pwr := { d.pwr with sched := d.pwrNext.map fun k => (k.2, d.guardFor k.2) } }

/-- The state that R393 chooses; until READY it is RUN (R414). -/
def Dev.pwrChoice (d : Dev) : Nat :=
  if !d.isReady then 0
  else ((List.range (d.pwrCeil + 1)).filter fun s => s == 0 || d.pwrFits (entryUs s + wakeUs s)).getLastD 0

/-- PWR_BLOCK: the failing conditions, LIMIT and FLOOR where they restrict the choice further, and EVENT (R393). -/
def Dev.pwrBlockWord (d : Dev) : Nat :=
  let l := d.pwrFails
  let p := permitted l
  let lim := decide (d.get F.pwrCtrlLimit < p)
  let fl := decide (d.floorLimit < min p (d.get F.pwrCtrlLimit))
  let ev := d.isReady && decide (d.pwrChoice = 0) && decide (0 < d.pwrCeil)
  (((l ++ [lim, fl, ev]).zipIdx).map fun x => if x.1 then 2 ^ x.2 else 0).sum

/-- A wake begins, or an entry turns back (R395, R396), with its PWR_LAST_WAKE code. -/
def Dev.beginWake (d : Dev) (cause : Nat) : Dev :=
  if d.on F.pwrStatusWaking || (!d.on F.pwrStatusEntering && decide (d.power = 0)) then d
  else ((d.put F.pwrStatusEntering 0).put F.pwrStatusWaking 1).put F.pwrLastWake cause

/-- PWR_LAST_WAKE codes of Table 12.12. -/
def WakeCode.event : Nat := 1
def WakeCode.qcs : Nat := 2
def WakeCode.twoWire : Nat := 3
def WakeCode.command : Nat := 4
def WakeCode.slow : Nat := 5
def WakeCode.trigger : Nat := 6
def WakeCode.fault : Nat := 7
def WakeCode.permission : Nat := 8
def WakeCode.debug : Nat := 9

/-- Whether DOZE or NAP is in force or being entered. -/
def Dev.deep (d : Dev) : Bool := decide (2 ≤ d.power) || (d.on F.pwrStatusEntering && decide (2 ≤ d.pwr.target))

/-- A wake request of R395. QCS_N, the two-wire target, the slow receiver and a trigger edge wake from DOZE and NAP only: IDLE
serves them as RUN does (R212, R389). -/
def Dev.requestWake (d : Dev) (cause : Nat) : Dev :=
  if decide (cause ∈ [2, 3, 5, 6]) && !d.deep then d else d.beginWake cause

/-- What turns back the entry under way, if anything does: a state that is no longer permitted, or an event that the wake could no longer
serve in time. -/
def Dev.turnsBack (d : Dev) : Option Nat :=
  if d.pwrCeil < d.pwr.target then some WakeCode.permission
  else if !d.eventFits (wakeUs d.pwr.target) d.guardFor then some WakeCode.event
  else none

/-- The choice of R393 and the entry it begins, with the wake scheduled; a state no longer permitted is left (R395). -/
def Dev.choosePower (d : Dev) : Dev :=
  if !d.isReady || d.on F.pwrStatusWaking then d
  else
    let s := d.pwrChoice
    let ceil := d.pwrCeil
    let d := { d.put F.pwrStatusChosen s with pwr := { d.pwr with seenNext := d.pwrNext, seenFails := d.pwrFails } }
    if d.on F.pwrStatusEntering then
      match d.turnsBack with
      | some c => d.beginWake c
      | none => d.schedule
    else if ceil < d.power then d.beginWake WakeCode.permission
    else if d.power < s then
      { d.put F.pwrStatusEntering 1 with pwr := { d.pwr with target := s, sched := d.pwrNext.map fun k => (k.2, d.get F.pwrGuard) } }
    else if d.power = 0 then d
    else d.schedule

/-- The choice is made again where PWR_NEXT or a condition of Table 12.4 has changed since the last (R393: within 64 ECLK). -/
def Dev.rechoose (d : Dev) : Dev :=
  if d.pwr.seenNext = d.pwrNext ∧ d.pwr.seenFails = d.pwrFails then d else d.choosePower

/-- A write that makes the current state, or the one being entered, no longer permitted (R395). -/
def Dev.permissionChange (d : Dev) : Dev :=
  let s := if d.on F.pwrStatusEntering then d.pwr.target else d.power
  if s = 0 then d else if d.pwrCeil < s then d.beginWake WakeCode.permission else d

/-! ### Entries and wakes (R389, R394, R396) -/

/-- PWR_CNT of a state (Table 12.10). -/
def pwrCnt (s : Nat) : Fld := if s = 1 then F.pwrCntIdle else if s = 2 then F.pwrCntDoze else F.pwrCntNap

/-- The banks that are switched off in DOZE and NAP (R254): those of MEM_RET_MASK at 0. -/
def Dev.offBanks (d : Dev) : BitVec 13 := ~~~(BitVec.ofNat 13 (d.get F.memRetMask + 4096))

/-- The clocks of some blocks stop now, as state `s` is entered: from when each stood is kept. -/
def Dev.stopClocks (d : Dev) (s : Nat) : Dev :=
  let t := d.time.ht
  { d with pwr := { d.pwr with
      idleAt := if d.power = 0 then t else d.pwr.idleAt
      sleptAt := if 2 ≤ s ∧ d.power < 2 then t else d.pwr.sleptAt
      napAt := if s = 3 then t else d.pwr.napAt } }

/-- An entry completes, unless what was chosen is no longer permitted (R395): the state is in force; from DOZE on the slow receiver watches
and banks without retention lose their content (R254, R263), and in NAP the AON domain keeps its copies of the attention causes and enables
(R334), and HEALTH is low (R399). -/
def Dev.entryDone (d : Dev) : Dev :=
  if !d.on F.pwrStatusEntering then d
  else if let some c := d.turnsBack then d.beginWake c
  else
    let s := d.pwr.target
    let attn := d.causes
    let en := BitVec.ofNat 9 (d.get F.hcpAttnEn)
    let d := d.stopClocks s
    let d := if 2 ≤ s ∧ d.power < 2 then
        (d.wipe d.offBanks).setUa0 fun u => { u with slowOn := d.on F.ua0SlowEn, slowSel := false, slowBuf := [] }
      else d
    let d := (((d.put F.pwrStatusEntering 0).put F.pwrStatusState s).bump (pwrCnt s)).dropHealth
    if s = 3 then d.setTwt fun t => { t with attn := attn, attnEn := en } else d

/-- The wake that serves PWR_NEXT begins (R394). -/
def Dev.wakeScheduled (d : Dev) : Dev :=
  if d.power = 0 ∨ d.on F.pwrStatusWaking = true then d
  else match d.pwrNext with
    | some k =>
      let lead := ((wakeUs d.power + d.guardFor k.2) * 3145728 + 999) / 1000
      (d.reach (k.2 - lead)).beginWake WakeCode.event
    | none => d

/-- A known event that passes while the CORE domain cannot act on it makes the wake late (R415). -/
def Dev.eventPassed (d : Dev) : Dev :=
  if d.power = 0 then d else { d with pwr := { d.pwr with late := true } }

/-- From when the clocks of the block that holds the register at `a` stood. -/
def Dev.stoodFrom (d : Dev) (a : Nat) : Nat :=
  (if isSwm a then d.pwr.idleAt else if isCue a then d.pwr.sleptAt else d.pwr.napAt).toNat

/-- The shadows whose apply points passed since the clocks stopped (R52), of the blocks that stood still in state `s`. -/
def Dev.catchUp (d : Dev) (s : Nat) : Dev :=
  let t := d.now
  let passed (at' : Nat → Nat) (a : Nat) : Bool := stands s a && decide (at' (d.stoodFrom a) < at' t)
  ((d.applyWhere .sample (passed (· / d.period))).applyWhere .block (passed (· / blockTk))).applyWhere .frame
    (passed d.std.frameOf)

/-- The CORE domain runs again after DOZE or NAP (Table 12.5): banks without retention are wiped, shadows catch up, the AON
domain hands over its held events (R463) and pending W1Cs (R334). -/
def Dev.coreResume (d : Dev) (s : Nat) : Dev :=
  let d := ((d.wipe d.offBanks).catchUp s).scrubWake
  let d := if d.ua0.slowSel then d else d.setUa0 fun u => { u with slowOn := false }
  let d := if s = 3 then
      let d := { d with time := { d.time with smp := BitVec.ofNat 64 (max d.time.smp.toNat (d.now / d.period))
                                              blk := BitVec.ofNat 64 (max d.time.blk.toNat d.blockIx) } }
      d.aonDeliver
    else d
  d.twtCoreUp

/-- A wake ends: the CT128 is in RUN and chooses again (R394, R396). -/
def Dev.wakeDone (d : Dev) : Dev :=
  let s := d.power
  if !d.on F.pwrStatusWaking || (decide (s = 3) && !d.pwr.vcore) then d
  else
    let late := d.pwr.late || d.knownEvents.any fun k => decide (k.2 < d.now)
    let d := ((d.put F.pwrStatusWaking 0).put F.pwrStatusState 0).whenB (2 ≤ s) fun d => d.coreResume s
    let d := d.whenB (s = 1) fun d => d.catchUp 1
    let d := { d with pwr := { d.pwr with late := false, sched := none } }
    ((d.whenB late fun d => d.bump F.pwrCntLatewake).each (List.range 8) fun n d => d.startIfPassed n).choosePower

/-! ### The floor (R397) -/

/-- The floor comes into force. -/
def Dev.floorIn (d : Dev) : Dev := ((d.put F.pwrFloorPend 0).put F.pwrFloorActive 1).permissionChange

/-- PWR_FLOOR.ARM: a new floor; an instant that has passed takes effect at once (R44). -/
def Dev.floorArm (d : Dev) : Dev :=
  let at' := d.get64 F.pwrFloorAtLo F.pwrFloorAtHi
  let d := { d with pwr := { d.pwr with floorAt := BitVec.ofNat 64 at', floorState := d.get F.pwrFloorState } }
  if at' ≤ d.now then d.floorIn else (d.put F.pwrFloorActive 0).put F.pwrFloorPend 1

/-- PWR_FLOOR.CLR. -/
def Dev.floorClr (d : Dev) : Dev := (d.put F.pwrFloorPend 0).put F.pwrFloorActive 0

/-- House time reaches PWR_FLOOR_AT. -/
def Dev.floorReached (d : Dev) : Dev :=
  if d.on F.pwrFloorPend then ((d.reach d.pwr.floorAt.toNat).eventPassed).floorIn else d

/-! ### Registers (Table 12.12) -/

/-- What writes to PWR registers start after their fields have changed: ARM and CLR together act as CLR. -/
def Dev.pwrHook (d : Dev) (a : Nat) (w1 : Word) : Dev :=
  if a = F.pwrFloorArm.addr then
    if w1.getLsbD 9 then d.floorClr else if w1.getLsbD 8 then d.floorArm else d
  else if a = F.pwrCtrlLimit.addr ∨ a = F.pwrHost.addr then d.permissionChange
  else d

/-- PWR registers that are views. -/
def Dev.pwrRead (d : Dev) (a : Nat) : Option Word :=
  let b (x : Bool) (k : Nat) : Nat := if x then 2 ^ k else 0
  let next := d.pwrNext.getD (0, 0)
  if a = F.pwrBlock.addr then some (BitVec.ofNat 32 d.pwrBlockWord)
  else if a = F.pwrNextLo.addr then some (BitVec.ofNat 32 next.2)
  else if a = F.pwrNextHi.addr then some (BitVec.ofNat 32 (next.2 / 2 ^ 32))
  else if a = F.pwrNextSrc.addr then some (BitVec.ofNat 32 next.1)
  else if a = F.pwrSupplyVcoreOk.addr then
    some (BitVec.ofNat 32 (b d.pwr.vcore 0 + b d.pwr.vioA 1 + b d.pwr.vioB 2 + b d.pwr.vana 3 + b d.pwr.vioB18 4))
  else none

end Sys2Proof.Machine
end

