-- ==== Sys2Proof/Machine/Resets.lean ====
section
/-! DEFINITION. Resets (R400 to R404, R414), start-up (R405), the supplies (R388), the life cycle (R409 to R413) and the SYS
registers. -/

namespace Sys2Proof.Machine

/-! ### Resets -/

/-- The bits of SYS_RST_CAUSE (Table 12.6). -/
def Rst.por : Nat := 0
def Rst.pin : Nat := 1
def Rst.mgmtSys : Nat := 2
def Rst.mgmtCore : Nat := 3
def Rst.borCore : Nat := 4
def Rst.wdog : Nat := 5
def Rst.dbg : Nat := 6
def Rst.lc : Nat := 7

/-- A reset cuts a page program short: each bit of the page that it would have cleared may be cleared or not. -/
def Dev.cutPage (d : Dev) : Dev :=
  match d.mem.flash.page with
  | none => d
  | some (off, data) =>
    d.each data.zipIdx fun x d =>
      (d.draw.2).flashProgram (off + x.2) [x.1 ||| BitVec.ofNat 8 (Config.unstated d.fresh)]

/-- The memory block after a reset (R256): arrays and flash are kept; its engines, counters and status bits are cleared. An
interrupted erase is left to the journal (R262). -/
def MemS.afterReset (m : MemS) : MemS := { MemS.reset with bytes := m.bytes, tags := m.tags, wiping := m.wiping }

/-- Every array begins a wipe (R256). -/
def Dev.wipeAll (d : Dev) : Dev := { d with mem := { d.mem with wiping := 0x1FFF } }

/-- Every voice stops: it is bound no more, and its runtime words read 0 (R132). -/
def Dev.freeAll (d : Dev) : Dev := d.each d.boundVoices fun v d => d.freeVoice v

/-- The outputs after a reset: without VANA or VREF_DAC they are clamped as for a loss (Table 12.1). -/
def Dev.outReset (d : Dev) : OutS := { OutS.reset with faultClamp := !(d.pwr.vana && d.pwr.vref) }

/-- A CORE reset (R232, R401): every CORE register and everything a CORE block holds returns to its reset value; the AON blocks,
the arrays and the fuses keep theirs. Start-up goes on at step 4. -/
def Dev.coreReset (d : Dev) (cause : Nat) : Dev :=
  let d := d.cutPage.freeAll
  let was := d.period
  let keep (a : Nat) : Bool := aonReg a || decide (a = (F.fltStatWcnt 0).addr)
  let lasting0 := d.lasting 0
  let d := { d with
    regs := d.regs.filter fun x => keep x.1
    applied := d.applied.filter fun x => aonReg x.1
    setters := d.setters.filter fun x => decide (x.1 < 0x8000 * 32) && aonReg (x.1 / 32)
    held := d.held.filter fun x => decide (x.1 < 0x8000) && aonReg x.1
    time := { d.time with strikeFifo := d.time.strikeFifo.map fun (s : Stamp) => { s with tag := 16, posted := true } }
    swm := .reset
    alc := .reset
    cue := .reset
    hcp := .reset
    mem := d.mem.afterReset
    outp := d.outReset
    pwr := { d.pwr with sched := none }
    twc := .reset
    -- a match goes on to its hand-over (R371); without one the slow receiver watches in DOZE and NAP alone (R370)
    ua0 := { Ua0S.reset with
      ctsLow := d.ua0.ctsLow, slowBuf := d.ua0.slowBuf, slowSel := d.ua0.slowSel, slowOn := d.ua0.slowOn && d.ua0.slowSel }
    ua1 := { Ua1S.reset with det := d.ua1.det }
    sys := { d.sys with phase := if d.sys.phase = Phase.awaitXi then Phase.awaitXi else Phase.awaitPll, lcPend := none, lcSince := 0,
                        lcGo := none, startAt := d.now, mgmtReset := false }
    upd := { UpdS.reset with token := d.upd.token }
    flt := { FltS.reset with hist := d.flt.hist.filter (fun x => x.1 == 0), aonLog := d.flt.aonLog, aonLost := d.flt.aonLost,
                             aonEvents := d.flt.aonEvents } }
  let d := (d.put F.fltLasting (if lasting0 then 1 else 0)).regrid was
  let d := ((((d.put F.pwrStatusState 0).put F.pwrStatusEntering 0).put F.pwrStatusWaking 0).put F.pwrHost 0).floorClr
  let d := (d.put F.memStatusWiping (if d.mem.wiping = 0#13 then 0 else 1)).setTwt fun t =>
    { t with w1c := 0, attn := d.causes, attnEn := BitVec.ofNat 9 (d.get F.hcpAttnEn) }
  d.setReg F.sysRstCausePor.addr (d.reg F.sysRstCausePor.addr ||| (1#32 <<< cause))

/-- A system reset (R402): as a CORE reset, and every AON register but SYS_RST_CAUSE; house time restarts at 0. Memory, fuses,
supplies and the levels at the pins stay. Start-up goes on at step 2. -/
def Dev.systemReset (d : Dev) (cause : Nat) : Dev :=
  let d := d.cutPage.freeAll
  let d' : Dev := { Dev.reset with
    out := d.out
    fresh := d.fresh
    time := { TimeS.reset with gpLevel := d.time.gpLevel, gpSettle := d.time.gpSettle ||| BitVec.ofNat 16 (d.get F.htGpOe) }
    mem := d.mem.afterReset
    outp := d.outReset
    tcu := { TcuS.reset with ch := (List.range 8).foldl (fun t n =>
      Tab.set (fun _ => Channel.zero) t n { Channel.zero with pinIn := (d.chan n).pinIn }) [] }
    twt := { TwtS.reset with addrPins := d.twt.addrPins }
    ua0 := { Ua0S.reset with ctsLow := d.ua0.ctsLow }
    ua1 := { Ua1S.reset with det := d.ua1.det }
    pwr := { PwrS.reset with
      vaon := d.pwr.vaon, vioA := d.pwr.vioA, porHeld := d.pwr.porHeld, vcore := d.pwr.vcore, vioB := d.pwr.vioB,
      vioB18 := d.pwr.vioB18, vana := d.pwr.vana, vref := d.pwr.vref, vdacHi := d.pwr.vdacHi, qcsLow := d.pwr.qcsLow }
    sys := { d.sys with phase := .awaitXi, lcPend := none, lcSince := 0, lcGo := none, startAt := 0, mgmtReset := false }
    upd := { UpdS.reset with token := d.upd.token }
    dbg := d.dbg }
  let d' := d'.setReg F.sysRstCausePor.addr (d.reg F.sysRstCausePor.addr ||| (1#32 <<< cause))
  d'.put F.memStatusWiping (if d'.mem.wiping = 0#13 then 0 else 1)

/-- Whether the supplies of step 1 of Table 12.7 are above their thresholds. -/
def PwrS.stepOne (p : PwrS) : Bool := p.vaon && p.vcore && p.vioA && p.vana

/-- A power-on reset (R402): a system reset that clears every other cause, wipes every array and samples TADDR and the level of
VIO_B. It is held until the supplies of step 1 are there (R405). -/
def Dev.powerOnReset (d : Dev) (taddr : BitVec 2) (vioB18 : Bool) : Dev :=
  let d := (d.systemReset Rst.por).wipeAll
  { (d.setReg F.sysRstCausePor.addr 1).put F.memStatusWiping 1 with
    twt := { d.twt with addrPins := taddr }, pwr := { d.pwr with vioB18 := vioB18, porHeld := !d.pwr.stepOne }, dbg := .reset }

/-- A supply of step 1 returned: with the last of them the power-on reset is released. -/
def Dev.porRelease (d : Dev) : Dev := { d with pwr := { d.pwr with porHeld := d.pwr.porHeld && !d.pwr.stepOne } }

/-- VAON or VIO_A fell: a power-on reset, held until they return. Of the pins it keeps the last samples: the event POWER_ON_RESET says how
they are sampled when the supply has returned. -/
def Dev.supplyLost (d : Dev) (f : PwrS → PwrS) : Dev :=
  { d with pwr := f d.pwr }.powerOnReset d.twt.addrPins d.pwr.vioB18

/-- RESET_N was low for `ns` nanoseconds (R400). -/
def Dev.resetPin (d : Dev) (ns : Nat) : Dev :=
  if ns < 100 then d
  else if 1000 ≤ ns then d.systemReset Rst.pin
  else if Config.shortResetTaken d.fresh then d.draw.2.systemReset Rst.pin else d.draw.2

/-- A reset that the management path requests (R403): 1 CORE, 2 system. -/
def Dev.resetRequest (d : Dev) (kind : Nat) : Status × Dev :=
  if kind = 1 then (.ok, d.coreReset Rst.mgmtCore)
  else if kind = 2 then (.ok, d.systemReset Rst.mgmtSys)
  else (.earg, d)

/-! ### Supplies (Table 12.1) -/

/-- VCORE falls below its threshold: a CORE brown-out reset, except in NAP. -/
def Dev.brownout (d : Dev) : Dev :=
  let d := { d with pwr := { d.pwr with vcore := false } }
  if d.power = 3 then d else d.coreReset Rst.borCore

/-- A supply crosses its threshold (Table 12.1). -/
def Dev.supply (d : Dev) (s : Supply) (ok : Bool) : Dev :=
  match s, ok with
  | .vaon, false => d.supplyLost fun p => { p with vaon := false }
  | .vioA, false => d.supplyLost fun p => { p with vioA := false }
  | .vaon, true => { d with pwr := { d.pwr with vaon := true } }.porRelease
  | .vioA, true => { d with pwr := { d.pwr with vioA := true } }.porRelease
  | .vcore, true => { d with pwr := { d.pwr with vcore := true } }.porRelease
  | .vcore, false => d.brownout
  | .vioB, true => { d with pwr := { d.pwr with vioB := true } }
  | .vioB, false =>
    let d := { d with pwr := { d.pwr with vioB := false } }
    if d.get F.ua1StatusState = 0 then d else d.cardFail 9
  | .vana, true => { d with pwr := { d.pwr with vana := true } }.porRelease
  | .vana, false => if d.pwr.vana then { d.clampNow with pwr := { d.pwr with vana := false } } else d
  | .vref, true => { d with pwr := { d.pwr with vref := true } }
  | .vref, false => if d.pwr.vref then { d.clampNow with pwr := { d.pwr with vref := false } } else d
  | .vdacHi, true => { d with pwr := { d.pwr with vdacHi := true } }
  | .vdacHi, false => d.hiLoss

/-! ### Start-up (R405, Table 12.7) -/

/-- Step 3: XI has qualified; house time counts. -/
def Dev.xiQualified (d : Dev) : Dev :=
  if d.sys.phase = .awaitXi && !d.pwr.porHeld && d.pwr.vana then
    { d with sys := { d.sys with phase := .awaitPll }, time := { d.time with counting := true } }
  else d

/-- SXI has qualified. -/
def Dev.sxiQualified (d : Dev) : Dev := d.put F.pwrStatusSxiOk 1

/-- The repair fuses are read into MEM_REPAIRb; a bank whose fuses do not read back is one event of class 9 (R255, R453). -/
def Dev.fuseCheck (d : Dev) : Dev :=
  d.each (List.range 13) fun b d =>
    let bad := d.sys.fuseErr.getLsbD b
    let d := (d.put (F.memRepairUsed b) (Tab.get (fun _ => (0#3)) d.sys.repair b).toNat).put (F.memRepairFuseErr b)
      (if bad then 1 else 0)
    if bad then d.fault Cls.fuse (BitVec.ofNat 32 b) else d

/-- Steps 4 and 5: the PLL has locked and the CORE domain is released. -/
def Dev.pllLocked (d : Dev) : Dev :=
  if d.sys.phase = .awaitPll && d.pwr.vcore && d.pwr.vana then
    (({ d with sys := { d.sys with phase := .awaitJournal } }.aonDeliver).twtCoreUp).fuseCheck
  else d

/-- Step 6: the mask ROM's journal scan, after the wipe of step 5. -/
def Dev.journalRecovery (d : Dev) : Dev :=
  if d.sys.phase = .awaitJournal ∧ d.mem.wiping = 0#13 then { d.recover with sys := { d.sys with phase := .awaitStart } } else d

/-- Whether the WIPED fuse of the life-cycle state is blown (R413). -/
def Dev.stateWiped (d : Dev) : Bool := d.sys.wiped.getLsbD d.sys.lc.toNat

/-- The life-cycle wipe of step 8 (R413). -/
def Dev.lcWipe (d : Dev) : Dev :=
  if d.sys.phase ≠ .awaitSettings || d.stateWiped then d
  else
    let d := d.each (List.range 32) fun i d => d.eraseSector (768 + i)
    { d with sys := { d.sys with keysOff := d.sys.keysOff || decide (d.sys.lc = 3#2)
                                 wiped := d.sys.wiped ||| (1#4 <<< d.sys.lc.toNat) } }

/-- Step 9: READY. A RESET command that asked for the CORE reset completes (R403). -/
def Dev.startupReady (d : Dev) : Dev :=
  if d.sys.phase ≠ .ready || d.isReady then d
  else
    let ms := (d.now - d.sys.startAt) / blockTk
    -- the time from step 2 to step 3, at most 2.0 ms, passes before house time counts
    let whole := d.reg F.sysRstCausePor.addr &&& 0x87#32
    let (extra, d) := if d.sys.startAt = 0 ∧ whole ≠ 0 then (Config.unstated d.fresh % 3, d.draw.2) else (0, d)
    let d := ((d.put F.sysStatusReady 1).put F.sysStartMs (min 65535 (ms + extra))).put F.hcpAttnCauseReset 1
    let d := { d with mem := { d.mem with windowOpen := true } }
    match d.twt.cmd, d.sys.mgmtReset with
    | some _, true => { d.mgmtEnd .ok with sys := { d.sys with mgmtReset := false } }
    | _, _ => d

/-! ### Life cycle (R410 to R412) -/

/-- OUT_MUTE.MUTE becomes 1 as a management write (R412), which R35 lets win over the data path's setting in the same block. -/
def Dev.lcMute (d : Dev) : Dev :=
  let a := F.outMuteMute.addr
  if d.on F.outMuteMute then d
  else
    let split := d.splitOf a (a * 32) 1
    let last := setterPath (d.setter (a * 32))
    let d := (d.put F.outMuteMute 1).setSetter (a * 32) .mgmt
    if split = .wins then (d.loser a last).splitEvent a else d

/-- A life-cycle request or its confirmation (R410, R411). While a confirmed transition waits for the ports nothing changes it (R412): a
further request that is otherwise good answers EBUSY (DESIGN CHOICE, log 18). -/
def Dev.lcRequest (d : Dev) (target : BitVec 2) (confirm : Bool) : Status × Dev :=
  if d.sys.lcGo.isSome then
    (if target.toNat < d.sys.lc.toNat then .eperm else if target = d.sys.lc then .earg else .ebusy, d)
  else if confirm then
    if d.sys.lcPend = some target ∧ d.now ≤ d.sys.lcSince + 1000 * blockTk then
      (.ok, { d.lcMute with sys := { d.sys with lcGo := some target, lcSince := d.now } })
    else (.earg, { d with sys := { d.sys with lcPend := none } })
  else if target.toNat < d.sys.lc.toNat then (.eperm, d)
  else if target = d.sys.lc then (.earg, d)
  else (.ok, { d with sys := { d.sys with lcPend := some target, lcSince := d.now } })

/-- A pending request lapses 1,000 ms after it was made. -/
def Dev.lcLapse (d : Dev) : Dev :=
  if d.sys.lcPend.isSome && d.sys.lcGo.isNone then
    let d := d.reach (d.sys.lcSince + 1000 * blockTk)
    { d with sys := { d.sys with lcPend := none } }
  else d

/-- Whether every running port is muted to 0. -/
def Dev.portsSilent (d : Dev) : Bool := (List.range 7).all fun p => !(d.port p).run || decide ((d.port p).m = 0)

/-- The confirmed transition (R412), once the ports are silent or 64 samples have passed: the fuses are programmed and a system
reset with wipes begins. -/
def Dev.lcTransition (d : Dev) : Dev :=
  match d.sys.lcGo with
  | none => d
  | some target =>
    if d.portsSilent || decide (d.sys.lcSince + 64 * d.period ≤ d.now) then
      let d := { d with sys := { d.sys with lc := target } }
      ((d.systemReset Rst.lc).wipeAll).put F.memStatusWiping 1
    else d

/-! ### SYS registers (Table 12.11) -/

/-- What a write of SYS_RST_REQ or SYS_LC_REQ does; `w1` holds the WO bits written. -/
def Dev.sysHook (d : Dev) (a : Nat) (w1 : Word) : Status × Dev :=
  if a = F.sysRstReq.addr then d.resetRequest (bitsOf w1 0 2)
  else if a = F.sysLcReqTarget.addr then d.lcRequest (w1.truncate 2) (w1.getLsbD 7)
  else (.ok, d)

/-- SYS registers that are views. -/
def Dev.sysRead (d : Dev) (a : Nat) : Option Word :=
  if a = F.sysIdPart.addr then
    some (BitVec.ofNat 32 (0x128 + 65536 * Config.revision.toNat + 16777216 * (if Config.industrial then 0x49 else 0x42)))
  else if a = F.sysLcState.addr then 
    let pend := match d.sys.lcPend with
      | some t => 0x100 + 16 * t.toNat
      | none => 0
    some (BitVec.ofNat 32 (d.sys.lc.toNat + pend))
  else if a = F.sysStatusReady.addr then
    let due := decide (d.sys.phase = .awaitSettings) && !d.stateWiped
    some (d.reg a ||| (if due then 2#32 else 0))
  else if a = F.sysFeatOfferLo.addr then some (if d.sys.lc = 3 then 0 else 0x3FFF)
  else none

end Sys2Proof.Machine
end

