-- ==== Sys2Proof/Machine/Debug.lean ====
section
/-! DEFINITION. Debug halt, the DBG registers and the JTAG port (chapter 15). -/

namespace Sys2Proof.Machine

/-! ### Debug halt (R488, R489) -/

/-- Debug halt begins, requested through JTAG (`tap`) or through DBG_CTRL; a sleeping CT128 wakes, since the DEBUG term of Table
12.4 now fails. -/
def Dev.haltBy (d : Dev) (tap : Bool) : Dev :=
  let d := d.put F.dbgStatusHalted 1
  let d := if tap then d.put F.dbgStatusByTap 1 else d.put F.dbgStatusByMgmt 1
  d.requestWake WakeCode.debug

/-- Debug halt ends; a channel whose START passed meanwhile starts at once (R317). -/
def Dev.haltEnd (d : Dev) : Dev :=
  if !d.halted then d
  else
    let d := ((d.put F.dbgStatusHalted 0).put F.dbgStatusByTap 0).put F.dbgStatusByMgmt 0
    d.each (List.range 8) fun n d => d.startIfPassed n

/-! ### DBG registers (Table 15.14) -/

/-- What a write of DBG_CTRL does (R488, R489, R491). -/
def Dev.dbgHook (d : Dev) (a : Nat) (w1 : Word) : Dev :=
  if a = F.dbgCtrlHalt.addr then
    if w1.getLsbD 2 then d.coreReset Rst.dbg
    else if w1.getLsbD 1 then d.haltEnd
    else if w1.getLsbD 0 then d.haltBy false
    else d
  else d

/-- IDCODE (R485). -/
def idcode : Word := BitVec.ofNat 32 (Config.revision.toNat % 16 * 2 ^ 28 + 0x00128B47)

/-- STATE of DBG_VOICEv: 2 BOUND, 1 PENDING (an admitted onset waits), 0 FREE (R140). -/
def Dev.voiceStateCode (d : Dev) (v : Nat) : Nat :=
  if (d.voice v).bound then 2 else if (d.onset v).isSome then 1 else 0

/-- DBG_VOICEv. -/
def Dev.dbgVoice (d : Dev) (v : Nat) : Word :=
  let b (x : Bool) (k : Nat) : Nat := if x then 2 ^ k else 0
  let st := d.voiceStateCode v
  let victim := d.alc.queue.any fun e => e.voice == v && e.steals
  let cost := voiceCost (d.planVoice .empty v)
  BitVec.ofNat 32 (st + b (d.ventry v).held 2 + b victim 3 + b (d.strikeVoice v) 4 + 256 * (d.famOf v) + 65536 * (cost % 32))

/-- DBG registers that are views. -/
def Dev.dbgRead (d : Dev) (a : Nat) : Option Word :=
  if a = F.dbgIdcode.addr then some idcode
  else if 0x7010 ≤ a ∧ a < 0x7210 then some (d.dbgVoice ((a - 0x7010) / 4))
  else none

/-! ### JTAG (R485 to R487) -/

/-- Whether the life-cycle state grants a TAP instruction (Table 12.9, Table 15.13). -/
def Dev.tapGranted (d : Dev) (i : Tap) : Bool :=
  match i with
  | .dbgHalt | .dbgRelease => decide (d.sys.lc.toNat ≤ 1)
  | .dbgReg => decide (d.sys.lc = 0#2)
  | _ => true

/-- A TAP instruction is selected, with what its data register captures; one that is not granted acts as BYPASS. -/
def Dev.tapSelect (d : Dev) (i : Tap) (capture : Word64) : Dev :=
  if d.tapGranted i then { d with dbg := { d.dbg with ir := i, capture := capture } }
  else { d with dbg := { d.dbg with ir := .bypass, capture := 0 } }

/-- A TAP reset selects IDCODE (R485); debug halt goes on (R489). -/
def Dev.tapReset (d : Dev) : Dev := { d with dbg := { d.dbg with ir := .idcode, capture := idcode.zeroExtend 64 } }

/-- Whether the boundary register drives the covered pins (R486). -/
def Dev.boundaryDrives (d : Dev) : Bool := decide (d.dbg.ir = .extest ∨ d.dbg.ir = .clamp ∨ d.dbg.ir = .highz)

end Sys2Proof.Machine
end

