-- ==== Sys2Proof/Machine/Strike.lean ====
section
/-! DEFINITION. The strike path (R158 to R162). -/

namespace Sys2Proof.Machine

/-- A status that no rule states, drawn from all of them. -/
def freeStatus (k : Nat) : Status :=
  [.ok, .late, .etag, .efeature, .eperm, .earg, .estate, .econflict, .evirgin, .epoison, .ebusy, .eqfull,
   .eledger].getD (k % 13) .ok

/-- The nibble of ALC_STK_MAPn for a source: slot, and whether it is enabled. -/
def Dev.stkMap (d : Dev) (src : Nat) : Nat × Bool :=
  let w := if src < 8 then d.get F.alcStkMap0 else if src < 16 then d.get F.alcStkMap1 else d.get F.alcStkMap2
  let x := w / 16 ^ (src % 8) % 16
  (x % 8, decide (8 ≤ x))

/-- The onset of a timestamp (R159). -/
def Dev.stkOnset (d : Dev) (ts : Nat) : Nat :=
  let q := 2 ^ d.get F.alcStkCtrlQuant
  (ts + 15729 + q - 1) / q * q

/-- The strike path takes the oldest entry of the strike FIFO (R159, R161). -/
def Dev.strikeTake (d : Dev) : Dev :=
  match d.time.strikeFifo with
  | [] => d
  | s :: rest =>
    let d := { d with time := { d.time with strikeFifo := rest } }
    let slot := d.stkMap s.src
    let o := d.stkOnset s.ts
    let late := decide (d.dueSample o ≤ d.alc.window)
    -- the effective onset, which the response of a discarded entry carries as well (R234)
    let o' := if late then (d.alc.window + 1) * d.period else o
    if !slot.2 || !d.strikeActive then
      (d.bump F.alcStkCntUnmapped).trigOutcome s.src s.tag s.posted .estate (BitVec.ofNat 64 o')
    else if s.ts + secondTk < d.now then
      (d.draw.2.bump F.alcStkCntStale).trigOutcome s.src s.tag s.posted (freeStatus (Config.unstated d.fresh))
        (BitVec.ofNat 64 o')
    else
      { d with alc := { d.alc with strikes := d.alc.strikes ++ [⟨s.src, slot.1, s.ts, o', late, s.tag, s.posted⟩] } }

/-- One strike onset binds in the window of sample `n` (R160, R161). -/
def Dev.strikeBind (d : Dev) (n : Nat) (s : Strike) : Dev :=
  let v := d.voiceCount - 8 + s.slot
  let late := s.late || decide (d.dueSample s.onset < n)
  let o := if d.dueSample s.onset < n then n * d.period else s.onset
  let husk := [14, 15].find? fun h => !d.huskBusy h
  let out (d : Dev) (st : Status) : Dev := d.trigOutcome s.src s.tag s.posted st (BitVec.ofNat 64 o)
  if !d.on F.swmCtrlRun then out d .estate
  else if (d.voice v).bound && husk.isNone then out (d.bump F.alcStkCntNohusk) .ebusy
  else
    -- no rule gives the length of a strike husk: from 2 to 8 ms (Table 0.6), a free value
    let d := match (d.voice v).bound, husk with
      | true, some h =>
        ((d.senLeave v).toHusk v h ((2 + Config.unstated d.fresh % 7) * (if d.rate96 then 96 else 48))).draw.2
      | _, _ => d
    let d := (d.bindVoice v 0 n late o (d.stkOnset s.ts)).bump F.alcStkCntOk
    let d := if late then d.bump F.alcStkCntLate else d
    let d := (((d.put F.alcStkLastLo (o % 2 ^ 32)).put F.alcStkLastHi (o / 2 ^ 32)).put
      F.alcStkLastSrcSrc s.src).put F.alcStkLastSrcSlot s.slot
    out d (if late then .late else .ok)

/-- Of several onsets for one slot in one sample the latest stays; each one replaced counts (R161). -/
def Dev.strikeMerge (d : Dev) : List Strike → List Strike × Dev
  | [] => ([], d)
  | s :: rest =>
    let r := d.strikeMerge rest
    match r.1.find? (fun x => x.slot == s.slot) with
    | none => (s :: r.1, r.2)
    | some x =>
      let keep := if x.onset < s.onset then s else x
      let gone := if x.onset < s.onset then x else s
      (keep :: r.1.filter (fun y => y.slot != s.slot),
       (r.2.bump F.alcStkCntMerge).trigOutcome gone.src gone.tag gone.posted .ok (BitVec.ofNat 64 gone.onset))

/-- The strike window of sample `n` opens (R160). -/
def Dev.openWindow (d : Dev) (n : Nat) : Dev :=
  let due := d.alc.strikes.filter fun s => decide (d.dueSample s.onset ≤ n)
  let d := { d with alc := { d.alc with window := max d.alc.window n,
                                        strikes := d.alc.strikes.filter fun s => decide (n < d.dueSample s.onset) } }
  let r := d.strikeMerge due
  r.2.each r.1 fun s d => d.strikeBind n s

/-- The window of the sample under render opens 984 ECLK before its edge. -/
def Dev.strikeWindow (d : Dev) : Dev :=
  let n := d.time.smp.toNat + 1
  if !d.strikeOn || decide (n ≤ d.alc.window) then d
  else (d.reach (n * d.period - 12595)).openWindow n

end Sys2Proof.Machine
end

