-- ==== Sys2Proof/Machine/Operands.lean ====
section
/-! DEFINITION. Register and memory requests, as every path makes them (R7 to R19, R33 to R43, R229, R248, R494): refusals, the
resolution of requests that meet in one ECLK cycle, LOCKED and STAGED fields, held low words, and reads. -/

namespace Sys2Proof.Machine

/-! ### Requests -/

/-- The word of a register request. -/
def reqWord (r : Req) : Word := BitVec.ofNat 32 (ofBytes r.data)

/-- Whether a request addresses register space. -/
def isReg (a : Nat) : Bool := decide (a < 0x8000)

/-- The unit whose STICKY register records a request: the register's block, or MEM for the memory windows. -/
def unitOf (a : Nat) : Nat := if isReg a then blockBase a else 0x3400

/-- The offset of BLOCK_APPLY and of BLOCK_STICKY (R53). -/
def isApply (a : Nat) : Bool := decide (a % 0x400 = 0x3FC)

/-! ### Refusals (R15, R19, R229) -/

/-- Whether `w` would put into a field a value that is neither 0 nor the value held (R229). -/
def Dev.putsNew (d : Dev) (w : Word) (f : Fld) : Bool :=
  let v := bitsOf w f.lo f.w
  v != 0 && v != d.get f

/-- The bytes of AES_TXx_CS that a write can change: 2 to 22 (Table 8.10). -/
def csFields (x : Nat) : List Fld :=
  ⟨(F.aesTxCs x 0).addr, 16, 16⟩ :: ⟨(F.aesTxCs x 5).addr, 0, 24⟩ :: [1, 2, 3, 4].map (F.aesTxCs x)

/-- The narrower features of R229 that a data-path write of `w` at `a` needs. -/
def Dev.narrower (d : Dev) (a : Nat) (w : Word) : List Nat :=
  let need (f : Nat) (l : List Fld) : List Nat := if (l.filter fun x => x.addr = a).any (d.putsNew w) then [f] else []
  need Feat.rate96 [F.swmCtrlRate] ++ need Feat.sentinel [F.swmSenCtrlEn, F.swmSenCtrlInject]
    ++ need Feat.housePhase ((List.range 4).map F.swmGlfoCfgPh)
    ++ need Feat.strike [F.alcStkCtrlEn, F.alcStkCtrlQuant, F.alcStkMap0, F.alcStkMap1, F.alcStkMap2]
    ++ need Feat.outSig [F.outSigCtrlEn, F.outSigCtrlInject]
    ++ need Feat.tdm [⟨F.outPortEn.addr, 5, 1⟩, F.outTdmCfgFslen, F.outTdmCfgDelay, F.outTdmCfgBckpol]
    ++ need Feat.ltcOut [⟨F.outPortEn.addr, 6, 1⟩, F.outLtcCfgEn, F.outLtcCfgRate, F.outLtcCfgDf, F.outLtcCfgBgf, F.outLtcOfs,
        F.outLtcUb]
    ++ need Feat.aesCsOvr ((List.range 4).flatMap fun x => F.aesTxMask x :: csFields x)
    ++ (if a = F.htGpOe.addr ∨ a = F.htGpOut.addr then [Feat.gpHost] else [])
    ++ (if a ∈ [F.pwrHost.addr, F.pwrFloorArm.addr, F.pwrFloorAtLo.addr, F.pwrFloorAtHi.addr] then [Feat.pwrNap] else [])
    ++ (if a = F.memChkCtrlStart.addr ∧ w.getLsbD 0 = true ∧ w.getLsbD 1 = true then
        -- a region WIPE (R253)
        match spaceOf (d.get F.memChkAddr) with
        | .wave | .par => [Feat.swarm]
        | .cue => [Feat.cue]
        | _ => []
      else [])

/-- The feature that Table 0.4 names for a register's block. -/
def blockFeature (a : Nat) : List Nat :=
  if (0x1800 ≤ a ∧ a < 0x2800) ∨ (0x3800 ≤ a ∧ a < 0x3C00) then [Feat.swarm]
  else if 0x2800 ≤ a ∧ a < 0x3000 then [Feat.cue]
  else if 0x4800 ≤ a ∧ a < 0x5000 then [Feat.tcuHost]
  else []

/-- Whether a register write is in the base set (R16). -/
def baseWrite (a : Nat) : Bool :=
  decide (0x3000 ≤ a ∧ a < 0x3400) || decide (a = F.sysFeatAcceptLo.addr) || decide (a = F.sysFeatAcceptHi.addr)

/-- EFEATURE of a data-path register write (R15, R229). -/
def Dev.featureOk (d : Dev) (a : Nat) (w : Word) : Bool :=
  baseWrite a || (d.on F.hcpStatusNegotiated && (blockFeature a ++ d.narrower a w).all d.feature)

/-- Whether the data path may write the register under some active set (R15, R403, R349, R448, R465, R491). -/
def dataPathMay (a : Nat) : Bool :=
  !(decide (a = F.sysRstReq.addr) || decide (a = F.sysLcReqTarget.addr) || decide (0x5000 ≤ a ∧ a < 0x5400)
    || (decide (0x6000 ≤ a ∧ a < 0x6800) && !decide (a = F.updEventStepDone.addr))
    || decide (a = F.fltClear.addr) || decide (a = F.fltHealthForceLow.addr) || decide (a = F.fltMuteCfgRefLapse.addr)
    || decide (a ∈ [F.fltPeerCfg.addr, F.fltPeerBlk.addr, F.fltPeerSig.addr])
    || (decide (0x6900 ≤ a ∧ a < 0x69A0) && decide (a % 16 < 12)) || decide (a = F.dbgCtrlHalt.addr))

/-- Whether the path and the life-cycle state ever permit the write (R15, R264, R409, R491). -/
def Dev.permitted' (d : Dev) (p : Path) (a : Nat) (w : Word) : Bool :=
  let late := decide (2 ≤ d.sys.lc.toNat)
  (p.isMgmt || dataPathMay a)
    && !(late && (decide (a = F.memInjArm.addr) || decide (a = F.dbgCtrlHalt.addr)))
    && !(decide (d.sys.lc = 3#2) && decide (a = F.outPortEn.addr) && decide (bitsOf w 0 7 ≠ 0))

/-- The refusals that the register's own unit gives: EARG, ESTATE, EBUSY, EQFULL. -/
def Dev.unitCheck (d : Dev) (a : Nat) (w : Word) : Status :=
  if isApply a ∨ a % 0x400 = 0x3F8 then .ok
  else if a < 0x0800 then .ok
  else if a < 0x1800 then d.timeCheck a w
  else if a < 0x2000 then swmCheck a w
  else if a < 0x2800 then d.alcCheck a w
  else if a < 0x3000 then d.cueCheck a w
  else if a < 0x3400 then d.hcpCheck a w
  else if a < 0x3800 then d.memCheck a w
  else if a < 0x4800 then d.outCheck a w
  else if a < 0x5000 then d.tcuCheck a w
  else if a < 0x5800 then d.twoWireCheck a w
  else if a < 0x6000 then d.serialCheck a w
  else if a < 0x6800 then .ok
  else if a < 0x7000 then d.fltCheck a w
  else .ok

/-- Why a register request is refused whole, in the order of R19; OK where it is not. -/
def Dev.regRefusal (d : Dev) (r : Req) : Status :=
  let w := reqWord r
  if !d.permitted' r.path r.addr w then .eperm
  else if !r.path.isMgmt && !d.featureOk r.addr w then .efeature
  else d.unitCheck r.addr w

/-- Why a memory request is refused whole (R15, R95, R213, R332). -/
def Dev.memRefusal (d : Dev) (r : Req) : Status :=
  let feat (f : Nat) : Status := if r.path.isMgmt || d.feature f then .ok else .efeature
  match spaceOf r.addr with
  | .par | .wave => feat Feat.swarm
  | .cue => feat Feat.cue
  | .flash => .eperm
  | _ => .earg

/-! ### Fields -/

/-- Whether LK fields of the register are locked: the block runs, as its own run control defines (R43). -/
def Dev.lockedReg (d : Dev) (a : Nat) : Bool :=
  if 0x1000 ≤ a ∧ a < 0x1800 then d.on F.refCtrlRun
  else if 0x1800 ≤ a ∧ a < 0x2000 then d.on F.swmCtrlRun || d.on F.swmStatusRunning
  else if 0x2000 ≤ a ∧ a < 0x2800 then d.on F.alcCtrl
  else if 0x2800 ≤ a ∧ a < 0x3000 then d.cueLocked a
  else if 0x3800 ≤ a ∧ a < 0x4000 then d.outLocked a
  else if 0x4000 ≤ a ∧ a < 0x4400 then (d.port 0).run
  else if tcuBase ≤ a ∧ a < tcuBase + 0x200 then d.chanBusy (tcuChanOf a)
  else if 0x5400 ≤ a ∧ a < 0x5800 then d.on F.twcCfgEn
  else if 0x5800 ≤ a ∧ a < 0x5C00 then d.on F.ua0CtrlEn
  else if 0x5C00 ≤ a ∧ a < 0x6000 then d.on F.ua1CtrlEn
  else false

/-- Low words that wait for their high word: TCU START and 64-bit compares, PWR_FLOOR_AT, the INC of a global LFO (R94, R304,
R312, R397). -/
def Dev.isHeld (d : Dev) (a : Nat) : Bool :=
  d.tcuHeld a || decide (a = F.pwrFloorAtLo.addr) || ((List.range 4).any fun g => decide (a = (F.swmGlfoIncLo g).addr))

/-- The held low word that a write to `a` applies. -/
def Dev.heldFor (d : Dev) (a : Nat) : Option Nat :=
  match d.tcuPartner a with
  | some l => some l
  | none =>
    if a = F.pwrFloorAtHi.addr then some F.pwrFloorAtLo.addr
    else if (List.range 4).any fun g => decide (a = (F.swmGlfoIncHiInc g).addr) then some (a - 4)
    else none

/-- Registers that pass each written value on to a queue and hold none of it. -/
def isPortal (a : Nat) : Bool :=
  decide (a ∈ [F.ua0DataData.addr, F.ua1DataByte.addr, F.twcDataByte.addr])

/-- The word a write to `a` is compared with: the held low word, the selected thread register, or the state of record. -/
def Dev.present (d : Dev) (a : Nat) : Word :=
  if a = F.cueRdata.addr then d.rdata else if d.isHeld a then (d.heldWord a).getD (d.reg a) else d.reg a

/-- The key of a field's setter (R35). CUE_RDATA stands for the register it names. -/
def Dev.fieldKey (d : Dev) (a lo : Nat) : Nat :=
  if a = F.cueRdata.addr then 2 ^ 40 + 32 * d.get F.cueRselThread + d.get F.cueRselReg else a * 32 + lo

/-- Whether the field counts as LOCKED: by its access code, or as a thread register through CUE_RDATA (R200). -/
def isLockable (a : Nat) (f : Field) : Bool := decide (f.acc = .lk) || decide (a = F.cueRdata.addr)

/-- What a request has met so far: bits for actions, whether some field applied, and whether a field was locked, lost under R36, refused
or won under R35. -/
structure Met where
  w1 : Word
  did : Bool
  locked : Bool
  lost : Bool
  refused : Bool
  won : Option Path
  deriving DecidableEq, Repr

def Met.none' : Met := ⟨0, false, false, false, false, none⟩

/-- Table-driven precedence (R36): of the cycle's requests `live`, sorted by precedence, the values for one field or byte (`read` gives
none where a request does not write it). -/
def valuesOf {α : Type} (live : List Req) (read : Req → Option α) : List (Path × α) :=
  live.filterMap fun q => (read q).map fun v => (q.path, v)

/-- Whether a request with value `v` loses under R36: the request of highest precedence writes another value. -/
def loses {α : Type} [DecidableEq α] (vs : List (Path × α)) (v : α) : Bool :=
  match vs with
  | x :: _ => decide (x.2 ≠ v)
  | [] => false

/-- Whether R35 is left out for a write of `v`: it won a contradiction under R36, or the side that last set the field writes the same
value in the same cycle, so that all such requests succeed (R38). -/
def Dev.exempt {α : Type} [DecidableEq α] (d : Dev) (vs : List (Path × α)) (key : Nat) (v : α) : Bool :=
  vs.any fun x => decide (x.2 ≠ v) || decide (x.1.side = setterSide (d.setter key))

/-- What R35 makes of a write of a value that differs from the field's, among the values `vs` of its cycle. -/
def Dev.splitAmong {α : Type} [DecidableEq α] (d : Dev) (vs : List (Path × α)) (a key side : Nat) (v : α) : Split :=
  if d.exempt vs key v then .plain else d.splitOf a key side

/-- A field takes a value, and the path becomes its last setter if the value is another. -/
def Dev.fieldSet (d0 : Dev) (r : Req) (f : Field) (v : Nat) (d : Dev) : Dev :=
  let a := r.addr
  let d := if d0.isHeld a then d.setHeld a (some (insBits ((d.heldWord a).getD (d.reg a)) f.lo f.w v))
    else d.setReg a (insBits (d.reg a) f.lo f.w v)
  if v = bitsOf (d0.present a) f.lo f.w ∨ isPortal a then d else d.setSetter (d0.fieldKey a f.lo) r.path

/-- The values that the requests of a cycle write to a field of the register at `a`. -/
def fieldValues (live : List Req) (a : Nat) (f : Field) : List (Path × Nat) :=
  valuesOf live fun q => if q.addr = a then some (bitsOf (reqWord q) f.lo f.w) else none

/-- One field of a register request (R33 to R43, R53): `d0` is the state at the start of the cycle, `live` the requests that reach their
unit in it and are not refused whole, in order of precedence. -/
def Dev.fieldWrite (d0 : Dev) (live : List Req) (r : Req) (acc : Met × Dev) (f : Field) : Met × Dev :=
  let a := r.addr
  let w := reqWord r
  let v := bitsOf w f.lo f.w
  let mask := fieldMask f.lo f.w
  let held := bitsOf (d0.present a) f.lo f.w
  let vs := fieldValues live a f
  let acted (m : Met) : Met := { m with did := true }
  match f.acc with
  | .ro | .rc => acc
  | .w1c => (acted acc.1, acc.2.setReg a (acc.2.reg a &&& ~~~(w &&& mask)))
  | .w1s => (acted { acc.1 with w1 := acc.1.w1 ||| (w &&& mask) }, acc.2)
  | .wo =>
    if loses vs v then ({ acc.1 with lost := true }, acc.2) else (acted { acc.1 with w1 := acc.1.w1 ||| (w &&& mask) }, acc.2)
  | .rw | .rws _ | .lk =>
    if isLockable a f && d0.lockedReg a then ({ acc.1 with locked := acc.1.locked || decide (v ≠ held) }, acc.2)
    else if loses vs v then ({ acc.1 with lost := true }, acc.2)
    else
      let key := d0.fieldKey a f.lo
      match (if v = held ∨ isPortal a then Split.plain else d0.splitAmong vs a key r.path.side v) with
      | .refused => ({ acc.1 with refused := true }, acc.2)
      | .wins => (acted { acc.1 with won := some (setterPath (d0.setter key)) }, d0.fieldSet r f v acc.2)
      | .plain => (acted acc.1, d0.fieldSet r f v acc.2)

/-- What R35, R36 and R43 record of a request: sticky bits, losers and fault events. -/
def Dev.recordMet (d : Dev) (r : Req) (m : Met) : Dev :=
  let u := unitOf r.addr
  let d := if m.locked then d.put (F.stickyLockViol u) 1 else d
  let d := if m.lost then
      ((d.loser u r.path).whenB r.posted fun d => d.put (F.stickyConflict u) 1).conflictEvent r.addr r.path
    else d
  let d := if m.refused then
      ((d.loser u r.path).whenB r.posted fun d => d.put (F.stickySplitLoss u) 1).splitEvent r.addr
    else d
  match m.won with
  | some p => (d.loser u p).splitEvent r.addr
  | none => d

/-- The statuses of a request's fields. -/
def Met.statuses (m : Met) : List Status :=
  (if m.locked || m.refused then [.estate] else []) ++ (if m.lost then [.econflict] else [])

/-! ### Actions of a register write -/

/-- Writes that can make a state in force no longer permitted at once (R395, Table 12.4): ALC_STK_CTRL, a TCU channel's ARM or SLOW, debug
halt. What forbids only an entry under way is met where the entry completes. -/
def mayForbid (a : Nat) (w1 : Word) : Bool :=
  decide (a = F.alcStkCtrlEn.addr) || (decide (a = F.tcuGctrlArm.addr) && decide (bitsOf w1 0 8 ≠ 0))
    || (decide (tcuBase ≤ a ∧ a < tcuBase + 0x200)
        && (decide (tcuOff a = 0x04) || (decide (tcuOff a = 0x00) && w1.getLsbD 0)))
    || decide (a = F.dbgCtrlHalt.addr)

/-- What a register write starts once its fields have changed; `d0` is the state at the start of the cycle, `w1` the action bits. -/
def Dev.blockHook (d d0 : Dev) (a : Nat) (w1 : Word) (byHost : Bool) : Status × Dev :=
  let old := d0.reg a
  if isApply a ∨ a % 0x400 = 0x3F8 then (.ok, d)
  else if a < 0x0400 then d.sysHook a w1
  else if a < 0x0800 then (.ok, d.pwrHook a w1)
  else if a < 0x1800 then (.ok, d.timeHook a old w1)
  else if a < 0x2000 then (.ok, d.swmHook a old w1)
  else if a < 0x2800 then (.ok, d.alcHook a old)
  else if a < 0x3000 then d.cueHook (d0.reg F.cueRselThread.addr) a w1
  else if a < 0x3400 then (.ok, d.hcpHook a w1 byHost)
  else if a < 0x3800 then (.ok, d.memHook a w1)
  else if a < 0x4800 then d.outHook a w1
  else if a < 0x5000 then d.tcuHook d0 a w1
  else if a < 0x5800 then d.twoWireHook a w1
  else if a < 0x6000 then d.serialHook a old w1
  else if a < 0x6800 then d.updHook a w1
  else if a < 0x7000 then (.ok, d.fltHook a w1)
  else (.ok, d.dbgHook a w1)

/-- The same, with the wake that a write begins which forbids the power state in force (R395). -/
def Dev.regHook (d d0 : Dev) (a : Nat) (w1 : Word) (byHost : Bool) : Status × Dev :=
  let r := d.blockHook d0 a w1 byHost
  if mayForbid a w1 then (r.1, r.2.permissionChange) else r

/-- BLOCK_APPLY (R41, R53): it acts on the shadows as they stood at the start of the cycle; with both bits it discards. `w1` holds the 1
bits of all the cycle's requests (R38). -/
def Dev.applyWrite (d : Dev) (a : Nat) (w1 : Word) : Dev :=
  if !isApply a then d
  else if w1.getLsbD 1 then d.discardBlock (blockBase a)
  else if w1.getLsbD 0 then d.applyBlock (blockBase a)
  else d

/-- A high word applies the low word held for it. -/
def Dev.applyHeld (d0 : Dev) (a : Nat) (d : Dev) : Dev :=
  match d0.heldFor a with
  | some l =>
    match d0.heldWord l with
    | some w => (d.setReg l w).setHeld l none
    | none => d
  | none => d

/-! ### Register requests of one cycle -/

/-- A register request with its place among the cycle's requests. -/
abbrev Ask := Nat × Req

/-- Sort requests by precedence (R36). -/
def byRank (l : List Ask) : List Ask := sortBy (fun a b => decide (a.2.path.rank ≤ b.2.path.rank)) l

/-- The fields of the surviving requests, in order of precedence: each request's account, and the state. -/
def Dev.fieldsOf (d0 : Dev) (live : List Req) : List Ask → Dev → List (Ask × Met) × Dev
  | [], d => ([], d)
  | q :: rest, d =>
    let r := (regFields q.2.addr).foldl (d0.fieldWrite live q.2) (Met.none', d)
    let r' := d0.fieldsOf live rest (r.2.recordMet q.2 r.1)
    ((q, r.1) :: r'.1, r'.2)

/-- What the write of the register at `a` starts: its own fields stand as written. Where other registers are written in the same cycle,
the action is judged by the state at the start of the cycle, `d0` (R39): one refused there does nothing. -/
def Dev.startHook (d0 d : Dev) (alone : Bool) (a : Nat) (w1 : Word) (byHost : Bool) : Status × Dev :=
  let act (e : Dev) : Status × Dev := (d0.applyHeld a e).regHook d0 a w1 byHost
  if alone then act d
  else
    let st := (act (d0.setReg a (d.reg a))).1
    (st, if st.isError then d else (act d).2)

/-- The order in which the actions of one cycle take place: an action that stops follows one that starts, so that STOP wins over an ARM
made by another register's write (R303), and a block's own stop over what it would stop. -/
def stopsLast (l : List Nat) : List Nat :=
  let late (a : Nat) : Bool := decide (a = F.cueCtrl.addr) || decide (a = F.swmCtrlRun.addr)
  l.filter (fun a => !late a) ++ l.filter late

/-- The action bits of the register at `a` less those that a STOP of the same cycle, written to another register, takes away: ARM (R303), and
START and RESUME where CUE_CTRL.RUN is written 0 (R177, R178). -/
def Dev.unstopped (d : Dev) (done : List (Ask × Met)) (a : Nat) (w1 : Word) : Word :=
  let bits (b : Nat) : Word := (done.filter fun x => x.1.2.addr == b).foldl (fun w x => w ||| x.2.w1) 0
  if a = F.tcuGctrlArm.addr then
    (List.range 8).foldl (fun w n => if (bits (F.tcuChCtrlArm n).addr).getLsbD 1 then w &&& ~~~(1#32 <<< n) else w) w1
  else if tcuBase ≤ a ∧ a < tcuBase + 0x200 ∧ tcuOff a = 0 then
    (if (bits F.tcuGctrlArm.addr).getLsbD (8 + tcuChanOf a) then w1 &&& ~~~(1#32) else w1)
  else if isCueTh a = true ∧ cueThOff a = 0 then
    (if (done.any fun x => x.1.2.addr == F.cueCtrl.addr) && !d.on F.cueCtrl then w1 &&& ~~~(5#32) else w1)
  else w1

/-- The actions at each address that a request reached, with the status each address answers. -/
def Dev.hooksOf (d0 : Dev) (done : List (Ask × Met)) (alone : Bool) : List Nat → Dev → List (Nat × Status) × Dev
  | [], d => ([], d)
  | a :: rest, d =>
    let here := done.filter fun x => x.1.2.addr == a
    let w1 := d.unstopped done a (here.foldl (fun w x => w ||| x.2.w1) 0)
    let byHost := here.any fun x => x.1.2.path == .host
    let r := if here.any fun x => x.2.did then d0.startHook d alone a w1 byHost else (.ok, d)
    let r' := d0.hooksOf done alone rest r.2
    ((a, r.1) :: r'.1, r'.2)

/-- The 1 bits of all requests for the register at `a` (R38). -/
def onesAt (live : List Ask) (a : Nat) : Word := (live.filter fun q => q.2.addr == a).foldl (fun w q => w ||| reqWord q.2) 0

/-- The register requests of one ECLK cycle (R36 to R39): a status for each. -/
def Dev.writeRegs (d0 : Dev) (asks : List Ask) : List (Nat × Status) × Dev :=
  let refused := asks.filterMap fun q =>
    match d0.regRefusal q.2 with
    | .ok => none
    | st => some (q.1, st)
  let live := byRank (asks.filter fun q => d0.regRefusal q.2 == .ok)
  let addrs := (live.map (·.2.addr)).dedup
  let d := d0.each addrs fun a d => d.applyWrite a (onesAt live a)
  let r := d0.fieldsOf (live.map (·.2)) live d
  let h := d0.hooksOf r.1 (decide (addrs.length ≤ 1)) (stopsLast addrs) r.2
  let sts := r.1.map fun x =>
    (x.1.1, Status.first (((h.1.find? fun y => y.1 == x.1.2.addr).map (·.2)).getD .ok :: x.2.statuses))
  (refused ++ sts, h.2)

/-! ### Memory requests (R248, R35) -/

/-- The value that a request would store at byte `x`. -/
def reqByte (r : Req) (x : Nat) : Option Byte := if r.addr ≤ x then r.data[x - r.addr]? else none

/-- What becomes of one byte of a request. -/
inductive ByteFate where
  | lost | refused | wins | plain
  deriving DecidableEq, Repr

/-- The fate of the byte at `x` with value `b`, among the requests `live` of its cycle in order of precedence. -/
def Dev.byteFate (d : Dev) (live : List Req) (r : Req) (x : Nat) (b : Byte) : ByteFate :=
  let vs := valuesOf live fun q => reqByte q x
  if loses vs b then .lost
  else if b = (d.lineView (lineOf x)).2.getD (x % 32) 0 then .plain
  else match d.splitAmong vs x x r.path.side b with
    | .refused => .refused
    | .wins => .wins
    | .plain => .plain

/-- Runs of consecutive bytes that remain. -/
def runsOf : List (Nat × Byte × ByteFate) → List (Nat × List Byte)
  | [] => []
  | (x, b, f) :: t =>
    let rest := runsOf t
    if f = .lost ∨ f = .refused then rest
    else match rest with
      | (y, bs) :: l => if y = x + 1 then (x, b :: bs) :: l else (x, [b]) :: (y, bs) :: l
      | [] => [(x, [b])]

/-- One run of bytes is written: through the rules of voice parameter memory, or line by line. -/
def Dev.storeRun (d : Dev) (p : Path) (run : Nat × List Byte) : List (Nat × Status) × Dev :=
  let whole := match p with
    | .cue _ => true
    | _ => false
  if spaceOf run.1 = .par then d.paramWrite (pathMaster p) p.isMgmt whole run.1 run.2
  else if whole then
    let r := d.writeWhole (pathMaster p) run.1 run.2
    ([(run.1, r.1)], r.2)
  else d.writeLines (pathMaster p) (chunksOf run.1 run.2)

/-- One memory request: the failing words or lines with their statuses, and the state. -/
def Dev.memWrite (d : Dev) (live : List Req) (r : Req) : List (Nat × Status) × Dev :=
  let fates := r.data.zipIdx.map fun x => (r.addr + x.2, x.1, d.byteFate live r (r.addr + x.2) x.1)
  let old := fates.map fun x => (d.lineView (lineOf x.1)).2.getD (x.1 % 32) 0
  let runs := runsOf fates
  let whole := match r.path with
    | .cue _ => true
    | _ => false
  let parts := runs.flatMap fun run => chunksOf run.1 run.2
  -- a rotated ST that lost a byte in its middle still stands or falls as one (R251)
  let res := if whole && decide (2 ≤ runs.length) && parts.any (fun c => (d.lineView (lineOf c.1)).1.isErr) then
      ([(r.addr, Status.epoison)], (d.checkAll (pathMaster r.path) parts).2)
    else runs.foldl (fun (acc : List (Nat × Status) × Dev) run =>
      let q := acc.2.storeRun r.path run
      (acc.1 ++ q.1.filter (fun s => s.2.isError), q.2)) ([], d)
  let failed (x : Nat) : Bool := res.1.any fun s =>
    if spaceOf x = .par then s.1 / 4 == x / 4 else lineOf s.1 == lineOf x && decide (s.1 ≤ x)
  let d' := res.2.each (fates.zip old) fun x d =>
    if (x.1.2.2 = .plain ∨ x.1.2.2 = .wins) ∧ x.1.2.1 ≠ x.2 ∧ failed x.1.1 = false then d.setSetter x.1.1 r.path else d
  let has (f : ByteFate) : List Nat := (fates.filter fun x => x.2.2 == f).map (·.1)
  let won := match has .wins with
    | x :: _ => some (setterPath (d.setter x))
    | [] => none
  let m : Met := ⟨0, true, false, !(has .lost).isEmpty, !(has .refused).isEmpty, won⟩
  (res.1 ++ (has .lost).map (fun x => (x / 4 * 4, Status.econflict)) ++ (has .refused).map (fun x => (x / 4 * 4, Status.estate)),
   d'.recordMet r m)

/-- Window-port turns of the requests of a cycle (R246, R247): a full line holds the port for one cycle, a partial write for two. The
cue engine takes part on the parameter array only. -/
def Dev.meetTurns (d : Dev) (rs : List Req) : Dev :=
  let asks := rs.filter fun r => match r.path with
    | .cue _ => decide (spaceOf r.addr = .par)
    | _ => true
  d.each ((asks.map fun r => bankOf r.addr).dedup) fun b d =>
    let here := asks.filter fun r => bankOf r.addr == b
    d.takeTurns b (here.map fun r => (pathMaster r.path, if r.addr % 32 = 0 ∧ 32 ≤ r.data.length then 1 else 2))

/-- The memory requests of one cycle, in order of precedence; `live` holds them all. -/
def Dev.writeMems (live : List Req) : List Ask → Dev → List (Nat × List (Nat × Status)) × Dev
  | [], d => ([], d)
  | q :: rest, d =>
    let r := d.memWrite live q.2
    let r' := Dev.writeMems live rest r.2
    ((q.1, r.1) :: r'.1, r'.2)

/-! ### The requests of one ECLK cycle -/

/-- The failures of one request: the failing item's address and its status. -/
abbrev Failures := List (Nat × Status)

/-- Every request that reaches its unit in one ECLK cycle (R36 to R39, R248, R494): each request's failures, in the order given. -/
def Dev.arbitrate (d : Dev) (reqs : List Req) : List Failures × Dev :=
  let asks : List Ask := reqs.zipIdx.map fun x => (x.2, x.1)
  let regs := asks.filter fun q => isReg q.2.addr
  let mems := asks.filter fun q => !isReg q.2.addr
  let refused := mems.filterMap fun q =>
    match d.memRefusal q.2 with
    | .ok => none
    | st => some (q.1, [(q.2.addr, st)])
  let live := byRank (mems.filter fun q => d.memRefusal q.2 == .ok)
  let r := d.writeRegs regs
  let turns := r.2.meetTurns (live.map (·.2))
  let m := Dev.writeMems (live.map (·.2)) live turns
  let served (d : Dev) : Dev := { d with mem := { d.mem with rr := turns.mem.rr } }
  let fails := refused ++ m.1 ++ r.1.map fun x =>
    (x.1, if x.2.isError then [(((asks.find? fun q => q.1 == x.1).map (·.2.addr)).getD 0, x.2)] else [])
  (asks.map fun q => ((fails.find? fun f => f.1 == q.1).map (·.2)).getD [], served m.2)

/-- The status that R19 reports of a request's failures. -/
def statusOf (f : Failures) : Status := Status.first (f.map (·.2))

/-- A register request of a path. -/
def regReq (p : Path) (a : Nat) (w : Word) (posted : Bool) : Req := ⟨p, a, bytesOf w.toNat 4, posted⟩

/-- One register write by itself. -/
def Dev.writeReg (d : Dev) (p : Path) (a : Nat) (w : Word) (posted : Bool) : Status × Dev :=
  let r := d.arbitrate [regReq p a w posted]
  (statusOf (r.1.headD []), r.2)

/-- The word that writes one field of a register: the other fields keep their values, and no other action bit is set. -/
def Dev.fieldWord (d : Dev) (f : Fld) (v : Nat) : Word :=
  let keep := (regFields f.addr).foldl (fun (w : Word) x =>
    match x.acc with
    | .rw | .rws _ | .lk => insBits w x.lo x.w (bitsOf (d.present f.addr) x.lo x.w)
    | _ => w) 0
  insBits keep f.lo f.w v

/-! ### Reads (R11, R33, R56) -/

/-- The word a register shows, with what its read does but for RC fields. -/
def Dev.regView (d : Dev) (p : Path) (a : Nat) : Word × Dev :=
  let plain (o : Option Word) : Word × Dev := (o.getD (d.reg a), d)
  let full (o : Option (Word × Dev)) : Word × Dev := o.getD (d.reg a, d)
  if isApply a then (if d.applyPend (blockBase a) then 0x100 else 0, d)
  else if a % 0x400 = 0x3F8 then (d.reg a, d)
  else if a < 0x0400 then plain (d.sysRead a)
  else if a < 0x0800 then plain (d.pwrRead a)
  else if a < 0x1800 then full (d.timeRead p a)
  else if a < 0x2000 then plain (d.swmRead a)
  else if a < 0x2800 then plain (d.alcRead a)
  else if a < 0x3000 then plain (d.cueRead a)
  else if a < 0x3400 then plain (d.hcpRead a)
  else if a < 0x3800 then plain (d.memRead a)
  else if a < 0x4800 then full (d.outRead p a)
  else if a < 0x5000 then full (d.tcuRead p a)
  else if a < 0x5800 then full (d.twoWireRead a)
  else if a < 0x6000 then full (d.serialRead a)
  else if a < 0x6800 then plain (d.updRead p a)
  else if a < 0x7000 then full (d.fltRead p a)
  else plain (d.dbgRead a)

/-- A read of the register at `a` by path `p`: RC fields clear after they are read (R10). -/
def Dev.readReg (d : Dev) (p : Path) (a : Nat) : Word × Dev :=
  let r := d.regView p a
  let rc := (regFields a).filter fun f => f.acc = .rc
  (r.1, rc.foldl (fun d f => d.setReg a (insBits (d.reg a) f.lo f.w 0)) r.2)

end Sys2Proof.Machine
end

