-- ==== Sys2Proof/Machine/Access.lean ====
section
/-! DEFINITION. How requests reach their units and what their outcome does to the sender: wakes (R26, R395), LAST_ST of the
two-wire target (R333), posted failures (R224), and the outcome of a cue thread's request (R191). -/

namespace Sys2Proof.Machine

/-! ### Reaching a unit (R26, R210, R337) -/

/-- Whether a request of path `p` for address `a` reaches its unit now. -/
def Dev.reaches (d : Dev) (p : Path) (a : Nat) : Bool :=
  match p with
  | .mgmt => decide (d.sys.phase ≠ .awaitXi) && d.served a
  | .host => d.coreOn && d.isReady
  | .cue _ => d.coreOn

/-- A request that does not reach its unit is a wake request (R26); on the management path LAST_ST takes EBUSY (R337). -/
def Dev.turnAway (d : Dev) (p : Path) (a : Nat) : Dev :=
  match p with
  | .mgmt => if d.sys.phase = .awaitXi then d else (d.requestWake WakeCode.twoWire).lastSt .ebusy a false
  | .host => d.requestWake WakeCode.qcs
  | .cue _ => d

/-! ### Outcomes -/

/-- Whether R35 refuses part of a request: the ESTATE that R191 makes a soft refusal. -/
def Dev.splitHit (d : Dev) (live : List Req) (r : Req) : Bool :=
  if isReg r.addr then
    decide (d.regRefusal r = .ok) && (regFields r.addr).any fun f =>
      let v := bitsOf (reqWord r) f.lo f.w
      (match f.acc with
        | .rw | .rws _ | .lk => true
        | _ => false)
      && decide (v ≠ bitsOf (d.present r.addr) f.lo f.w) && !(isLockable r.addr f && d.lockedReg r.addr)
      && !loses (fieldValues live r.addr f) v
      && decide (d.splitAmong (fieldValues live r.addr f) r.addr (d.fieldKey r.addr f.lo) r.path.side v = .refused)
  else r.data.zipIdx.any fun x => decide (d.byteFate live r (r.addr + x.2) x.1 = .refused)

/-- The outcome of thread `n`'s request (R191): ESTATE is soft under R35 alone. -/
def Dev.cueOutcome (d : Dev) (n : Nat) (st : Status) (split : Bool) : Dev :=
  if st = .estate ∧ split = false then d.trap n Trap.refused st.code else d.outcome n st

/-- A thread whose ST, TCUSET or GPO was a rival of another command's request issues it. -/
def Dev.cueSettle (d : Dev) (n : Nat) (st : Status) (split : Bool) : Dev :=
  match d.found n with
  | .ok (w, _) =>
    if d.canIssue n && decide (opcodeOf w ∈ [0x03, 0x30, 0x31]) then (d.noteIssue n).cueOutcome n st split else d
  | .error _ => d

/-- The words of `n` bytes from `a` on. -/
def wordsIn (a n : Nat) : List Nat := ((List.range n).map fun i => (a + i) / 4 * 4).dedup

/-- One failure for each word, with the status that R19 ranks first. -/
def oncePerWord (f : Failures) : Failures :=
  ((f.map (·.1)).dedup).map fun a => (a, statusOf (f.filter fun x => x.1 = a))

/-- The failing words of a posted write (R224): a refused line fails every word it was to take. -/
def Dev.failingWords (d0 : Dev) (r : Req) (f : Failures) : Failures :=
  if isReg r.addr then oncePerWord f
  else if d0.memRefusal r ≠ .ok then (wordsIn r.addr r.data.length).map fun a => (a, d0.memRefusal r)
  else
    oncePerWord (f.flatMap fun x =>
      if x.2 = .epoison ∧ spaceOf x.1 ≠ .par then
        (wordsIn x.1 (min (lineOf x.1 + 32) (r.addr + r.data.length) - x.1)).map fun a => (a, x.2)
      else [(x.1 / 4 * 4, x.2)])

/-- What the outcome of a request does to its sender; `d0` is the state before the cycle. -/
def Dev.settle (d d0 : Dev) (live : List Req) (r : Req) (f : Failures) : Dev :=
  match r.path with
  | .mgmt => if f.isEmpty then d.lastSt .ok r.addr false else d.each f fun x d => d.lastSt x.2 x.1 false
  | .host => if r.posted then d.each (d0.failingWords r f) fun x d => d.postFail x.2 (some x.1) 0 0 else d
  | .cue th => d.cueSettle th (statusOf f) (d0.splitHit live r)

/-- The requests of a cycle that are not refused whole, in order of precedence. -/
def Dev.liveOf (d : Dev) (rs : List Req) : List Req :=
  sortBy (fun a b => decide (a.path.rank ≤ b.path.rank))
    (rs.filter fun r => decide ((if isReg r.addr then d.regRefusal r else d.memRefusal r) = .ok))

/-- The requests of one ECLK cycle, with their outcomes told to their senders: a status for each. `own` is a thread whose own
instruction makes its request and settles it. -/
def Dev.requests (d : Dev) (rs : List Req) (own : Option Path := none) : List Status × Dev :=
  let here := rs.filter fun r => d.reaches r.path r.addr
  let r := d.arbitrate here
  let pairs := here.zip r.1
  let d' := r.2.each pairs fun x e => if own = some x.1.path then e else e.settle d (d.liveOf here) x.1 x.2
  let d' := d'.each (rs.filter fun r => !d.reaches r.path r.addr) fun q e => e.turnAway q.path q.addr
  (rs.map fun q => match pairs.find? (fun x => x.1 == q) with
    | some x => statusOf x.2
    | none => .ebusy, d')

/-! ### One write, one read -/

/-- A sender writes a register. -/
def Dev.srcWord (d : Dev) (s : Src) (a : Nat) (w : Word) : Dev :=
  let r := d.requests [regReq s.path a w s.posted]
  r.2.answer r.1

/-- A sender writes one field of a register. -/
def Dev.srcWrite (d : Dev) (s : Src) (f : Fld) (v : Nat) : Dev := d.srcWord s f.addr (d.fieldWord f v)

/-- What a path that is turned away reads: on the data path QRDY is low and every word reads 0xDEAD_0000 (R26, R406). -/
def awayWord : Path → List Word
  | .host => [0xDEAD0000#32]
  | _ => []

/-- A path reads a register. -/
def Dev.srcRead (d : Dev) (p : Path) (a : Nat) : Dev :=
  if d.reaches p a then
    let r := d.readReg p a
    r.2.answer [] [r.1]
  else (d.turnAway p a).answer [.ebusy] (awayWord p)

/-! ### Wakes by events -/

/-- An AON event that set a bit of FLT_EVENT wakes the CT128 (R395, R463). -/
def Dev.wakeOnFault (d0 d : Dev) : Dev :=
  let old := d0.reg F.fltEventStateSplit.addr ||| d0.flt.aonEvents.zeroExtend 32
  let new := d.reg F.fltEventStateSplit.addr ||| d.flt.aonEvents.zeroExtend 32
  if new &&& ~~~old ≠ 0#32 then d.requestWake WakeCode.fault else d

/-- An event of the AON domain at which FLT_EVENT may be set; it needs house time to count. -/
def Dev.aonEvent (d : Dev) (f : Dev → Dev) : Dev := if d.time.counting then d.wakeOnFault (f d) else d

/-- What the HKP does, while it runs: debug halt stops it (R488). -/
def Dev.byHkp (d : Dev) (f : Dev → Dev) : Dev := if d.coreOn && !d.halted then f d else d

/-- An edge of source `src` wakes a thread's WAITTRIG (R181, R395). -/
def Dev.wakeOnEdge (d : Dev) (src : Nat) : Dev :=
  if (List.range 16).any fun n =>
    let x := d.thread n
    decide (x.state = .waiting) && decide (x.wait = Wait.trig) && x.latch.mask.getLsbD src
  then d.requestWake WakeCode.trigger else d

/-! ### The input stream of the host port (R214, R220) -/

/-- The requests of a WR: register words one by one, memory line by line. -/
def wrPieces (a : Nat) (data : List Byte) : List Chunk :=
  if isReg a then (List.range (data.length / 4)).map fun i => (a + 4 * i, (data.drop (4 * i)).take 4) else chunksOf a data

/-- Whether two requests touch one byte. -/
def overlaps (a n : Nat) (q : Req) : Bool := decide (a < q.addr + q.data.length) && decide (q.addr < a + n)

/-- The pieces of a write go out one after another; a rival meets the piece that shares a byte with it, any other the first. -/
def Dev.sendPieces (d : Dev) (p : Path) (posted : Bool) : List Chunk → List Req → Bool → Dev
  | [], rivals, _ => if rivals.isEmpty then d else (d.requests rivals).2
  | c :: cs, rivals, first =>
    let later (q : Req) : Bool := cs.any fun x => overlaps x.1 x.2.length q
    let meets (q : Req) : Bool := overlaps c.1 c.2.length q || (first && !later q)
    let r := d.requests (⟨p, c.1, c.2, posted⟩ :: rivals.filter meets)
    r.2.sendPieces p posted cs (rivals.filter fun q => !meets q) false

/-- A WR is applied. One that would reach outside its starting region changes nothing (R213). -/
def Dev.applyWr (d : Dev) (a : Nat) (data : List Byte) (rivals : List Req) : Dev :=
  if spaceOf a = .none ∨ spaceOf (a + data.length - 1) ≠ spaceOf a then
    ((d.requests rivals).2).postFail .earg (some a) 0 0
  else d.sendPieces .host true (wrPieces a data) rivals true

/-- WR and FLUSH items at the front of the stream are applied; a command waits for its own step. -/
def Dev.drainN : Nat → Dev → Dev
  | 0, d => d
  | fuel + 1, d =>
    if !d.coreOn || d.hcp.ledgerReq.isSome then d
    else match d.hcp.stream with
      | .wr a data rivals :: t => ((d.setHcp fun h => { h with stream := t }).applyWr a data rivals).drainN fuel
      | .flush :: t => ((d.setHcp fun h => { h with stream := t }).flushNow).drainN fuel
      | _ => d

def Dev.drain (d : Dev) : Dev := d.drainN (d.hcp.stream.length + 1)

end Sys2Proof.Machine
end

