-- ==== Sys2Proof/Machine/CueRows.lean ====
section
/-! DEFINITION. The commands of the cue engine (chapter 5): run control and the instructions that its threads issue. -/

namespace Sys2Proof.Machine

/-! ### Run control (R177, R178, R193, R200) -/

/-- CUE_THn_CTRL.START. -/
def execThreadStart (src : Src) (th : Fin 16) (s : State) : Host.Outcome State Fault Refusal :=
  s.effect fun d => d.srcWrite src (F.cueThCtrlStart th) 1

/-- CUE_THn_CTRL.STOP. -/
def execThreadStop (src : Src) (th : Fin 16) (s : State) : Host.Outcome State Fault Refusal :=
  s.effect fun d => d.srcWrite src (F.cueThCtrlStop th) 1

/-- CUE_THn_CTRL.RESUME. -/
def execThreadResume (src : Src) (th : Fin 16) (s : State) : Host.Outcome State Fault Refusal :=
  s.effect fun d => d.srcWrite src (F.cueThCtrlResume th) 1

/-- CUE_CTRL.RUN written 0. -/
def execCueRunStop (src : Src) (s : State) : Host.Outcome State Fault Refusal := s.effect fun d => d.srcWrite src F.cueCtrl 0

/-- CUE_THn_SIG written with `bits`. -/
def execThreadSignal (src : Src) (th : Fin 16) (bits : BitVec 16) (s : State) : Host.Outcome State Fault Refusal :=
  s.effect fun d => d.srcWrite src (F.cueThSig th) bits.toNat

/-- A write through CUE_RDATA. -/
def execCueRdataWrite (src : Src) (value : Word) (s : State) : Host.Outcome State Fault Refusal :=
  s.effect fun d => d.srcWord src F.cueRdata.addr value

/-! ### Instructions that act on their thread alone -/

/-- Issue of an instruction of opcode `op` whose effect is one on the thread, after which the PC moves on. -/
def Dev.issueAlu (d : Dev) (th : Fin 16) (op : Nat) (f : Thread → Word → Thread) : Dev :=
  d.issue th op fun w _ d => d.finish th fun x => f x w

def execLdi (th : Fin 16) (s : State) : Host.Outcome State Fault Refusal :=
  s.effect fun d => d.issue th 0x01 fun w e d => d.modThread th fun x => x.ldi w e
def execAdd (th : Fin 16) (s : State) : Host.Outcome State Fault Refusal := s.effect fun d => d.issueAlu th 0x04 Thread.add
def execSub (th : Fin 16) (s : State) : Host.Outcome State Fault Refusal := s.effect fun d => d.issueAlu th 0x05 Thread.sub
def execMul (th : Fin 16) (s : State) : Host.Outcome State Fault Refusal := s.effect fun d => d.issueAlu th 0x06 Thread.mul
def execAnd (th : Fin 16) (s : State) : Host.Outcome State Fault Refusal :=
  s.effect fun d => d.issueAlu th 0x07 fun x w => x.logic w (· &&& ·)
def execOr (th : Fin 16) (s : State) : Host.Outcome State Fault Refusal :=
  s.effect fun d => d.issueAlu th 0x08 fun x w => x.logic w (· ||| ·)
def execXor (th : Fin 16) (s : State) : Host.Outcome State Fault Refusal :=
  s.effect fun d => d.issueAlu th 0x09 fun x w => x.logic w (· ^^^ ·)
def execShl (th : Fin 16) (s : State) : Host.Outcome State Fault Refusal := s.effect fun d => d.issueAlu th 0x0A Thread.shl
def execShr (th : Fin 16) (s : State) : Host.Outcome State Fault Refusal := s.effect fun d => d.issueAlu th 0x0B Thread.shr
def execCmp (th : Fin 16) (s : State) : Host.Outcome State Fault Refusal := s.effect fun d => d.issueAlu th 0x0C Thread.cmp

/-- BR: the PC moves by the signed word offset in bits 25 to 0. -/
def execBr (th : Fin 16) (s : State) : Host.Outcome State Fault Refusal :=
  s.effect fun d => d.issue th 0x10 fun w _ d => d.modThread th fun x => x.jump (sbits w 0 26)
def execBrc (th : Fin 16) (s : State) : Host.Outcome State Fault Refusal :=
  s.effect fun d => d.issue th 0x11 fun w _ d => d.modThread th fun x => x.brc w
def execCall (th : Fin 16) (s : State) : Host.Outcome State Fault Refusal :=
  s.effect fun d => d.issue th 0x12 fun w _ d => d.call th w
def execRet (th : Fin 16) (s : State) : Host.Outcome State Fault Refusal :=
  s.effect fun d => d.issue th 0x13 fun _ _ d => d.ret th
def execLoop (th : Fin 16) (s : State) : Host.Outcome State Fault Refusal :=
  s.effect fun d => d.issue th 0x14 fun w _ d => d.modThread th fun x => x.loop w
def execYield (th : Fin 16) (s : State) : Host.Outcome State Fault Refusal :=
  s.effect fun d => d.issue th 0x1F fun _ _ d => d.yield th
def execHalt (th : Fin 16) (s : State) : Host.Outcome State Fault Refusal :=
  s.effect fun d => d.issue th 0x3D fun _ _ d => d.halt th

/-- TRAP: cause SOFT with the code in bits 15 to 0. -/
def execTrap (th : Fin 16) (s : State) : Host.Outcome State Fault Refusal :=
  s.effect fun d => d.issue th 0x3E fun w _ d => d.trap th Trap.soft (bitsOf w 0 16)

/-- A fetch, an opcode or a field that R182 and R183 do not allow traps. -/
def execIllegalOpcode (th : Fin 16) (s : State) : Host.Outcome State Fault Refusal := s.effect fun d => d.illegalAt th

/-! ### Time -/

def execAt (th : Fin 16) (s : State) : Host.Outcome State Fault Refusal :=
  s.effect fun d => d.issue th 0x18 fun w _ d => d.at' th w
def execAfter (th : Fin 16) (s : State) : Host.Outcome State Fault Refusal :=
  s.effect fun d => d.issue th 0x19 fun w _ d => d.after' th w
def execTget (th : Fin 16) (s : State) : Host.Outcome State Fault Refusal :=
  s.effect fun d => d.issue th 0x1A fun w _ d => d.tget th w
def execTadd (th : Fin 16) (s : State) : Host.Outcome State Fault Refusal :=
  s.effect fun d => d.issue th 0x1B fun w _ d => d.tadd th w

/-! ### Signals and triggers -/

def execWaittrig (th : Fin 16) (s : State) : Host.Outcome State Fault Refusal :=
  s.effect fun d => d.issue th 0x1C fun w e d => d.waitTrig th w e
def execWaitsig (th : Fin 16) (s : State) : Host.Outcome State Fault Refusal :=
  s.effect fun d => d.issue th 0x1D fun w _ d => d.waitSig th w
def execSig (th : Fin 16) (s : State) : Host.Outcome State Fault Refusal :=
  s.effect fun d => d.issue th 0x1E fun w _ d => d.sigOp th w

/-! ### Swarm operations (R188) -/

def execVon (th : Fin 16) (s : State) : Host.Outcome State Fault Refusal :=
  s.effect fun d => d.issue th 0x20 fun w _ d => d.swarmIssue th w
def execVoff (th : Fin 16) (s : State) : Host.Outcome State Fault Refusal :=
  s.effect fun d => d.issue th 0x21 fun w _ d => d.swarmIssue th w
def execVset (th : Fin 16) (s : State) : Host.Outcome State Fault Refusal :=
  s.effect fun d => d.issue th 0x22 fun w _ d => d.swarmIssue th w
def execVramp (th : Fin 16) (s : State) : Host.Outcome State Fault Refusal :=
  s.effect fun d => d.issue th 0x23 fun w _ d => d.swarmIssue th w
def execVkill (th : Fin 16) (s : State) : Host.Outcome State Fault Refusal :=
  s.effect fun d => d.issue th 0x24 fun w _ d => d.swarmIssue th w
def execValloc (th : Fin 16) (s : State) : Host.Outcome State Fault Refusal :=
  s.effect fun d => d.issue th 0x25 fun w _ d => d.swarmIssue th w
def execVfree (th : Fin 16) (s : State) : Host.Outcome State Fault Refusal :=
  s.effect fun d => d.issue th 0x26 fun w _ d => d.swarmIssue th w
def execModset (th : Fin 16) (s : State) : Host.Outcome State Fault Refusal :=
  s.effect fun d => d.issue th 0x27 fun w _ d => d.swarmIssue th w
def execBusset (th : Fin 16) (s : State) : Host.Outcome State Fault Refusal :=
  s.effect fun d => d.issue th 0x28 fun w _ d => d.swarmIssue th w

/-! ### Memory, Timer/Counter Unit, tally outputs, messages -/

/-- The request of a thread's own instruction meets its rivals; its outcome reaches the thread (R191). -/
def Dev.cueRequest (d : Dev) (th : Fin 16) (r : Req) (rivals : List Req) : Dev :=
  let rs := r :: rivals.filter fun q => q.path != .cue th
  let res := d.requests rs (some (.cue th))
  res.2.cueOutcome th (res.1.headD .ok) (d.splitHit (d.liveOf (rs.filter fun q => d.reaches q.path q.addr)) r)

/-- The bytes that an ST stores. -/
def Thread.stored (x : Thread) (w : Word) : List Byte :=
  let sz := bitsOf w 16 2
  if sz = 3 then bytesOf (x.rt (bitsOf w 22 2)).toNat 8 else bytesOf (x.rg (bitsOf w 22 4)).toNat (2 ^ sz)

/-- ST (R195, R196). -/
def Dev.store (d : Dev) (th : Fin 16) (w : Word) (rivals : List Req) : Dev :=
  let x := d.thread th
  let a := x.addr w
  let data := x.stored w
  let alone (d : Dev) : Dev := (d.requests (rivals.filter fun q => q.path != .cue th)).2
  if !inWindow a data.length then (alone d).trap th Trap.bounds 0
  else if spaceOf a = .flash then (alone d).trap th Trap.refused Status.eperm.code
  else if a % data.length ≠ 0 ∧ d.feature Feat.memRotate = false then (alone d).trap th Trap.align 0
  else d.cueRequest th ⟨.cue th, a, data, false⟩ rivals

/-- TCUSET (R199, R320). -/
def Dev.tcuset (d : Dev) (th : Fin 16) (w : Word) (rivals : List Req) : Dev :=
  let off := [0x00, 0x08, 0x14, 0x18, 0x1C, 0x20, 0x28, 0x2C].getD (bitsOf w 20 3) 0
  let a := 0x4800 + 0x40 * bitsOf w 23 3 + off
  d.cueRequest th (regReq (.cue th) a ((d.thread th).rg (bitsOf w 16 4)) false) rivals

/-- GPO (R81, R199): a request for one bit of HT_GP_OUT. The other bits are those that the register has once the cycle's other requests have
taken effect, so that the thread contradicts another write of the register in that bit alone and stores nothing else. -/
def Dev.gpo (d : Dev) (th : Fin 16) (w : Word) (rivals : List Req) : Dev :=
  let n := bitsOf w 22 4
  let alone (d : Dev) : Dev := (d.requests (rivals.filter fun q => q.path != .cue th)).2
  if !d.feature Feat.gpHost then (alone d).trap th Trap.refused Status.efeature.code
  else if !(d.get F.htGpOe).testBit n then (alone d).trap th Trap.refused Status.estate.code
  else
    let level : Bool := match bitsOf w 20 2 with
      | 0 => false
      | 1 => true
      | 2 => !(d.get F.htGpOut).testBit n
      | _ => ((d.thread th).rg (bitsOf w 16 4)).getLsbD 0
    let base := (alone d).reg F.htGpOut.addr
    d.cueRequest th (regReq (.cue th) F.htGpOut.addr (insBits base n 1 (if level then 1 else 0)) false) rivals

/-- LD. -/
def execLd (th : Fin 16) (s : State) : Host.Outcome State Fault Refusal :=
  s.effect fun d => d.issue th 0x02 fun w _ d => d.load th w
/-- ST, with the requests that reach the memory in the same cycle. -/
def execSt (th : Fin 16) (rivals : List Req) (s : State) : Host.Outcome State Fault Refusal :=
  s.effect fun d => d.issue th 0x03 fun w _ d => d.store th w rivals
def execTcuset (th : Fin 16) (rivals : List Req) (s : State) : Host.Outcome State Fault Refusal :=
  s.effect fun d => d.issue th 0x30 fun w _ d => d.tcuset th w rivals
def execGpo (th : Fin 16) (rivals : List Req) (s : State) : Host.Outcome State Fault Refusal :=
  s.effect fun d => d.issue th 0x31 fun w _ d => d.gpo th w rivals
def execHostmsg (th : Fin 16) (s : State) : Host.Outcome State Fault Refusal :=
  s.effect fun d => d.issue th 0x32 fun w _ d => d.hostMsg th w

/-! ### Waits and answers -/

/-- A thread's wait ends (R180). -/
def execWaitRelease (th : Fin 16) (s : State) : Host.Outcome State Fault Refusal := s.effect fun d => d.waitRelease th

/-- The ledger's answer reaches the thread (R189). -/
def execSwarmAnswer (th : Fin 16) (s : State) : Host.Outcome State Fault Refusal :=
  s.effect fun d => if d.coreOn then d.answerThread th else d

end Sys2Proof.Machine
end

