-- ==== Sys2Proof/Machine/DebugRows.lean ====
section
/-! DEFINITION. The commands of JTAG and debug halt (chapter 15). -/

namespace Sys2Proof.Machine

/-! ### Instructions of the TAP (R485, R486) -/

/-- A TAP instruction whose data register captures pins, or nothing that the manual names: the captured bits are free. -/
def Dev.tapFree (d : Dev) (i : Tap) : Dev := d.draw.2.tapSelect i (BitVec.ofNat 64 (Config.unstated d.fresh))

def execExtest (s : State) : Host.Outcome State Fault Refusal := s.effect fun d => d.tapFree .extest

/-- SAMPLE/PRELOAD: the bits shifted in stand in the boundary register. -/
def execSamplePreload (cells : List Bool) (s : State) : Host.Outcome State Fault Refusal :=
  s.effect fun d =>
    let d := d.tapFree .samplePreload
    { d with dbg := { d.dbg with cells := cells } }

def execIdcode (s : State) : Host.Outcome State Fault Refusal := s.effect fun d => d.tapSelect .idcode (idcode.zeroExtend 64)
def execClamp (s : State) : Host.Outcome State Fault Refusal := s.effect fun d => d.tapSelect .clamp 0
def execHighz (s : State) : Host.Outcome State Fault Refusal := s.effect fun d => d.tapSelect .highz 0
def execBypass (s : State) : Host.Outcome State Fault Refusal := s.effect fun d => d.tapSelect .bypass 0
def execTapReset (s : State) : Host.Outcome State Fault Refusal := s.effect Dev.tapReset

/-! ### Debug halt (R488, R489, R491) -/

/-- DBG_HALT is selected. -/
def execDbgHalt (s : State) : Host.Outcome State Fault Refusal :=
  s.effect fun d =>
    let e := d.tapFree .dbgHalt
    if d.tapGranted .dbgHalt then e.haltBy true else e

/-- DBG_RELEASE is selected. -/
def execDbgRelease (s : State) : Host.Outcome State Fault Refusal :=
  s.effect fun d =>
    let e := d.tapFree .dbgRelease
    if d.tapGranted .dbgRelease then e.haltEnd else e

def execDbgCtrlHalt (src : Src) (s : State) : Host.Outcome State Fault Refusal := s.effect fun d => d.srcWrite src F.dbgCtrlHalt 1
def execDbgCtrlRelease (src : Src) (s : State) : Host.Outcome State Fault Refusal :=
  s.effect fun d => d.srcWrite src F.dbgCtrlRelease 1
def execDbgCtrlReset (src : Src) (s : State) : Host.Outcome State Fault Refusal :=
  s.effect fun d => d.srcWrite src F.dbgCtrlReset 1

/-! ### DBG_REG (R487) -/

/-- A register access as a management-path request: its status, and the word read. -/
def Dev.dbgAccess (d : Dev) (write : Bool) (a : Nat) (w : Word) : Status × Word × Dev :=
  if !isReg a || decide (a % 4 ≠ 0) then (.earg, 0, d)
  else if !d.reaches .mgmt a then (.ebusy, 0, d.requestWake WakeCode.debug)
  else if write then
    let r := d.requests [regReq .mgmt a w false] (some .mgmt)
    (r.1.headD .ok, 0, r.2)
  else
    let r := d.readReg .mgmt a
    (.ok, r.1, r.2)

/-- What the data register captures next: of a write the status in [31:24], of a read the word in [31:0]; other bits are free. -/
def dbgCapture (write : Bool) (st : Status) (v : Word) (free : Nat) : Word64 :=
  let high := free / 2 ^ 32 * 2 ^ 32
  BitVec.ofNat 64 (if write then high + st.code * 2 ^ 24 + free % 2 ^ 24 else if st = .ok then high + v.toNat else free)

/-- DBG_REG with its 64 data bits: the address in [63:32], the data in [31:0]. -/
def Dev.dbgReg (d : Dev) (write : Bool) (data : Word64) : Dev :=
  if !d.tapGranted .dbgReg then d.tapSelect .dbgReg 0
  else
    let r := d.dbgAccess write (data >>> 32).toNat (data.truncate 32)
    let d := r.2.2
    (d.draw.2.tapSelect .dbgReg (dbgCapture write r.1 r.2.1 (Config.unstated d.fresh))).answer [r.1]
      (if !write && decide (r.1 = .ok) then [r.2.1] else [])

def execDbgReg (write : Bool) (data : Word64) (s : State) : Host.Outcome State Fault Refusal :=
  s.effect fun d => d.dbgReg write data

end Sys2Proof.Machine
end

