-- ==== Sys2Proof/Machine/FaultRows.lean ====
section
/-! DEFINITION. The commands of faults and integrity (chapter 14). -/

namespace Sys2Proof.Machine

/-- A write of FLT_CLEAR (R461). -/
def execFltClear (src : Src) (classes : BitVec 10) (s : State) : Host.Outcome State Fault Refusal :=
  s.effect fun d => d.srcWrite src F.fltClear classes.toNat

/-- A read of FLT_LOG_INFO (R455). -/
def execFltLogRead (p : Path) (s : State) : Host.Outcome State Fault Refusal :=
  s.effect fun d => d.srcRead p F.fltLogInfoValid.addr

/-- A write of FLT_PEER_CFG.PORT (R456). -/
def execFltPeerCfgWrite (src : Src) (port : BitVec 3) (s : State) : Host.Outcome State Fault Refusal :=
  s.effect fun d => d.srcWrite src F.fltPeerCfg port.toNat

/-- A write of FLT_PEER_SIG (R456). -/
def execPeerCompare (src : Src) (sig : Word) (s : State) : Host.Outcome State Fault Refusal :=
  s.effect fun d => d.srcWord src F.fltPeerSig.addr sig

/-- HEALTH falls half a block after the block edge (R459). -/
def execHealthHalfBlock (s : State) : Host.Outcome State Fault Refusal :=
  s.effect fun d => if d.time.counting then d.healthHalf else d

end Sys2Proof.Machine
end

