-- ==== Sys2Proof/Machine/HostRows.lean ====
section
/-! DEFINITION. The commands of the host command port (chapter 6): QSPI transactions and the items of the input stream. -/

namespace Sys2Proof.Machine

/-! ### Transactions -/

/-- A transaction begins and ends: the fall of QCS_N asks for a wake (R212), and its rise ends the hold on RUN and IDLE. -/
def Dev.transaction (d : Dev) (words : Nat) (f : Dev → Dev) : Dev :=
  let d := d.requestWake WakeCode.qcs
  let d := { d with pwr := { d.pwr with qcsLow := false } }
  if d.qrdy then f d else d.discardHost words

/-- One past the last address of a region. -/
def spaceTop (a : Nat) : Nat :=
  match spaceOf a with
  | .reg => 0x8000
  | .par => 0x00110000
  | .wave => 0x01100000
  | .cue => 0x02040000
  | .flash => 0x04400000
  | .none => 0

/-- `n` words that no rule gives. -/
def freeWords : Nat → Dev → List Word × Dev
  | 0, d => ([], d)
  | n + 1, d =>
    let r := freeWords n d.draw.2
    (Config.collidedWord d.fresh :: r.1, r.2)

/-- Register words from `a` on; a word beyond register space reads 0. -/
def Dev.rdRegs (d : Dev) (a : Nat) : Nat → List Word × Dev
  | 0 => ([], d)
  | n + 1 =>
    let r := if isReg a then d.readReg .host a else (0, d)
    let r' := r.2.rdRegs (a + 4) n
    (r.1 :: r'.1, r'.2)

/-- Words of the flash window; whether one was refused. -/
def Dev.rdFlash (d : Dev) (a : Nat) : Nat → List Word × Bool × Dev
  | 0 => ([], false, d)
  | n + 1 =>
    let r := d.flashSpan a 4
    let r' := r.2.2.rdFlash (a + 4) n
    (BitVec.ofNat 32 (ofBytes r.1) :: r'.1, r.2.1 || r'.2.1, r'.2.2)

/-- Words of an SRAM window: each line is read once. -/
def Dev.rdSram (d : Dev) (a n : Nat) : List Word × Dev :=
  let r := d.readMem Master.host a (4 * n)
  (wordsOfBytes n r.2.1, r.2.2)

/-- The words of an RD: those inside the region, and 0 beyond it, which counts once (R213). -/
def Dev.rdWords (d : Dev) (a n : Nat) : List Word × Dev :=
  let inside := min n ((spaceTop a - a) / 4)
  let (ws, bad, d) : List Word × Bool × Dev := match spaceOf a with
    | .reg => let r := d.rdRegs a inside; (r.1, false, r.2)
    | .flash => d.rdFlash a inside
    | .none => ([], false, d)
    | _ => let r := d.rdSram a inside; (r.1, false, r.2)
  (ws ++ List.replicate (n - inside) 0, if bad || decide (inside < n) then d.bump F.hcpCntBadaddr else d)

/-- An RD of `count` bytes (R209, R211, R213 to R215); a word is read once its first byte is clocked out. -/
def Dev.hostRead (d : Dev) (ins : Byte) (a count : Nat) (stalled : Bool) (collided : List Nat) : Dev :=
  let n := (count + 3) / 4
  d.transaction n fun d =>
    if !insOk 2 ins || (decide (a % 4 ≠ 0) && (isReg a || !d.feature Feat.memRotate)) then d.frameError
    else
      let r := d.rdWords a n
      let hit := if isSram a then collided.filter fun k => decide (k < n) && isSram (a + 4 * k) else []
      let d := r.2.each hit fun k d => d.collision Master.host (a + 4 * k)
      let stall := stalled && !isReg a
      -- both flags tell of the last RD (Table 6.11)
      let d := (d.put F.hcpStatusMembsy (if hit.isEmpty then 0 else 1)).put F.hcpStatusUnderrun (if stall then 1 else 0)
      let d := if hit.isEmpty then d else d.bump F.hcpCntMembsy
      let d := if stall then d.bump F.hcpCntUnderrun else d
      if hit.isEmpty && !stall then d.answer [] r.1
      else
        let w := freeWords n d
        w.2.answer [] w.1

/-- A QSPI read. -/
def execRd (ins : Byte) (addr count : Nat) (stalled : Bool) (collided : List Nat) (s : State) :
    Host.Outcome State Fault Refusal :=
  s.effect fun d => d.hostRead ins addr count stalled collided

/-- A WR whose form R214 does not allow is a frame error. -/
def Dev.wrFrameBad (d : Dev) (ins : Byte) (a n : Nat) : Bool :=
  !insOk 3 ins || decide (n = 0) || decide (256 < n)
    || ((decide (a % 4 ≠ 0) || decide (n % 4 ≠ 0)) && (isReg a || !d.feature Feat.memRotate))

/-- A QSPI write joins the input stream (R214, R220), which applies it once every earlier item is complete. -/
def execWr (ins : Byte) (addr : Nat) (data : List Byte) (rivals : List Req) (s : State) : Host.Outcome State Fault Refusal :=
  s.effect fun d => d.transaction 0 fun d =>
    if d.wrFrameBad ins addr data.length then d.frameError
    else (d.setHcp fun h => { h with stream := h.stream ++ [.wr addr data rivals] }).drain.answer []

/-- A command packet (R216 to R218); its timestamp is the rise of QCS_N (R79). -/
def execCmd (ins : Byte) (packet : List Byte) (phase : Fin 10) (s : State) : Host.Outcome State Fault Refusal :=
  s.effect fun d => d.transaction 0 fun d =>
    if !insOk 6 ins then d.frameError else (d.takePacket packet (d.stampNow phase)).answer []

/-- A read of responses (R222). -/
def execRsp (ins : Byte) (count : Nat) (stalled : Bool) (s : State) : Host.Outcome State Fault Refusal :=
  s.effect fun d => d.transaction ((count + 3) / 4) fun d =>
    if !insOk 7 ins then d.frameError else d.rspRead count stalled

/-! ### Commands at the front of the stream (R219, R220) -/

def execNop (tag : Fin 16) (s : State) : Host.Outcome State Fault Refusal := s.effect fun d => (d.cmdNop tag).drain
def execNegotiate (tag : Fin 16) (s : State) : Host.Outcome State Fault Refusal := s.effect fun d => (d.cmdNegotiate tag).drain
def execFence (tag : Fin 16) (s : State) : Host.Outcome State Fault Refusal := s.effect fun d => (d.cmdFence tag).drain

/-- Whether WREG or RREG names an address that may hold a register (R219). -/
def HostCmd.addrOk (c : HostCmd) : Bool := decide ((c.word 0).toNat % 4 = 0) && isReg (c.word 0).toNat

/-- A WREG or RREG without a register fails with EARG; the manual states no VAL0 for it. -/
def Dev.noRegister (d : Dev) (c : HostCmd) : Dev := d.draw.2.done c .earg (BitVec.ofNat 32 (Config.unstated d.fresh))

/-- WREG (R219, R223, R229): the register's value after resolution is VAL0. A posted one sets CONFLICT and SPLIT_LOSS as a WR
does (R35, R36), and its failure is that of a command (R224). -/
def Dev.cmdWreg (d : Dev) (tag : Nat) (rivals : List Req) : Dev :=
  match d.front 0x02 tag with
  | none => d
  | some c =>
    let a := (c.word 0).toNat
    if !c.addrOk then ((d.requests (rivals.filter fun q => q.path != .host)).2).noRegister c
    else
      let r := regReq .host a (c.word 4) c.post
      let rest := rivals.filter fun q => q.path != .host
      let res : Status × Dev :=
        if c.timeOk then
          let x := d.requests (r :: rest) (some .host)
          (x.1.headD .ok, x.2)
        else (match d.regRefusal r with
          | .eperm => .eperm
          | .efeature => .efeature
          | _ => .earg, (d.requests rest).2)
      -- a FLUSH that the write itself made has discarded the command
      if res.2.hcp.stream.head? = some (.cmd c) then res.2.done c res.1 (res.2.regView .host a).1 else res.2

/-- RREG: a read in stream order. -/
def Dev.cmdRreg (d : Dev) (tag : Nat) : Dev :=
  match d.front 0x03 tag with
  | none => d
  | some c =>
    if !c.addrOk then d.noRegister c
    else if !c.timeOk then d.draw.2.done c .earg (BitVec.ofNat 32 (Config.unstated d.fresh))
    else
      let r := d.readReg .host (c.word 0).toNat
      r.2.done c .ok r.1

def execWreg (tag : Fin 16) (rivals : List Req) (s : State) : Host.Outcome State Fault Refusal :=
  s.effect fun d => (d.cmdWreg tag rivals).drain
def execRreg (tag : Fin 16) (s : State) : Host.Outcome State Fault Refusal := s.effect fun d => (d.cmdRreg tag).drain

/-! ### Swarm commands: their requests reach the ledger (R50) -/

def execCmdVon (tag : Fin 16) (s : State) : Host.Outcome State Fault Refusal := s.effect fun d => (d.cmdSwarm 0x10 tag).drain
def execCmdVoff (tag : Fin 16) (s : State) : Host.Outcome State Fault Refusal := s.effect fun d => (d.cmdSwarm 0x11 tag).drain
def execCmdVset (tag : Fin 16) (s : State) : Host.Outcome State Fault Refusal := s.effect fun d => (d.cmdSwarm 0x12 tag).drain
def execCmdVramp (tag : Fin 16) (s : State) : Host.Outcome State Fault Refusal := s.effect fun d => (d.cmdSwarm 0x13 tag).drain
def execCmdVkill (tag : Fin 16) (s : State) : Host.Outcome State Fault Refusal := s.effect fun d => (d.cmdSwarm 0x14 tag).drain
def execCmdValloc (tag : Fin 16) (s : State) : Host.Outcome State Fault Refusal := s.effect fun d => (d.cmdSwarm 0x15 tag).drain
def execCmdVfree (tag : Fin 16) (s : State) : Host.Outcome State Fault Refusal := s.effect fun d => (d.cmdSwarm 0x16 tag).drain
def execCmdModset (tag : Fin 16) (s : State) : Host.Outcome State Fault Refusal := s.effect fun d => (d.cmdSwarm 0x17 tag).drain
def execCmdBusset (tag : Fin 16) (s : State) : Host.Outcome State Fault Refusal := s.effect fun d => (d.cmdSwarm 0x18 tag).drain

/-! ### Thread commands (R177, R193) -/

/-- CSTART. -/
def execCstart (tag : Fin 16) (s : State) : Host.Outcome State Fault Refusal :=
  s.effect fun d => (d.cmdPlain 0x20 tag fun c d => d.threadStart (c.arg 0)).drain

/-- CSTOP. -/
def execCstop (tag : Fin 16) (s : State) : Host.Outcome State Fault Refusal :=
  s.effect fun d => (d.cmdPlain 0x21 tag fun c d => (.ok, d.threadStop (c.arg 0))).drain

/-- CRESUME. -/
def execCresume (tag : Fin 16) (s : State) : Host.Outcome State Fault Refusal :=
  s.effect fun d => (d.cmdPlain 0x22 tag fun c d => d.threadResume (c.arg 0)).drain

/-- CSIGNAL. -/
def execCsignal (tag : Fin 16) (s : State) : Host.Outcome State Fault Refusal :=
  s.effect fun d => (d.cmdPlain 0x23 tag fun c d => (.ok, d.signal (c.arg 0) (BitVec.ofNat 16 (c.arg 2 + 256 * c.arg 3)))).drain

/-- TRIGGER (R234). -/
def execTrigger (tag : Fin 16) (s : State) : Host.Outcome State Fault Refusal := s.effect fun d => (d.cmdTrigger tag).drain

/-- HCP_CTRL.FLUSH written 1 (R233). -/
def execFlush (src : Src) (s : State) : Host.Outcome State Fault Refusal :=
  s.effect fun d => (d.srcWrite src F.hcpCtrl 1).drain

end Sys2Proof.Machine
end

