-- ==== Sys2Proof/Machine/MemoryRows.lean ====
section
/-! DEFINITION. The commands of the on-chip memory and the flash (chapter 7). -/

namespace Sys2Proof.Machine

/-- A corrected line of the bank is written back (R241). -/
def execCeWriteBack (bank : Fin 13) (s : State) : Host.Outcome State Fault Refusal :=
  s.effect fun d => if d.coreOn then d.writeBack bank else d

/-- An uncorrectable line of the bank is written POISON (R241). -/
def execPoisonWrite (bank : Fin 13) (s : State) : Host.Outcome State Fault Refusal :=
  s.effect fun d => if d.coreOn then d.poisonLine bank else d

/-- A collided read is retried in its master's next turn (R249). -/
def execCollisionRetry (master : Fin 8) (addr : Nat) (s : State) : Host.Outcome State Fault Refusal :=
  s.effect fun d => d.retry master addr

/-- The scrubber reads its next line (R252). -/
def execScrubRead (s : State) : Host.Outcome State Fault Refusal := s.effect Dev.scrub

/-- MEM_CHK_CTRL.START with OP at `op`; STRICT stays (R253). -/
def Dev.regionWrite (d : Dev) (src : Src) (op : Nat) : Dev :=
  d.srcWord src F.memChkCtrlStart.addr (insBits (d.fieldWord F.memChkCtrlOp op) 0 1 1)

/-- START with OP CHECK. -/
def execRegionCheck (src : Src) (s : State) : Host.Outcome State Fault Refusal := s.effect fun d => d.regionWrite src 0

/-- START with OP WIPE. -/
def execRegionWipe (src : Src) (s : State) : Host.Outcome State Fault Refusal := s.effect fun d => d.regionWrite src 1

/-- The region engine's operation ends (R253). -/
def execRegionDone (s : State) : Host.Outcome State Fault Refusal :=
  s.effect fun d => if d.coreOn then d.regionDone else d

/-- A write of MEM_INJ (R264). -/
def execMemInj (src : Src) (value : Word) (s : State) : Host.Outcome State Fault Refusal :=
  s.effect fun d => d.srcWord src F.memInjArm.addr value

/-- The wipe of the arrays ends (R256). -/
def execArrayWipeDone (s : State) : Host.Outcome State Fault Refusal :=
  s.effect fun d => if d.mem.wiping = 0#13 then d else d.endWipe

/-- The flash controller records and starts a sector erase (R260); it waits for a page program or an erase that still runs. -/
def execFlashEraseStart (sector : Fin 1024) (s : State) : Host.Outcome State Fault Refusal :=
  s.effect fun d =>
    if d.coreOn && d.mem.flash.erasing.isNone && d.mem.flash.page.isNone then d.eraseStart sector else d

/-- A sector erase completes (R260). -/
def execEraseDone (s : State) : Host.Outcome State Fault Refusal :=
  s.effect fun d => if d.mem.flash.suspended then d else d.eraseEnd

/-- A suspended erase resumes (R259). -/
def execEraseResume (s : State) : Host.Outcome State Fault Refusal :=
  s.effect fun d =>
    if d.mem.flash.suspended then
      { d with mem := { d.mem with flash := { d.mem.flash with suspended := false } } }.flashShow
    else d

/-- A page program completes (R259). -/
def execPageProgramDone (s : State) : Host.Outcome State Fault Refusal := s.effect Dev.pageDone

end Sys2Proof.Machine
end

