-- ==== Sys2Proof/Machine/OutputRows.lean ====
section
/-! DEFINITION. The commands of the outputs (chapter 8). -/

namespace Sys2Proof.Machine

/-- An event of the output stage, which stands in the CORE domain. -/
def Dev.outputEvent (d : Dev) (f : Dev → Dev) : Dev := if d.coreOff then d else f d

/-- The clamp after the DAC port's start is released (R276). -/
def execDacClampRelease (s : State) : Host.Outcome State Fault Refusal := s.effect fun d => d.outputEvent Dev.clampRelease

/-- The output-stage sensor reaches DAC_OT_LIM (R283). -/
def execOtRise (temp : BitVec 16) (s : State) : Host.Outcome State Fault Refusal :=
  s.effect fun d => d.outputEvent fun d => d.otRise temp.toNat

/-- The clamp of R283 is released. -/
def execOtClampRelease (s : State) : Host.Outcome State Fault Refusal := s.effect fun d => d.outputEvent Dev.otRelease

/-- HI_OK falls (R283). -/
def execVdacHiLoss (s : State) : Host.Outcome State Fault Refusal := s.effect Dev.hiLoss

/-- DAC_CTRL.OT_RESTART written 1 (R283). -/
def execOtRestart (src : Src) (s : State) : Host.Outcome State Fault Refusal := s.effect fun d => d.srcWrite src F.dacCtrl 1

/-- An LTC frame starts (R287, R288). -/
def execLtcFrameStart (s : State) : Host.Outcome State Fault Refusal :=
  s.effect fun d => d.outputEvent fun d => if d.time.counting then d.ltcFrameStart else d

/-- A read of OUT_SIGp_BLK latches OUT_SIGp_VAL for the path (R291). -/
def execOutSigBlkRead (p : Path) (port : Fin 7) (s : State) : Host.Outcome State Fault Refusal :=
  s.effect fun d => d.srcRead p (F.outSigBlk port).addr

/-- OUT_SIG_CTRL.INJECT bits written 1 (R291). -/
def execOutSigInject (src : Src) (ports : BitVec 7) (s : State) : Host.Outcome State Fault Refusal :=
  s.effect fun d => d.srcWrite src F.outSigCtrlInject ports.toNat

/-- The output-stage sensor reads 20 °C below DAC_OT_LIM (R283). -/
def execOtFall (temp : BitVec 16) (s : State) : Host.Outcome State Fault Refusal :=
  s.effect fun d => d.outputEvent fun d => d.otFall temp.toNat

end Sys2Proof.Machine
end

