-- ==== Sys2Proof/Machine/PowerRows.lean ====
section
/-! DEFINITION. The commands of power, reset, start-up and the life cycle (chapter 12). -/

namespace Sys2Proof.Machine

/-! ### Power states (R389 to R397) -/

def execPowerEntryDone (s : State) : Host.Outcome State Fault Refusal := s.effect Dev.entryDone

/-- The wake that serves the next known event begins (R394). -/
def execWakeScheduled (s : State) : Host.Outcome State Fault Refusal := s.effect Dev.wakeScheduled

/-- The PWR_LAST_WAKE code of a cause. -/
def causeCode : WakeCause → Nat
  | .qcsN => WakeCode.qcs
  | .twoWire => WakeCode.twoWire
  | .command => WakeCode.command
  | .slowReceiver => WakeCode.slow
  | .trigger => WakeCode.trigger
  | .fault => WakeCode.fault
  | .permission => WakeCode.permission
  | .debug => WakeCode.debug

/-- A wake source asks for RUN (R395); a fall of QCS_N also holds the CT128 there while QCS_N is low. In the ECLK cycle in which an entry was
decided, no entry starts and nothing wakes (R396). -/
def execWakeRequest (event : WakeEvent) (s : State) : Host.Outcome State Fault Refusal :=
  s.effect fun d =>
    let d := if event.cause = .qcsN then { d with pwr := { d.pwr with qcsLow := true } } else d
    if event.sameCycle && d.on F.pwrStatusEntering then { d.put F.pwrStatusEntering 0 with pwr := { d.pwr with target := 0, sched := none } }
    else d.requestWake (causeCode event.cause)

/-- The wake sequence ends (R396). -/
def execWakeDone (s : State) : Host.Outcome State Fault Refusal := s.effect Dev.wakeDone

/-- PWR_FLOOR.ARM. -/
def execFloorArm (src : Src) (s : State) : Host.Outcome State Fault Refusal := s.effect fun d => d.srcWrite src F.pwrFloorArm 1

/-- PWR_FLOOR.CLR. -/
def execFloorClr (src : Src) (s : State) : Host.Outcome State Fault Refusal := s.effect fun d => d.srcWrite src F.pwrFloorClr 1

/-- House time reaches PWR_FLOOR_AT. -/
def execFloorReached (s : State) : Host.Outcome State Fault Refusal :=
  s.effect fun d => if d.time.counting then d.floorReached else d

/-! ### Supplies and resets (R388, R400 to R404) -/

/-- A supply crosses a threshold of Table 12.1. -/
def execSupplyMonitor (supply : Supply) (ok : Bool) (s : State) : Host.Outcome State Fault Refusal :=
  s.effect fun d => d.supply supply ok

def execPowerOnReset (taddr : BitVec 2) (vioB18 : Bool) (s : State) : Host.Outcome State Fault Refusal :=
  s.effect fun d => d.powerOnReset taddr vioB18

def execResetPin (ns : Nat) (s : State) : Host.Outcome State Fault Refusal := s.effect fun d => d.resetPin ns

/-- A write of SYS_RST_REQ. -/
def execSysRstReq (src : Src) (kind : BitVec 2) (s : State) : Host.Outcome State Fault Refusal :=
  s.effect fun d => d.srcWord src F.sysRstReq.addr (kind.zeroExtend 32)

def execCoreBrownout (s : State) : Host.Outcome State Fault Refusal := s.effect Dev.brownout

/-- The HKP's watchdog expires; it counts while the HKP runs. -/
def execHkpWatchdog (s : State) : Host.Outcome State Fault Refusal :=
  s.effect fun d => d.byHkp fun d => d.coreReset Rst.wdog

/-! ### Start-up (R405) -/

def execXiQualified (s : State) : Host.Outcome State Fault Refusal := s.effect Dev.xiQualified
def execSxiQualified (s : State) : Host.Outcome State Fault Refusal := s.effect Dev.sxiQualified
def execPllLocked (s : State) : Host.Outcome State Fault Refusal := s.effect Dev.pllLocked
def execJournalRecovery (s : State) : Host.Outcome State Fault Refusal := s.effect fun d => d.byHkp Dev.journalRecovery
def execStartTimeDecision (s : State) : Host.Outcome State Fault Refusal := s.effect fun d => d.byHkp Dev.startDecision
def execImageCopy (s : State) : Host.Outcome State Fault Refusal := s.effect fun d => d.byHkp Dev.imageCopy

/-- The library commit runs at start-up, or in the background after a confirmation (R441). -/
def execLibraryCommit (s : State) : Host.Outcome State Fault Refusal :=
  s.effect fun d => d.byHkp Dev.libCommit

def execLcWipe (s : State) : Host.Outcome State Fault Refusal := s.effect fun d => d.byHkp Dev.lcWipe

/-- The image takes its settings as management-path writes (R443), after the wipe of R413. -/
def execSettingsApply (translated : List (Nat × Word)) (s : State) : Host.Outcome State Fault Refusal :=
  s.effect fun d => d.byHkp fun d =>
    if d.sys.phase = .awaitSettings ∧ d.stateWiped = true then
      let d := d.takeSettings (fun d a w => d.writeReg .mgmt a w false) translated
      if d.sys.phase = .awaitSettings then { d with sys := { d.sys with phase := .ready } } else d
    else d

def execStartupReady (s : State) : Host.Outcome State Fault Refusal := s.effect fun d => d.byHkp Dev.startupReady

/-! ### Life cycle (R410 to R412) -/

/-- A write of SYS_LC_REQ. -/
def execSysLcReq (src : Src) (target : BitVec 2) (confirm : Bool) (s : State) : Host.Outcome State Fault Refusal :=
  s.effect fun d => d.srcWord src F.sysLcReqTarget.addr (BitVec.ofNat 32 (target.toNat + if confirm then 0x80 else 0))

def execLcRequestLapse (s : State) : Host.Outcome State Fault Refusal := s.effect Dev.lcLapse
def execLcTransition (s : State) : Host.Outcome State Fault Refusal := s.effect Dev.lcTransition

end Sys2Proof.Machine
end

