-- ==== Sys2Proof/Machine/SerialRows.lean ====
section
/-! DEFINITION. The commands of the serial ports (chapter 11). -/

namespace Sys2Proof.Machine

/-! ### UART0 (R356 to R365, R383) -/

/-- A character completes at the receiver. -/
def execUa0RxChar (bits : List (BitVec 3)) (s : State) : Host.Outcome State Fault Refusal := s.effect fun d => d.ua0Rx bits

/-- A read of UA0_DATA. -/
def execUa0DataRead (p : Path) (s : State) : Host.Outcome State Fault Refusal := s.effect fun d => d.srcRead p F.ua0DataData.addr

/-- A write of UA0_DATA. -/
def execUa0DataWrite (src : Src) (value : BitVec 9) (s : State) : Host.Outcome State Fault Refusal :=
  s.effect fun d => d.srcWord src F.ua0DataData.addr (value.zeroExtend 32)

/-- The transmitter is ready for a character. -/
def execUa0TxStart (ctsLow : Bool) (s : State) : Host.Outcome State Fault Refusal := s.effect fun d => d.ua0TxStart ctsLow

/-- UA0_CTRL.RX_FLUSH. -/
def execRxFlush (src : Src) (s : State) : Host.Outcome State Fault Refusal := s.effect fun d => d.srcWrite src F.ua0CtrlRxFlush 1

/-- UA0_CTRL.TX_FLUSH. -/
def execTxFlush (src : Src) (s : State) : Host.Outcome State Fault Refusal := s.effect fun d => d.srcWrite src F.ua0CtrlTxFlush 1

/-- The DMA engine takes an entry (R363, R364). -/
def execUa0DmaTake (s : State) : Host.Outcome State Fault Refusal := s.effect Dev.dmaTake

/-- No character for UA0_DMA_CFG.TO bit periods (R364). -/
def execUa0DmaTimeout (s : State) : Host.Outcome State Fault Refusal := s.effect Dev.dmaTimeout

/-- UA0_DMA_CFG.EN written 0. -/
def execUa0DmaDisable (src : Src) (s : State) : Host.Outcome State Fault Refusal := s.effect fun d => d.srcWrite src F.ua0DmaCfgEn 0

/-- UA0_CTRL.EN written 0 (R383). -/
def execUa0Disable (src : Src) (s : State) : Host.Outcome State Fault Refusal := s.effect fun d => d.srcWrite src F.ua0CtrlEn 0

/-! ### The slow receiver (R370, R371) -/

/-- A slow character completes; a match wakes the CT128. -/
def execSlowRxChar (bits : List (BitVec 3)) (s : State) : Host.Outcome State Fault Refusal :=
  s.effect fun d =>
    let r := d.slowRx bits
    if r.1 then r.2.requestWake WakeCode.slow else r.2

/-- The main receiver takes over. -/
def execSlowRxHandover (s : State) : Host.Outcome State Fault Refusal := s.effect Dev.slowHandover

/-- A start bit is decided as 1 (R358); the card interface has no counter for it. -/
def execFalseStart (r : Receiver) (s : State) : Host.Outcome State Fault Refusal :=
  s.effect fun d => match r with
    | .uart0 => d.ua0False
    | .slow => if d.ua0.slowOn then d.bump F.ua0CntFalse else d
    | .card => d

/-! ### The card interface (R373 to R383) -/

/-- UA1_CTRL.ACT, with the level of CARD_DET. -/
def execCardAct (src : Src) (det : Bool) (s : State) : Host.Outcome State Fault Refusal :=
  s.effect fun d => (d.setUa1 fun u => { u with det := det }).srcWrite src F.ua1CtrlAct 1

def execCardClkStart (s : State) : Host.Outcome State Fault Refusal := s.effect Dev.cardClk
def execCardResetRelease (s : State) : Host.Outcome State Fault Refusal := s.effect Dev.cardRelease
def execCardTsTimeout (s : State) : Host.Outcome State Fault Refusal := s.effect Dev.cardTsTimeout
def execAtrTimeout (s : State) : Host.Outcome State Fault Refusal := s.effect Dev.cardAtrTimeout

/-- A character of the card. -/
def execCardRxChar (bits : List (BitVec 3)) (s : State) : Host.Outcome State Fault Refusal := s.effect fun d => d.cardRx bits

/-- A character to the card. -/
def execCardTxChar (error : Bool) (s : State) : Host.Outcome State Fault Refusal := s.effect fun d => d.cardTx error

/-- UA1_CTRL.GO. -/
def execCardGo (src : Src) (s : State) : Host.Outcome State Fault Refusal := s.effect fun d => d.srcWrite src F.ua1CtrlGo 1

def execCardWtTimeout (s : State) : Host.Outcome State Fault Refusal := s.effect Dev.cardWt

/-- UA1_CTRL.DEACT. -/
def execCardDeact (src : Src) (s : State) : Host.Outcome State Fault Refusal := s.effect fun d => d.srcWrite src F.ua1CtrlDeact 1

/-- CARD_DET shows the card gone. -/
def execCardRemoved (s : State) : Host.Outcome State Fault Refusal := s.effect Dev.cardGone

/-- A write of UA1_DATA. -/
def execUa1DataWrite (src : Src) (value : Byte) (s : State) : Host.Outcome State Fault Refusal :=
  s.effect fun d => d.srcWord src F.ua1DataByte.addr (value.zeroExtend 32)

/-- A read of UA1_DATA. -/
def execUa1DataRead (p : Path) (s : State) : Host.Outcome State Fault Refusal := s.effect fun d => d.srcRead p F.ua1DataByte.addr

/-- UA1_CTRL.EN written 0. -/
def execUa1Disable (src : Src) (s : State) : Host.Outcome State Fault Refusal := s.effect fun d => d.srcWrite src F.ua1CtrlEn 0

end Sys2Proof.Machine
end

