-- ==== Sys2Proof/Machine/SwarmRows.lean ====
section
/-! DEFINITION. The commands of the swarm, the allocator and the strike path (chapters 3 and 4). -/

namespace Sys2Proof.Machine

/-- SWM_CTRL.RUN written 1 (R135). -/
def execSwmRunStart (src : Src) (s : State) : Host.Outcome State Fault Refusal := s.effect fun d => d.srcWrite src F.swmCtrlRun 1

/-- SWM_CTRL.RUN written 0 (R134). -/
def execSwmRunStop (src : Src) (s : State) : Host.Outcome State Fault Refusal := s.effect fun d => d.srcWrite src F.swmCtrlRun 0

/-- ALC_CTRL.RUN written 1 (R158). -/
def execAlcRunStart (src : Src) (s : State) : Host.Outcome State Fault Refusal := s.effect fun d => d.srcWrite src F.alcCtrl 1

/-- ALC_CTRL.RUN written 0 (R155). -/
def execAlcRunStop (src : Src) (s : State) : Host.Outcome State Fault Refusal := s.effect fun d => d.srcWrite src F.alcCtrl 0

/-- The strike path takes an entry of its FIFO (R159). -/
def execStrikeEntryTake (s : State) : Host.Outcome State Fault Refusal :=
  s.effect fun d => if d.coreOn then d.strikeTake else d

/-- The strike window of the sample under render opens (R160). -/
def execStrikeWindow (s : State) : Host.Outcome State Fault Refusal :=
  s.effect fun d => if d.coreOn then d.strikeWindow else d

/-- SWM_SEN_CTRL.INJECT written 1 (R166). -/
def execSentinelInject (src : Src) (s : State) : Host.Outcome State Fault Refusal :=
  s.effect fun d => d.srcWrite src F.swmSenCtrlInject 1

end Sys2Proof.Machine
end

