-- ==== Sys2Proof/Machine/SystemRows.lean ====
section
/-! DEFINITION. The commands of the system organisation (chapter 1): register writes and reads, apply points, sample edges, block
edges, frame boundaries and ledger admissions. -/

namespace Sys2Proof.Machine

/-! ### Requests -/

/-- The requests of one ECLK cycle, with their statuses (R33 to R39, R494). -/
def execRegisterWrite (reqs : List Req) (s : State) : Host.Outcome State Fault Refusal :=
  s.effect fun d =>
    let r := d.requests reqs
    r.2.answer r.1

/-- A read of a register; RC fields clear after it (R10). -/
def execCounterReadClear (p : Path) (addr : Nat) (s : State) : Host.Outcome State Fault Refusal :=
  s.effect fun d => d.srcRead p addr

/-- BLOCK_APPLY.APPLY of the block at `blk` (R41, R53). -/
def execApply (src : Src) (blk : Nat) (s : State) : Host.Outcome State Fault Refusal :=
  s.effect fun d => d.srcWord src (blk + 0x3FC) 1

/-- BLOCK_APPLY.DISCARD of the block at `blk` (R53). -/
def execDiscard (src : Src) (blk : Nat) (s : State) : Host.Outcome State Fault Refusal :=
  s.effect fun d => d.srcWord src (blk + 0x3FC) 2

/-! ### Sample edges (R28 to R30, R41) -/

/-- The render side of the edge that ends sample `n` (RUN and IDLE): a strike window not yet opened opens, the sample is finished
and leaves, the swarm stops if RUN is 0, and the next sample's binding begins. -/
def Dev.renderEdge (d : Dev) (n : Nat) : Dev :=
  let d := if d.strikeOn && decide (d.alc.window < n) then d.openWindow n else d
  (((d.engineLosses.finishSample n).outputEdge n).swarmStop).bindSample (n + 1)

/-- The next sample edge. In DOZE the ports go on with the buses at zero (R390); with the CORE domain off only time moves. The power
controller chooses at every edge (R393). -/
def Dev.sampleEdge (d : Dev) : Dev :=
  if !d.time.counting then d
  else
    let n := d.time.smp.toNat + 1
    let d := d.reach (n * d.period)
    let d := { d with time := { d.time with smp := BitVec.ofNat 64 n } }
    let d := d.applyPoint .sample
    let d := if d.coreOn then d.renderEdge n
      else if d.coreOff then d
      else ({ d with swm := { d.swm with acc := [] } }).outputEdge n
    (d.choosePower).sourceEvent 1

/-- Sample edge n·P: sample n leaves the buses and sample n + 1 begins (R29, R30). -/
def execSampleEdge (s : State) : Host.Outcome State Fault Refusal := s.effect Dev.sampleEdge

/-! ### Block edges (R35, R41, R451, R459) -/

/-- The next block edge: the setters of R35 are forgotten, BLOCK shadows apply, a newly detected AES rate counts (R497), ports
start (R270), the sentinel's check is published (R164), and the fault classes are tested (R451). -/
def Dev.blockEdge (d : Dev) : Dev :=
  if !d.time.counting then d
  else
    let b := d.time.blk.toNat + 1
    let d := (d.reach (b * blockTk)).scrubBlock
    let d := { d with setters := [], time := { d.time with blk := BitVec.ofNat 64 b } }
    let d := if d.ref.newRate ≠ 0 ∧ d.ref.newRate ≠ d.ref.aesRate then
        let d := { d with ref := { d.ref with aesRate := d.ref.newRate } }
        { d with time := { d.time with frame := BitVec.ofNat 64 (d.std.frameOf d.now) } }
      else d
    let d := d.applyPoint .block
    let d := if d.coreOff then d.classEdge 0
      else
        let d := (d.each (List.range 7) fun p d => d.portStart p).okBlock
        (if d.coreOn then d.senPublish else d).each (List.range 10) fun x d => d.classEdge x
    d.healthRise.sourceEvent 2

/-- A block edge of house time. -/
def execBlockEdge (s : State) : Host.Outcome State Fault Refusal := s.effect Dev.blockEdge

/-! ### Frame boundaries (R41, R58) -/

/-- The first tick of the next frame of the selected standard: FRAME shadows apply. -/
def Dev.frameEdge (d : Dev) : Dev :=
  if !d.time.counting then d
  else
    let k := d.time.frame.toNat + 1
    let d := d.reach (d.std.firstTick k)
    { d with time := { d.time with frame := BitVec.ofNat 64 k } }.applyPoint .frame

/-- A frame boundary of the selected reference. -/
def execFrameBoundary (s : State) : Host.Outcome State Fault Refusal := s.effect Dev.frameEdge

/-! ### One XI cycle (R54) -/

/-- What happens while no command waits (DESIGN CHOICE, log 3): one XI cycle. House time takes its increment, once it counts, TCU channels
on ECLK take their events, and the two-wire target's request and the card's deactivation go on. -/
def Dev.xiCycle (d : Dev) : Dev :=
  if !d.time.counting then d
  else
    let sum := d.time.ht.toNat * 2 ^ 32 + d.time.frac.toNat + d.time.incr.toNat
    let cycles := eclkOf (sum / 2 ^ 32) - eclkOf d.now
    (({ d with time := { d.time with ht := BitVec.ofNat 64 (sum / 2 ^ 32), frac := BitVec.ofNat 32 sum } }.xiWrite).eclkRun cycles).rechoose.ibaCycle.cardCycle

/-! ### The ledger (R50, R148) -/

/-- The ledger answers the host's request first, then the threads' in ascending order; the answer reaches the host's stream at
once, and a thread by its own step (R189). -/
def Dev.ledgerStep (d : Dev) : Dev :=
  if !d.coreOn then d
  else match d.hcp.ledgerReq with
    | some r =>
      let a := d.ledgerAdmit r
      (a.2.cmdAnswer a.1).drain
    | none =>
      let open' (n : Nat) : Option SwReq := match (d.thread n).outst with
        | some ⟨_, r, none⟩ => some r
        | _ => none
      match (List.range 16).findSome? (fun n => (open' n).map fun r => (n, r)) with
      | none => d
      | some (n, r) =>
        let a := d.ledgerAdmit r
        a.2.modThread n fun x => { x with outst := x.outst.map fun o => { o with ans := some a.1 } }

/-- The ledger answers one pending request. -/
def execLedgerAdmission (s : State) : Host.Outcome State Fault Refusal := s.effect Dev.ledgerStep

end Sys2Proof.Machine
end

