-- ==== Sys2Proof/Machine/TimeRows.lean ====
section
/-! DEFINITION. The commands of house time, reference and timestamper (chapter 2). -/

namespace Sys2Proof.Machine

/-- A read of HT_NOW_LO takes the path's snapshot (R56). -/
def execHtNowLoRead (p : Path) (s : State) : Host.Outcome State Fault Refusal := s.effect fun d => d.srcRead p F.htNowLo.addr

/-! ### The reference loop -/

/-- An edge of the selected reference, or the place where one lacked (R60, R61). -/
def execAlignmentEdge (e : RefEdge) (s : State) : Host.Outcome State Fault Refusal :=
  s.effect fun d => d.aonEvent fun d => d.alignmentEdge e

/-- The reference is lost (R63). -/
def execReferenceLost (s : State) : Host.Outcome State Fault Refusal := s.effect fun d => d.aonEvent Dev.referenceLost

/-- Holdover lapses (R72). -/
def execHoldLapse (s : State) : Host.Outcome State Fault Refusal := s.effect fun d => d.aonEvent Dev.holdLapse

/-- REF_CTRL.RUN written 1 (R64). -/
def execRefRunStart (src : Src) (s : State) : Host.Outcome State Fault Refusal := s.effect fun d => d.srcWrite src F.refCtrlRun 1

/-- REF_CTRL.RUN written 0 (R82). -/
def execRefRunStop (src : Src) (s : State) : Host.Outcome State Fault Refusal := s.effect fun d => d.srcWrite src F.refCtrlRun 0

/-! ### Re-anchor and leap second -/

/-- The instant `t` of the old time scale on the new one, not before 0. -/
def moved (delta : Int) (t : Nat) : Nat := ((t : Int) + delta).toNat

/-- Instants that stand for physical time move with the step: deadlines, time-outs, lines under way, the last edges of the
timestamper's inputs. -/
def Dev.moveInstants (d : Dev) (delta : Int) : Dev :=
  { d with
    time := { d.time with lastEdge := (d.time.lastEdge.filter fun x => decide (0 ≤ (x.2 : Int) + delta)).map fun x =>
      (x.1, moved delta x.2) }
    ref := { d.ref with ltcAt := d.ref.ltcAt.map (moved delta), lastPps := none }
    ua0 := { d.ua0 with shift := d.ua0.shift.map fun x => (x.1, moved delta x.2) }
    ua1 := { d.ua1 with lockout := moved delta d.ua1.lockout }
    pwr :=
      let move (t : Word64) : Word64 := BitVec.ofNat 64 (moved delta t.toNat)
      { d.pwr with idleAt := move d.pwr.idleAt, sleptAt := move d.pwr.sleptAt, napAt := move d.pwr.napAt }
    twt := { d.twt with iba := { d.twt.iba with
      sent := d.twt.iba.sent.map (moved delta), stopAt := moved delta d.twt.iba.stopAt } }
    sys := { d.sys with lcSince := moved delta d.sys.lcSince, startAt := moved delta d.sys.startAt }
    upd := { d.upd with deadline := moved delta d.upd.deadline } }

/-- The re-anchor at B (R69, R70): house time steps; the swarm's instants move by s, and its global LFOs in HOUSE mode take the new time
(R133); the reservations of sounding husks keep their length, while queued events keep their due times (R171); apply points of the new scale before the
next sample edge apply now, in the order of R52; channels whose START has passed start (R322); a PPS edge before B times no
sentence (R384). -/
def Dev.reAnchor (d : Dev) : Dev :=
  match d.ref.reanchor with
  | none => d
  | some r =>
    let d := d.reach r.at'
    let n := d.time.smp.toNat + 1
    let was := decide (n ≤ d.alc.window)
    let d' := d.eventPassed.stepTime r
    let m := d'.time.smp.toNat + 1
    let t := d'.now
    let p := d'.period
    let d' := (d'.moveInstants (t - r.at')).swarmShift ((m * p : Nat) - (r.at' + p : Nat))
    let d' := { d' with alc := { d'.alc with
      window := if was then m else m - 1
      huskRes := d'.alc.huskRes.map fun (h : Nat × Nat × Nat) =>
        if d'.alc.queue.any (fun e => e.seq == h.1) then h else (h.1, h.2.1 + m - n, h.2.2 + m - n) } }
    let d' := if d'.coreOn && d'.on F.swmCtrlRun then
        d'.each ((List.range 4).filter fun g => d'.on (F.swmGlfoCfgPh g)) fun g d => d.glfoStep m g
      else d'
    let d' := if t / blockTk < (m * p - 1) / blockTk then d'.applyPoint .block else d'
    let d' := if d'.std.frameOf t < d'.std.frameOf (m * p - 1) then d'.applyPoint .frame else d'
    d'.each (List.range 8) fun k d => d.startIfPassed k

/-- House time steps at the decided boundary (R69). -/
def execReAnchor (s : State) : Host.Outcome State Fault Refusal := s.effect fun d => d.aonEvent Dev.reAnchor

/-- The announced leap second (R74). -/
def execLeapSecond (s : State) : Host.Outcome State Fault Refusal :=
  s.effect fun d => d.aonEvent fun d => if d.get F.htLeapCtrlDir = 0 then d else d.leapSecond.eventPassed

/-! ### Labels -/

/-- A frame decoded from LTC_IN (R75). -/
def execLtcInFrame (f : LtcIn) (s : State) : Host.Outcome State Fault Refusal := s.effect fun d => d.aonEvent fun d => d.ltcFrame f

/-- An edge of PPS_IN (R77). -/
def execPpsEdge (falling : Bool) (phase : Fin 10) (s : State) : Host.Outcome State Fault Refusal :=
  s.effect fun d => d.aonEvent fun d => d.ppsEdge falling phase

/-- HT_CTRL.SET (R85). -/
def execHtSet (src : Src) (s : State) : Host.Outcome State Fault Refusal := s.effect fun d => d.srcWrite src F.htCtrl 1

/-! ### The timestamper -/

/-- An edge on GPn: the pin's level, and, where the timestamper takes the edge, its stamp (R78 to R80), its offer to the trigger
latches (R194) and the wake of R181. -/
def Dev.triggerEdge (d : Dev) (n : Nat) (falling : Bool) (phase : Nat) : Dev :=
  let takes := d.takesEdge n falling && d.time.counting
  let d := d.setGpLevel n !falling
  if !takes then d
  else
    let ts := d.stampNow phase
    match d.pushStamp ⟨ts, n, falling, 16, true⟩ with
    | (.log, d) | (.strike, d) => (d.wakeOnEdge n).offer n ts
    | (_, d) => d

/-- An edge on a GP pin (R78). -/
def execTriggerEdge (pin : Fin 16) (falling : Bool) (phase : Fin 10) (s : State) : Host.Outcome State Fault Refusal :=
  s.effect fun d => d.triggerEdge pin falling phase

/-- A read of HT_TS_LO (R80). -/
def execHtTsLoRead (p : Path) (s : State) : Host.Outcome State Fault Refusal := s.effect fun d => d.srcRead p F.htTsLo.addr

/-- 16 ECLK after OE of GPn fell, the level at the ball is the pin's level, and edges count again (R81). -/
def Dev.gpSettled (d : Dev) (n : Nat) (level : Bool) : Dev :=
  if !d.time.gpSettle.getLsbD n then d
  else
    let d := d.setGpLevel n level
    { d with time := { d.time with gpSettle := d.time.gpSettle &&& ~~~(1#16 <<< n) } }

/-- The timestamper takes the level of a pin that no longer drives (R81). -/
def execGpInputSettle (pin : Fin 16) (level : Bool) (s : State) : Host.Outcome State Fault Refusal :=
  s.effect fun d => d.gpSettled pin level

end Sys2Proof.Machine
end

