-- ==== Sys2Proof/Machine/TimerRows.lean ====
section
/-! DEFINITION. The commands of the Timer/Counter Unit (chapter 9). -/

namespace Sys2Proof.Machine

/-! ### Control (R303, R307, R316) -/

def execTcuArm (src : Src) (ch : Fin 8) (s : State) : Host.Outcome State Fault Refusal :=
  s.effect fun d => d.srcWrite src (F.tcuChCtrlArm ch) 1
def execTcuStop (src : Src) (ch : Fin 8) (s : State) : Host.Outcome State Fault Refusal :=
  s.effect fun d => d.srcWrite src (F.tcuChCtrlStop ch) 1
def execGctrlArm (src : Src) (chs : BitVec 8) (s : State) : Host.Outcome State Fault Refusal :=
  s.effect fun d => d.srcWrite src F.tcuGctrlArm chs.toNat
def execGctrlStop (src : Src) (chs : BitVec 8) (s : State) : Host.Outcome State Fault Refusal :=
  s.effect fun d => d.srcWrite src F.tcuGctrlStop chs.toNat
def execTcuSnap (src : Src) (ch : Fin 8) (s : State) : Host.Outcome State Fault Refusal :=
  s.effect fun d => d.srcWrite src (F.tcuChCtrlSnap ch) 1
def execForceHi (src : Src) (ch : Fin 8) (s : State) : Host.Outcome State Fault Refusal :=
  s.effect fun d => d.srcWrite src (F.tcuChCtrlForceHi ch) 1
def execForceLo (src : Src) (ch : Fin 8) (s : State) : Host.Outcome State Fault Refusal :=
  s.effect fun d => d.srcWrite src (F.tcuChCtrlForceLo ch) 1
def execForceTgl (src : Src) (ch : Fin 8) (s : State) : Host.Outcome State Fault Refusal :=
  s.effect fun d => d.srcWrite src (F.tcuChCtrlForceTgl ch) 1

/-! ### Counting -/

/-- An ARMED channel starts at START (R304). -/
def execTcuStart (ch : Fin 8) (s : State) : Host.Outcome State Fault Refusal :=
  s.effect fun d => if d.time.counting then d.startDue ch else d

/-- The next `events` events of the source of channel `n`, or of the pair it belongs to (Table 9.1, R302). -/
def Dev.ownTicks (n : Nat) : Nat → Dev → Dev
  | 0, d => d
  | events + 1, d => (d.ownTick (d.lowOf n)).ownTicks n events

/-- The channel, or the pair it belongs to, steps with each event of its source up to the one with which the compare comes (R302, R307). On
ECLK an event is an ECLK cycle, which is one of house time. Events of the sources SAMPLE, BLOCK and PIN come with those edges' own
commands. -/
def execTcuCompare (ch : Fin 8) (events : Nat) (s : State) : Host.Outcome State Fault Refusal :=
  s.effect (Dev.ownTicks ch events)

/-- The same steps where the counter wraps past TOP (R302, R305, R311). -/
def execTcuOverflow (ch : Fin 8) (events : Nat) (s : State) : Host.Outcome State Fault Refusal :=
  s.effect (Dev.ownTicks ch events)

/-- The pin was seen at a level (R314, R315). -/
def execTcuCapture (ch : Fin 8) (seen : PinSeen) (s : State) : Host.Outcome State Fault Refusal :=
  s.effect fun d => d.pinSeen ch seen.level seen.samples

/-! ### Writes and reads (R304, R308, R310, R316) -/

def execTcuCntWrite (src : Src) (ch : Fin 8) (value : Word) (s : State) : Host.Outcome State Fault Refusal :=
  s.effect fun d => d.srcWord src (F.tcuChCnt ch).addr value
def execTcuTopWrite (src : Src) (ch : Fin 8) (value : Word) (s : State) : Host.Outcome State Fault Refusal :=
  s.effect fun d => d.srcWord src (F.tcuChTop ch).addr value

/-- CMPB where `b` holds, else CMPA. -/
def execTcuCmpWrite (src : Src) (ch : Fin 8) (b : Bool) (value : Word) (s : State) : Host.Outcome State Fault Refusal :=
  s.effect fun d => d.srcWord src (if b then F.tcuChCmpb ch else F.tcuChCmpa ch).addr value

/-- START_HI, which applies the low word held. -/
def execTcuStartWrite (src : Src) (ch : Fin 8) (value : Word) (s : State) : Host.Outcome State Fault Refusal :=
  s.effect fun d => d.srcWord src (F.tcuChStartHi ch).addr value
def execTcuCntRead (p : Path) (ch : Fin 8) (s : State) : Host.Outcome State Fault Refusal :=
  s.effect fun d => d.srcRead p (F.tcuChCnt ch).addr

end Sys2Proof.Machine
end

