-- ==== Sys2Proof/Machine/TwoWireRows.lean ====
section
/-! DEFINITION. The commands of the two-wire target and controller (chapter 10). -/

namespace Sys2Proof.Machine

/-! ### Management commands (R335, Table 10.3) -/

/-- What a management command does once the CORE domain runs: its outcome, or none where it ends later. -/
def Dev.mgmtPerform (d : Dev) (code arg : Nat) : Option Status × Dev :=
  if code = 0x01 then (some .ok, d)
  else if code = 0x02 ∨ code = 0x03 then
    let r := d.requests [regReq .mgmt F.outMuteMute.addr (d.fieldWord F.outMuteMute (if code = 0x02 then 1 else 0)) false]
      (some .mgmt)
    (some (r.1.headD .ok), r.2)
  else if code = 0x20 then
    let r := d.lcRequest (BitVec.ofNat 2 arg) (decide (128 ≤ arg))
    (if decide (128 ≤ arg) && decide (r.1 = .ok) then none else some r.1, r.2)
  else
    let r := d.updStart arg
    (some r.1, r.2)

/-- RESET (R403): a CORE reset ends the command at READY; a system reset ends it without LAST_ST. -/
def Dev.mgmtResetNow (d : Dev) (arg : Nat) : Dev :=
  if arg = 1 then { d.coreReset Rst.mgmtCore with sys := { (d.coreReset Rst.mgmtCore).sys with mgmtReset := true } }
  else if arg = 2 then d.systemReset Rst.mgmtSys
  else d.setTwt fun t => { t with cmd := t.cmd.map fun c => (c.1, c.2.1, some .earg) }

/-- A write of `code` to MGMT_CMD: whether it is acknowledged. A command that needs the CORE domain wakes it. -/
def Dev.mgmtByte (d : Dev) (code : Nat) : Bool × Dev :=
  if d.twt.cmd.isSome then (false, d.bump F.twtCntNack)
  else
    let arg := d.twt.arg.toNat
    let hold (st : Option Status) (d : Dev) : Dev := d.setTwt fun t => { t with cmd := some (code, arg, st), cmdBad := false }
    let d := hold none d
    (true,
      if code = 0x00 then hold (some .ok) d
      else if code = 0x10 then d.mgmtResetNow arg
      else if code ∉ [0x01, 0x02, 0x03, 0x20, 0x30] then d.mgmtEnd .earg
      else
        let d := if code = 0x01 ∨ d.coreOn = false then d.requestWake WakeCode.command else d
        if d.coreOn then
          let r := d.mgmtPerform code arg
          hold r.1 r.2
        else d)

/-- The running command completes where its time has come: it is done, or the CORE domain runs now. -/
def Dev.mgmtDone (d : Dev) : Dev :=
  match d.twt.cmd with
  | none => d
  | some (_, _, some st) => d.mgmtEnd st
  | some (code, arg, none) =>
    if !d.coreOn then d
    else if code = 0x10 then (if d.isReady then d.mgmtEnd .ok else d)
    else if code = 0x20 ∧ d.sys.lcGo.isSome = true then d
    else
      let r := d.mgmtPerform code arg
      match r.1 with
      | some st => r.2.mgmtEnd st
      | none => r.2

/-- A byte reaches MGMT_CMD. -/
def Dev.mgmtCommand (d : Dev) (code : Nat) : Dev :=
  if d.sys.phase = .awaitXi then d.answer [] [] [false]
  else
    let r := d.mgmtByte code
    r.2.answer [] [] [r.1]

def execMgmtNop (s : State) : Host.Outcome State Fault Refusal := s.effect fun d => d.mgmtCommand 0x00
def execMgmtWake (s : State) : Host.Outcome State Fault Refusal := s.effect fun d => d.mgmtCommand 0x01
def execMgmtMute (s : State) : Host.Outcome State Fault Refusal := s.effect fun d => d.mgmtCommand 0x02
def execMgmtUnmute (s : State) : Host.Outcome State Fault Refusal := s.effect fun d => d.mgmtCommand 0x03
def execMgmtReset (s : State) : Host.Outcome State Fault Refusal := s.effect fun d => d.mgmtCommand 0x10
def execMgmtLifecycle (s : State) : Host.Outcome State Fault Refusal := s.effect fun d => d.mgmtCommand 0x20
def execMgmtUpdate (s : State) : Host.Outcome State Fault Refusal := s.effect fun d => d.mgmtCommand 0x30

/-- The running management command completes (R333, R335). -/
def execMgmtCmdDone (s : State) : Host.Outcome State Fault Refusal := s.effect Dev.mgmtDone

/-! ### Address matches and time-outs (R326, R336, R350) -/

/-- An address byte: one of the target's own is acknowledged, counted, and with WAKE wakes and stretches. -/
def Dev.addressByte (d : Dev) (addr : Nat) : Dev :=
  if addr ≠ d.twtOwn ∨ d.sys.phase = .awaitXi then d.answer [] [] [false]
  else
    let d := (d.ibaBreak.setTwt fun t => { t with addressed := true }).bump F.twtCntXfer
    let d := if d.coreOn || !d.on F.twtCfgWake then d
      else (d.requestWake WakeCode.twoWire).setTwt fun t => { t with stretch := !t.strExp }
    d.answer [] [] [true]

/-- An address byte on the bus. -/
def execTwtAddressMatch (addr : BitVec 7) (s : State) : Host.Outcome State Fault Refusal :=
  s.effect fun d => d.addressByte addr.toNat

/-- The wake stretch reaches 400 µs. -/
def execStretchTimeout (s : State) : Host.Outcome State Fault Refusal := s.effect Dev.stretchOver

/-- TWT_SCL stays low for 25 ms. -/
def execTwtBusTimeout (s : State) : Host.Outcome State Fault Refusal :=
  s.effect fun d => if d.twt.addressed then d.twtEnd.bump F.twtCntBuserr else d

/-! ### Write transfers (R329 to R333, R337, R339) -/

/-- A write transfer under way: the device, the bytes collected of the present word or line and their first address, the other
paths' requests still to come, whether an item failed, whether a management command began, and the acknowledge bits so far. -/
structure Transfer where
  dev : Dev
  first : Nat
  data : List Byte
  rivals : List Req
  bad : Bool
  began : Bool
  acks : List Bool
  deriving DecidableEq, Repr

/-- An item of the transfer has its status. -/
def Transfer.item (x : Transfer) (st : Status) (a : Nat) : Transfer :=
  { x with dev := x.dev.lastSt st a x.bad, bad := x.bad || st.isError }

/-- The collected bytes of a word or a line are written, or a part of a word is discarded. -/
def Transfer.flush (x : Transfer) : Transfer :=
  match x.data with
  | [] => x
  | data =>
    let a := x.first
    let x := { x with data := [] }
    if isReg a && decide (data.length < 4) then x.item .earg (a / 4 * 4)
    else
      let here := x.rivals.filter fun q => overlaps a data.length q
      let r := x.dev.requests (⟨.mgmt, a, data, false⟩ :: here) (some .mgmt)
      { x with dev := r.2, rivals := x.rivals.filter fun q => !overlaps a data.length q }.item (r.1.headD .ok) a

/-- Whether byte `a` continues what has been collected: the next byte of the same word or line. -/
def Transfer.follows (x : Transfer) (a : Nat) : Bool :=
  let size := if isReg a then 4 else 32
  decide (a = x.first + x.data.length) && decide (a / size = x.first / size)

/-- A byte that is not acknowledged. -/
def Transfer.nack (x : Transfer) : Transfer := { x with dev := x.dev.bump F.twtCntNack, acks := x.acks ++ [false] }

def Transfer.ack (x : Transfer) : Transfer := { x with acks := x.acks ++ [true] }

/-- A byte for the window. -/
def Transfer.window (x : Transfer) (a : Nat) (b : Byte) : Transfer :=
  let x := if x.follows a then x else x.flush
  if !inPage x.dev.twt.page a then (x.item .earg a).ack
  else if !x.dev.served a then { x with dev := x.dev.turnAway .mgmt a, bad := true }.nack
  else { x with first := if x.data.isEmpty then a else x.first, data := x.data ++ [b] }.ack

/-- A data byte after the first. A reset in the middle of the transfer leaves nothing addressed. -/
def Transfer.byte (x : Transfer) (b : Byte) : Transfer :=
  if !x.dev.twt.addressed then { x with acks := x.acks ++ [false] }
  else
    let p := x.dev.twt.ptr
    let x := { x with dev := x.dev.setTwt fun t => { t with ptr := nextPtr p } }
    if p = 0xF5 then
      let r := x.dev.mgmtByte b.toNat
      -- a command that is acknowledged and runs no more has failed at once: its code is unknown (R335)
      { x with dev := r.2, acks := x.acks ++ [r.1], began := x.began || r.1, bad := x.bad || (r.1 && r.2.twt.cmd.isNone) }
    else if 0xF0 ≤ p then { x with dev := x.dev.fixedWrite p b }.ack
    else x.window (pageBase x.dev.twt.page + p) b

/-- The end of a transfer, by a STOP or by a START or STOP in the middle of a byte (R350). -/
def Dev.transferEnd (d : Dev) (broken : Bool) : Dev :=
  if d.twt.addressed then (if broken then d.bump F.twtCntBuserr else d).twtEnd else d

/-- A write transfer. -/
def Dev.twtWrite (d : Dev) (bytes : List Byte) (broken : Bool) (rivals : List Req) : Dev :=
  if !d.twt.addressed || d.twt.stretch then d
  else
    let start : Transfer := ⟨d, 0, [], rivals.filter fun q => q.path != .mgmt, false, false, []⟩
    let x := match bytes with
      | [] => start
      | p :: rest => rest.foldl Transfer.byte
          { start with dev := d.setTwt fun t => { t with ptr := p.toNat }, acks := [true] }
    let x := x.flush
    let x := if x.began && x.dev.twt.cmd.isSome then { x with dev := x.dev.setTwt fun t => { t with cmdBad := x.bad } } else x
    let d := if x.rivals.isEmpty then x.dev else (x.dev.requests x.rivals).2
    (d.transferEnd broken).answer [] [] x.acks

/-- A management write transfer. -/
def execTwtWriteTransfer (bytes : List Byte) (broken : Bool) (rivals : List Req) (s : State) :
    Host.Outcome State Fault Refusal :=
  s.effect fun d => d.twtWrite bytes broken rivals

/-! ### Read transfers (R330, R337) -/

/-- A window word is read: its value, or why it is refused. -/
def Dev.windowWord (d : Dev) (a : Nat) : Except Status Word × Dev :=
  if isReg a then
    let r := d.readReg .mgmt a
    (.ok r.1, r.2)
  else if spaceOf a = .flash then
    let r := d.flashRead a 4
    (if r.2.1 then .error .eperm else .ok (BitVec.ofNat 32 (ofBytes r.1)), r.2.2)
  else
    let r := d.readMem Master.mgmt a 4
    (.ok (BitVec.ofNat 32 (ofBytes r.2.1)), r.2.2)

/-- One byte of the window; `latched` holds the words read so far in the transfer, `late` the words that are not ready within 400 µs,
which only a page program delays so long (R259, R338). -/
def Dev.windowByte (d : Dev) (late : List Nat) (latched : List (Nat × Word)) (a : Nat) : Byte × List (Nat × Word) × Dev :=
  let w := a / 4 * 4
  let pick (v : Word) : Byte := BitVec.ofNat 8 (bitsOf v (8 * (a % 4)) 8)
  match latched.find? fun x => x.1 == w with
  | some x => (pick x.2, latched, d)
  | none =>
    if !inPage d.twt.page a then (0, (w, 0) :: latched, d.lastSt .earg w false)
    else if !d.served a then (0xFF, latched, d.turnAway .mgmt a)
    else if spaceOf w = .flash ∧ d.mem.flash.page.isSome = true ∧ w ∈ late then
      (0xFF, (w, 0xFFFFFFFF) :: latched, d.lastSt .ebusy w false)
    else match d.windowWord w with
      | (.ok v, d) => (pick v, (w, v) :: latched, d)
      | (.error st, d) => (0, (w, 0) :: latched, d.lastSt st w false)

/-- The bytes of a read transfer. -/
def Dev.twtBytes (d : Dev) (late : List Nat) (latched : List (Nat × Word)) : Nat → List Byte × Dev
  | 0 => ([], d)
  | n + 1 =>
    let p := d.twt.ptr
    let d := d.setTwt fun t => { t with ptr := nextPtr p }
    let r : Byte × List (Nat × Word) × Dev :=
      if 0xF0 ≤ p then
        let f := d.fixedRead p
        (f.1, latched, f.2)
      else d.windowByte late latched (pageBase d.twt.page + p)
    let r' := r.2.2.twtBytes late r.2.1 n
    (r.1 :: r'.1, r'.2)

/-- A read transfer of `count` bytes. -/
def Dev.twtRead (d : Dev) (count : Nat) (broken : Bool) (late : List Nat) : Dev :=
  if !d.twt.addressed || d.twt.stretch then d
  else
    let r := d.twtBytes late [] count
    (r.2.transferEnd broken).answer [] (r.1.map fun b => b.zeroExtend 32)

/-- A management read transfer. -/
def execTwtReadTransfer (span : ReadSpan) (broken : Bool) (s : State) : Host.Outcome State Fault Refusal :=
  s.effect fun d => d.twtRead span.count broken span.late

/-! ### In-band attention (R341, R342) -/

/-- A request for attention begins; it ends by itself after 737 XI cycles. -/
def execIbaRequest (s : State) : Host.Outcome State Fault Refusal := s.effect Dev.ibaStart

/-- SCL falls during a request. -/
def execIbaAbort (s : State) : Host.Outcome State Fault Refusal := s.effect Dev.ibaBreak

/-! ### The controller (R344 to R348) -/

/-- TWC_XFER.GO. -/
def execTwcGo (src : Src) (s : State) : Host.Outcome State Fault Refusal := s.effect fun d => d.srcWrite src F.twcXferGo 1

/-- The transfer goes as far as the bus carries it. -/
def execTwcDone (rx : List Byte) (nack : Option Nat) (s : State) : Host.Outcome State Fault Refusal :=
  s.effect fun d => d.twcDone rx nack

/-- No GO within CHAIN ms of a held bus. -/
def execTwcChainTimeout (s : State) : Host.Outcome State Fault Refusal := s.effect Dev.twcChain

/-- SCL, or a wait for a FIFO, beyond STUCK ms. -/
def execTwcStuckTimeout (sclLow : Bool) (s : State) : Host.Outcome State Fault Refusal :=
  s.effect fun d => d.twcStuck sclLow

/-- Arbitration is lost. -/
def execTwcArbLost (s : State) : Host.Outcome State Fault Refusal := s.effect Dev.twcLose

/-- A retry begins. -/
def execTwcRetry (s : State) : Host.Outcome State Fault Refusal := s.effect Dev.twcRetryNow

/-- A write of TWC_DATA. -/
def execTwcDataWrite (src : Src) (value : Byte) (s : State) : Host.Outcome State Fault Refusal :=
  s.effect fun d => d.srcWord src F.twcDataByte.addr (value.zeroExtend 32)

/-- A read of TWC_DATA. -/
def execTwcDataRead (p : Path) (s : State) : Host.Outcome State Fault Refusal :=
  s.effect fun d => d.srcRead p F.twcDataByte.addr

end Sys2Proof.Machine
end

