-- ==== Sys2Proof/Machine/UpdateRows.lean ====
section
/-! DEFINITION. The commands of field update (chapter 13). -/

namespace Sys2Proof.Machine

/-! ### Steps (R430 to R432, R436, R442) -/

/-- The body of SCAN. -/
def execScan (read : CardRead) (s : State) : Host.Outcome State Fault Refusal := s.effect fun d => d.byHkp fun d => d.scanBody read

/-- The body of STAGE. -/
def execStage (blocks : List BlockIn) (s : State) : Host.Outcome State Fault Refusal := s.effect fun d => d.byHkp fun d => d.stageBody blocks

/-- The body of VERIFY. -/
def execVerify (signature : BlockIn) (s : State) : Host.Outcome State Fault Refusal := s.effect fun d => d.byHkp fun d => d.verifyBody signature

def execActivate (s : State) : Host.Outcome State Fault Refusal := s.effect fun d => d.byHkp Dev.activateBody
def execCancel (s : State) : Host.Outcome State Fault Refusal := s.effect fun d => d.byHkp Dev.cancelBody

/-- The body of SAVE. -/
def execSave (entries : List (Nat × Word)) (s : State) : Host.Outcome State Fault Refusal := s.effect fun d => d.byHkp fun d => d.saveBody entries

def execEject (s : State) : Host.Outcome State Fault Refusal := s.effect fun d => d.byHkp Dev.ejectBody

/-- A step ends; with UPD_CFG.ACT_RESET an ACTIVATE that ended well requests a CORE reset (R436). -/
def execUpdStepDone (s : State) : Host.Outcome State Fault Refusal :=
  s.effect fun d => d.byHkp fun d =>
    let r := d.updDone
    if r.1 then r.2.coreReset Rst.mgmtCore else r.2

/-! ### Trials (R437 to R439) -/

/-- A confirmation by the HKP, or a write of UPD_CONFIRM. -/
def Dev.updConfirm (d : Dev) (byHkp : Bool) (src : Src) (token : Word) : Dev :=
  if byHkp then
    d.byHkp fun d => if d.on F.updCfgMgmtConfirm then d.answer [.eperm]
    else
      let r := d.confirm token
      r.2.answer [r.1]
  else d.srcWord src F.updConfirm.addr token

/-- A confirmation, after the image on trial has passed its self-test or not (R438). -/
def execUpdConfirm (byHkp : Bool) (src : Src) (token : Word) (selfTest : Bool) (s : State) :
    Host.Outcome State Fault Refusal :=
  s.effect fun d =>
    (if selfTest && d.upd.trial then d.byHkp fun d => d.put F.updStatusSelftestOk 1 else d).updConfirm byHkp src token

/-- The CONFIRMED marker is programmed (R439). -/
def execConfirmedMarkerDone (s : State) : Host.Outcome State Fault Refusal := s.effect Dev.confirmedDone

/-- UPD_DEADLINE reaches 0 (R437). -/
def execTrialDeadline (s : State) : Host.Outcome State Fault Refusal :=
  s.effect fun d =>
    if d.upd.trial && !d.upd.confirming then (d.reach d.upd.deadline).coreReset Rst.wdog else d

end Sys2Proof.Machine
end

