-- ==== Sys2Proof/Machine/Dispatch.lean ====
section
/-! DEFINITION. The dispatch of every command of the opcode table to its meaning. -/

namespace Sys2Proof.Machine

def exec (i : Instr) (s : State) : Host.Outcome State Fault Refusal :=
  match i with
  | .registerWrite reqs => Sys2Proof.Machine.execRegisterWrite reqs s
  | .counterReadClear p addr => Sys2Proof.Machine.execCounterReadClear p addr s
  | .sampleEdge => Sys2Proof.Machine.execSampleEdge s
  | .blockEdge => Sys2Proof.Machine.execBlockEdge s
  | .frameBoundary => Sys2Proof.Machine.execFrameBoundary s
  | .apply src blk => Sys2Proof.Machine.execApply src blk s
  | .discard src blk => Sys2Proof.Machine.execDiscard src blk s
  | .ledgerAdmission => Sys2Proof.Machine.execLedgerAdmission s
  | .htNowLoRead p => Sys2Proof.Machine.execHtNowLoRead p s
  | .alignmentEdge e => Sys2Proof.Machine.execAlignmentEdge e s
  | .referenceLost => Sys2Proof.Machine.execReferenceLost s
  | .holdLapse => Sys2Proof.Machine.execHoldLapse s
  | .refRunStart src => Sys2Proof.Machine.execRefRunStart src s
  | .refRunStop src => Sys2Proof.Machine.execRefRunStop src s
  | .reAnchor => Sys2Proof.Machine.execReAnchor s
  | .leapSecond => Sys2Proof.Machine.execLeapSecond s
  | .ltcInFrame f => Sys2Proof.Machine.execLtcInFrame f s
  | .ppsEdge falling phase => Sys2Proof.Machine.execPpsEdge falling phase s
  | .htSet src => Sys2Proof.Machine.execHtSet src s
  | .triggerEdge pin falling phase => Sys2Proof.Machine.execTriggerEdge pin falling phase s
  | .htTsLoRead p => Sys2Proof.Machine.execHtTsLoRead p s
  | .gpInputSettle pin level => Sys2Proof.Machine.execGpInputSettle pin level s
  | .swmRunStart src => Sys2Proof.Machine.execSwmRunStart src s
  | .swmRunStop src => Sys2Proof.Machine.execSwmRunStop src s
  | .alcRunStart src => Sys2Proof.Machine.execAlcRunStart src s
  | .alcRunStop src => Sys2Proof.Machine.execAlcRunStop src s
  | .strikeEntryTake => Sys2Proof.Machine.execStrikeEntryTake s
  | .strikeWindow => Sys2Proof.Machine.execStrikeWindow s
  | .sentinelInject src => Sys2Proof.Machine.execSentinelInject src s
  | .threadStart src th => Sys2Proof.Machine.execThreadStart src th s
  | .threadStop src th => Sys2Proof.Machine.execThreadStop src th s
  | .threadResume src th => Sys2Proof.Machine.execThreadResume src th s
  | .cueRunStop src => Sys2Proof.Machine.execCueRunStop src s
  | .threadSignal src th bits => Sys2Proof.Machine.execThreadSignal src th bits s
  | .cueRdataWrite src value => Sys2Proof.Machine.execCueRdataWrite src value s
  | .ldi th => Sys2Proof.Machine.execLdi th s
  | .ld th => Sys2Proof.Machine.execLd th s
  | .st th rivals => Sys2Proof.Machine.execSt th rivals s
  | .add th => Sys2Proof.Machine.execAdd th s
  | .sub th => Sys2Proof.Machine.execSub th s
  | .mul th => Sys2Proof.Machine.execMul th s
  | .and th => Sys2Proof.Machine.execAnd th s
  | .or th => Sys2Proof.Machine.execOr th s
  | .xor th => Sys2Proof.Machine.execXor th s
  | .shl th => Sys2Proof.Machine.execShl th s
  | .shr th => Sys2Proof.Machine.execShr th s
  | .cmp th => Sys2Proof.Machine.execCmp th s
  | .br th => Sys2Proof.Machine.execBr th s
  | .brc th => Sys2Proof.Machine.execBrc th s
  | .call th => Sys2Proof.Machine.execCall th s
  | .ret th => Sys2Proof.Machine.execRet th s
  | .loop th => Sys2Proof.Machine.execLoop th s
  | .yield th => Sys2Proof.Machine.execYield th s
  | .halt th => Sys2Proof.Machine.execHalt th s
  | .trap th => Sys2Proof.Machine.execTrap th s
  | .illegalOpcode th => Sys2Proof.Machine.execIllegalOpcode th s
  | .at th => Sys2Proof.Machine.execAt th s
  | .after th => Sys2Proof.Machine.execAfter th s
  | .tget th => Sys2Proof.Machine.execTget th s
  | .tadd th => Sys2Proof.Machine.execTadd th s
  | .waittrig th => Sys2Proof.Machine.execWaittrig th s
  | .waitsig th => Sys2Proof.Machine.execWaitsig th s
  | .sig th => Sys2Proof.Machine.execSig th s
  | .von th => Sys2Proof.Machine.execVon th s
  | .voff th => Sys2Proof.Machine.execVoff th s
  | .vset th => Sys2Proof.Machine.execVset th s
  | .vramp th => Sys2Proof.Machine.execVramp th s
  | .vkill th => Sys2Proof.Machine.execVkill th s
  | .valloc th => Sys2Proof.Machine.execValloc th s
  | .vfree th => Sys2Proof.Machine.execVfree th s
  | .modset th => Sys2Proof.Machine.execModset th s
  | .busset th => Sys2Proof.Machine.execBusset th s
  | .tcuset th rivals => Sys2Proof.Machine.execTcuset th rivals s
  | .gpo th rivals => Sys2Proof.Machine.execGpo th rivals s
  | .hostmsg th => Sys2Proof.Machine.execHostmsg th s
  | .waitRelease th => Sys2Proof.Machine.execWaitRelease th s
  | .swarmAnswer th => Sys2Proof.Machine.execSwarmAnswer th s
  | .rd ins addr count stalled collided => Sys2Proof.Machine.execRd ins addr count stalled collided s
  | .wr ins addr data rivals => Sys2Proof.Machine.execWr ins addr data rivals s
  | .cmd ins packet phase => Sys2Proof.Machine.execCmd ins packet phase s
  | .rsp ins count stalled => Sys2Proof.Machine.execRsp ins count stalled s
  | .nop tag => Sys2Proof.Machine.execNop tag s
  | .negotiate tag => Sys2Proof.Machine.execNegotiate tag s
  | .wreg tag rivals => Sys2Proof.Machine.execWreg tag rivals s
  | .rreg tag => Sys2Proof.Machine.execRreg tag s
  | .fence tag => Sys2Proof.Machine.execFence tag s
  | .cmdVon tag => Sys2Proof.Machine.execCmdVon tag s
  | .cmdVoff tag => Sys2Proof.Machine.execCmdVoff tag s
  | .cmdVset tag => Sys2Proof.Machine.execCmdVset tag s
  | .cmdVramp tag => Sys2Proof.Machine.execCmdVramp tag s
  | .cmdVkill tag => Sys2Proof.Machine.execCmdVkill tag s
  | .cmdValloc tag => Sys2Proof.Machine.execCmdValloc tag s
  | .cmdVfree tag => Sys2Proof.Machine.execCmdVfree tag s
  | .cmdModset tag => Sys2Proof.Machine.execCmdModset tag s
  | .cmdBusset tag => Sys2Proof.Machine.execCmdBusset tag s
  | .cstart tag => Sys2Proof.Machine.execCstart tag s
  | .cstop tag => Sys2Proof.Machine.execCstop tag s
  | .cresume tag => Sys2Proof.Machine.execCresume tag s
  | .csignal tag => Sys2Proof.Machine.execCsignal tag s
  | .trigger tag => Sys2Proof.Machine.execTrigger tag s
  | .flush src => Sys2Proof.Machine.execFlush src s
  | .ceWriteBack bank => Sys2Proof.Machine.execCeWriteBack bank s
  | .poisonWrite bank => Sys2Proof.Machine.execPoisonWrite bank s
  | .collisionRetry master addr => Sys2Proof.Machine.execCollisionRetry master addr s
  | .scrubRead => Sys2Proof.Machine.execScrubRead s
  | .regionCheck src => Sys2Proof.Machine.execRegionCheck src s
  | .regionWipe src => Sys2Proof.Machine.execRegionWipe src s
  | .regionDone => Sys2Proof.Machine.execRegionDone s
  | .memInj src value => Sys2Proof.Machine.execMemInj src value s
  | .arrayWipeDone => Sys2Proof.Machine.execArrayWipeDone s
  | .flashEraseStart sector => Sys2Proof.Machine.execFlashEraseStart sector s
  | .eraseDone => Sys2Proof.Machine.execEraseDone s
  | .eraseResume => Sys2Proof.Machine.execEraseResume s
  | .pageProgramDone => Sys2Proof.Machine.execPageProgramDone s
  | .dacClampRelease => Sys2Proof.Machine.execDacClampRelease s
  | .otRise temp => Sys2Proof.Machine.execOtRise temp s
  | .otClampRelease => Sys2Proof.Machine.execOtClampRelease s
  | .vdacHiLoss => Sys2Proof.Machine.execVdacHiLoss s
  | .otRestart src => Sys2Proof.Machine.execOtRestart src s
  | .ltcFrameStart => Sys2Proof.Machine.execLtcFrameStart s
  | .outSigBlkRead p port => Sys2Proof.Machine.execOutSigBlkRead p port s
  | .outSigInject src ports => Sys2Proof.Machine.execOutSigInject src ports s
  | .tcuArm src ch => Sys2Proof.Machine.execTcuArm src ch s
  | .tcuStop src ch => Sys2Proof.Machine.execTcuStop src ch s
  | .gctrlArm src chs => Sys2Proof.Machine.execGctrlArm src chs s
  | .gctrlStop src chs => Sys2Proof.Machine.execGctrlStop src chs s
  | .tcuSnap src ch => Sys2Proof.Machine.execTcuSnap src ch s
  | .forceHi src ch => Sys2Proof.Machine.execForceHi src ch s
  | .forceLo src ch => Sys2Proof.Machine.execForceLo src ch s
  | .forceTgl src ch => Sys2Proof.Machine.execForceTgl src ch s
  | .tcuStart ch => Sys2Proof.Machine.execTcuStart ch s
  | .tcuCompare ch events => Sys2Proof.Machine.execTcuCompare ch events s
  | .tcuOverflow ch events => Sys2Proof.Machine.execTcuOverflow ch events s
  | .tcuCapture ch seen => Sys2Proof.Machine.execTcuCapture ch seen s
  | .tcuCntWrite src ch value => Sys2Proof.Machine.execTcuCntWrite src ch value s
  | .tcuTopWrite src ch value => Sys2Proof.Machine.execTcuTopWrite src ch value s
  | .tcuCmpWrite src ch b value => Sys2Proof.Machine.execTcuCmpWrite src ch b value s
  | .tcuStartWrite src ch value => Sys2Proof.Machine.execTcuStartWrite src ch value s
  | .tcuCntRead p ch => Sys2Proof.Machine.execTcuCntRead p ch s
  | .twtAddressMatch addr => Sys2Proof.Machine.execTwtAddressMatch addr s
  | .stretchTimeout => Sys2Proof.Machine.execStretchTimeout s
  | .twtWriteTransfer bytes broken rivals => Sys2Proof.Machine.execTwtWriteTransfer bytes broken rivals s
  | .twtReadTransfer span broken => Sys2Proof.Machine.execTwtReadTransfer span broken s
  | .twtBusTimeout => Sys2Proof.Machine.execTwtBusTimeout s
  | .mgmtNop => Sys2Proof.Machine.execMgmtNop s
  | .mgmtWake => Sys2Proof.Machine.execMgmtWake s
  | .mgmtMute => Sys2Proof.Machine.execMgmtMute s
  | .mgmtUnmute => Sys2Proof.Machine.execMgmtUnmute s
  | .mgmtReset => Sys2Proof.Machine.execMgmtReset s
  | .mgmtLifecycle => Sys2Proof.Machine.execMgmtLifecycle s
  | .mgmtUpdate => Sys2Proof.Machine.execMgmtUpdate s
  | .mgmtCmdDone => Sys2Proof.Machine.execMgmtCmdDone s
  | .ibaRequest => Sys2Proof.Machine.execIbaRequest s
  | .ibaAbort => Sys2Proof.Machine.execIbaAbort s
  | .twcGo src => Sys2Proof.Machine.execTwcGo src s
  | .twcDone rx nack => Sys2Proof.Machine.execTwcDone rx nack s
  | .twcChainTimeout => Sys2Proof.Machine.execTwcChainTimeout s
  | .twcStuckTimeout sclLow => Sys2Proof.Machine.execTwcStuckTimeout sclLow s
  | .twcArbLost => Sys2Proof.Machine.execTwcArbLost s
  | .twcRetry => Sys2Proof.Machine.execTwcRetry s
  | .twcDataWrite src value => Sys2Proof.Machine.execTwcDataWrite src value s
  | .twcDataRead p => Sys2Proof.Machine.execTwcDataRead p s
  | .ua0RxChar bits => Sys2Proof.Machine.execUa0RxChar bits s
  | .ua0DataRead p => Sys2Proof.Machine.execUa0DataRead p s
  | .ua0DataWrite src value => Sys2Proof.Machine.execUa0DataWrite src value s
  | .ua0TxStart ctsLow => Sys2Proof.Machine.execUa0TxStart ctsLow s
  | .rxFlush src => Sys2Proof.Machine.execRxFlush src s
  | .txFlush src => Sys2Proof.Machine.execTxFlush src s
  | .ua0DmaTake => Sys2Proof.Machine.execUa0DmaTake s
  | .ua0DmaTimeout => Sys2Proof.Machine.execUa0DmaTimeout s
  | .ua0DmaDisable src => Sys2Proof.Machine.execUa0DmaDisable src s
  | .ua0Disable src => Sys2Proof.Machine.execUa0Disable src s
  | .slowRxChar bits => Sys2Proof.Machine.execSlowRxChar bits s
  | .slowRxHandover => Sys2Proof.Machine.execSlowRxHandover s
  | .cardAct src det => Sys2Proof.Machine.execCardAct src det s
  | .cardClkStart => Sys2Proof.Machine.execCardClkStart s
  | .cardResetRelease => Sys2Proof.Machine.execCardResetRelease s
  | .cardTsTimeout => Sys2Proof.Machine.execCardTsTimeout s
  | .cardRxChar bits => Sys2Proof.Machine.execCardRxChar bits s
  | .cardTxChar error => Sys2Proof.Machine.execCardTxChar error s
  | .cardGo src => Sys2Proof.Machine.execCardGo src s
  | .cardWtTimeout => Sys2Proof.Machine.execCardWtTimeout s
  | .cardDeact src => Sys2Proof.Machine.execCardDeact src s
  | .cardRemoved => Sys2Proof.Machine.execCardRemoved s
  | .ua1DataWrite src value => Sys2Proof.Machine.execUa1DataWrite src value s
  | .ua1DataRead p => Sys2Proof.Machine.execUa1DataRead p s
  | .ua1Disable src => Sys2Proof.Machine.execUa1Disable src s
  | .powerEntryDone => Sys2Proof.Machine.execPowerEntryDone s
  | .wakeScheduled => Sys2Proof.Machine.execWakeScheduled s
  | .wakeRequest event => Sys2Proof.Machine.execWakeRequest event s
  | .wakeDone => Sys2Proof.Machine.execWakeDone s
  | .floorArm src => Sys2Proof.Machine.execFloorArm src s
  | .floorClr src => Sys2Proof.Machine.execFloorClr src s
  | .floorReached => Sys2Proof.Machine.execFloorReached s
  | .supplyMonitor supply ok => Sys2Proof.Machine.execSupplyMonitor supply ok s
  | .powerOnReset taddr vioB18 => Sys2Proof.Machine.execPowerOnReset taddr vioB18 s
  | .resetPin ns => Sys2Proof.Machine.execResetPin ns s
  | .sysRstReq src kind => Sys2Proof.Machine.execSysRstReq src kind s
  | .coreBrownout => Sys2Proof.Machine.execCoreBrownout s
  | .hkpWatchdog => Sys2Proof.Machine.execHkpWatchdog s
  | .xiQualified => Sys2Proof.Machine.execXiQualified s
  | .sxiQualified => Sys2Proof.Machine.execSxiQualified s
  | .pllLocked => Sys2Proof.Machine.execPllLocked s
  | .journalRecovery => Sys2Proof.Machine.execJournalRecovery s
  | .startTimeDecision => Sys2Proof.Machine.execStartTimeDecision s
  | .imageCopy => Sys2Proof.Machine.execImageCopy s
  | .libraryCommit => Sys2Proof.Machine.execLibraryCommit s
  | .lcWipe => Sys2Proof.Machine.execLcWipe s
  | .settingsApply translated => Sys2Proof.Machine.execSettingsApply translated s
  | .startupReady => Sys2Proof.Machine.execStartupReady s
  | .sysLcReq src target confirm => Sys2Proof.Machine.execSysLcReq src target confirm s
  | .lcRequestLapse => Sys2Proof.Machine.execLcRequestLapse s
  | .lcTransition => Sys2Proof.Machine.execLcTransition s
  | .scan read => Sys2Proof.Machine.execScan read s
  | .stage blocks => Sys2Proof.Machine.execStage blocks s
  | .verify signature => Sys2Proof.Machine.execVerify signature s
  | .activate => Sys2Proof.Machine.execActivate s
  | .cancel => Sys2Proof.Machine.execCancel s
  | .save entries => Sys2Proof.Machine.execSave entries s
  | .eject => Sys2Proof.Machine.execEject s
  | .updStepDone => Sys2Proof.Machine.execUpdStepDone s
  | .updConfirm byHkp src token selfTest => Sys2Proof.Machine.execUpdConfirm byHkp src token selfTest s
  | .confirmedMarkerDone => Sys2Proof.Machine.execConfirmedMarkerDone s
  | .trialDeadline => Sys2Proof.Machine.execTrialDeadline s
  | .fltClear src classes => Sys2Proof.Machine.execFltClear src classes s
  | .fltLogRead p => Sys2Proof.Machine.execFltLogRead p s
  | .fltPeerCfgWrite src port => Sys2Proof.Machine.execFltPeerCfgWrite src port s
  | .peerCompare src sig => Sys2Proof.Machine.execPeerCompare src sig s
  | .healthHalfBlock => Sys2Proof.Machine.execHealthHalfBlock s
  | .extest => Sys2Proof.Machine.execExtest s
  | .samplePreload cells => Sys2Proof.Machine.execSamplePreload cells s
  | .idcode => Sys2Proof.Machine.execIdcode s
  | .clamp => Sys2Proof.Machine.execClamp s
  | .highz => Sys2Proof.Machine.execHighz s
  | .bypass => Sys2Proof.Machine.execBypass s
  | .dbgHalt => Sys2Proof.Machine.execDbgHalt s
  | .dbgRelease => Sys2Proof.Machine.execDbgRelease s
  | .dbgReg write data => Sys2Proof.Machine.execDbgReg write data s
  | .tapReset => Sys2Proof.Machine.execTapReset s
  | .dbgCtrlHalt src => Sys2Proof.Machine.execDbgCtrlHalt src s
  | .dbgCtrlRelease src => Sys2Proof.Machine.execDbgCtrlRelease src s
  | .dbgCtrlReset src => Sys2Proof.Machine.execDbgCtrlReset src s
  | .falseStart r => Sys2Proof.Machine.execFalseStart r s
  | .atrTimeout => Sys2Proof.Machine.execAtrTimeout s
  | .otFall temp => Sys2Proof.Machine.execOtFall temp s

end Sys2Proof.Machine
end

