-- ==== Sys2Proof/Safety.lean ====
section
/-! DEFINITION. What counts as a safe run, and the conditions and accounts that the statements share. -/

namespace Sys2Proof.Machine

/-- A run is safe when none of its `n` steps faults or is refused. -/
def SafeRun (n : Nat) (s : State) : Prop := ∃ t, Host.Core.run Sys2Proof.core n s = .next t

/-! ### Requests -/

/-- A register write by the management path or the data path that reaches its unit and is not refused whole (R15, R19, R26,
R229). -/
def Dev.Takes (d : Dev) (src : Src) (a : Nat) (w : Word) : Prop :=
  (src.path = .mgmt ∨ src.path = .host) ∧ d.reaches src.path a = true
    ∧ d.regRefusal (regReq src.path a w src.posted) = .ok

/-- A write of one field that its unit takes, the register's other fields keeping their values. -/
def Dev.TakesField (d : Dev) (src : Src) (f : Fld) (v : Nat) : Prop := d.Takes src f.addr (d.fieldWord f v)

/-- The sender is told that its write was done: the answer OK, and LAST_ST on the management path (R333). -/
def Dev.told (d : Dev) (src : Src) (a : Nat) : Dev :=
  (if src.path.isMgmt then d.lastSt .ok a false else d).answer [.ok]

/-- R35 does not refuse the sender's change of a field: nobody of the other side has set it in this block, or the sender's side
owns it. -/
def Dev.MaySet (d : Dev) (src : Src) (f : Fld) : Prop :=
  d.splitOf f.addr (d.fieldKey f.addr f.lo) src.path.side ≠ .refused

/-! ### Records -/

/-- The registers in which events are recorded: HCP, MEM, FLT, and BLOCK_STICKY of every block, and the trap
counter. -/
def recReg (a : Nat) : Bool :=
  decide (0x3000 ≤ a ∧ a < 0x3800) || decide (0x6800 ≤ a ∧ a < 0x7000) || decide (a % 0x400 = 0x3F8)
    || decide (a = F.cueCntTrap.addr)

/-! ### What a command leaves -/

/-- The command answers a next state that has the queue as it was, and a device with property `P`. -/
def Leaves (c : Instr) (s : State) (P : Dev → Prop) : Prop := ∃ t, exec c s = .next t ∧ t.pending = s.pending ∧ P t.dev

/-- `e` keeps every register of `d` but those of the list and those in which events are recorded. -/
def Dev.KeepsRegs (d e : Dev) (l : List Nat) : Prop := ∀ a, a ∉ l → recReg a = false → e.reg a = d.reg a

/-! ### Host commands -/

/-- The acknowledged command `c` stands at the front of the host's input stream, ready to run, and no write or FLUSH comes right
behind it (R218, R220). -/
def Dev.Fronts (d : Dev) (c : HostCmd) (opc : Nat) (tag : Fin 16) (rest : List HostItem) : Prop :=
  d.hcp.stream = .cmd c :: rest ∧ c.opc = opc ∧ c.tag = tag.val ∧ c.post = false ∧ d.tagHeld tag = true
    ∧ d.hcp.ledgerReq = none ∧ d.coreOn = true ∧ ∀ i, rest.head? = some i → ∃ b, i = .cmd b

/-- The front command has left the stream with its response behind the others (R222). -/
def Dev.responds (d : Dev) (tag : Nat) (rest : List HostItem) (st : Status) (val0 : Word := 0) (val1 : Word64 := 0)
    (flags : Nat := 0) : Dev :=
  { d with hcp := { d.hcp with
      stream := rest, exec := d.hcp.exec &&& ~~~tagBit tag, rsp := d.hcp.rsp ++ [⟨1, tag, st.code, flags, val0, val1⟩] } }

/-! ### Instructions of a cue thread -/

/-- `e` is `d` but for the cue threads; there thread `th` is `y`, and every other thread is as in `d`. -/
def Dev.OnlyThread (d e : Dev) (th : Fin 16) (y : Thread) : Prop :=
  e = { d with cue := { d.cue with threads := e.cue.threads } } ∧ e.thread th = y ∧ ∀ m, m ≠ th.val → e.thread m = d.thread m

/-- Thread `th` can issue, the words `w` and `e` of an instruction of opcode `op` stand at its PC, and no register that the
instruction reads or writes is pending; a swarm operation finds the thread's slot free (R179, R182, R183, R188, R189). -/
def Dev.Issues (d : Dev) (th : Fin 16) (op : Nat) (w e : Word) : Prop :=
  d.canIssue th = true ∧ d.found th = .ok (w, e) ∧ opcodeOf w = op
    ∧ ∀ o, (d.thread th).outst = some o → isSwarm w = false ∧ o.rd ∉ gRegs w

end Sys2Proof.Machine
end

