-- ==== Sys2Proof/Certificates/Slice0/Obligations.lean ====
section
/-! DEFINITION. The statements about the model: what each command does from the states in which the manual gives it its
effect, the frames that its equation gives, the machine's invariants, and how waiting commands are served. -/

open Sys2Proof Sys2Proof.Machine

/-! ### The queue, the interface, reset -/

/-- A step runs the command at the front of the queue on the rest of the queue. -/
def Obligations.StepRunsFrontCommand : Prop := ∀ (c : Instr) (s : State), step { s with pending := c :: s.pending } = exec c s

/-- On an empty queue one XI cycle passes (the model's choice, log 3): house time and its fraction take HT_INCR (R54), and nothing
happens before house time counts.
The waiting commands are served first in, first out, and none is ever dropped or refused: n steps run the first n. -/
def Obligations.EmptyQueueAndOrder : Prop :=
  (∀ (s : State), s.pending = [] → ∃ t, step s = .next t ∧ t.pending = []
    ∧ (s.dev.time.counting = false → t = s)
    ∧ (s.dev.time.counting = true →
        t.dev.time.ht.toNat * 2 ^ 32 + t.dev.time.frac.toNat
          = (s.dev.time.ht.toNat * 2 ^ 32 + s.dev.time.frac.toNat + s.dev.time.incr.toNat) % 2 ^ 96
        ∧ t.dev.mem = s.dev.mem ∧ t.dev.cue = s.dev.cue ∧ t.dev.swm = s.dev.swm ∧ t.dev.hcp = s.dev.hcp))
  ∧ (∀ (s : State) (n : Nat), SafeRun n s ∧ ∀ t, Host.Core.run Sys2Proof.core n s = .next t → t.pending = s.pending.drop n)

/-- Every step keeps the canonical form of memory. -/
def Obligations.MemoryStaysCanonical : Prop :=
  ∀ (s t : State), step s = .next t → Memory.wf s.dev.mem.bytes = true → Memory.wf t.dev.mem.bytes = true

/-- The fuses only move forward (R410, R413): while every pending or confirmed transition aims at a later state, each step keeps it so,
never lowers the life-cycle state, and never mends a blown WIPED or key fuse. -/
def Obligations.FusesOnlyForward : Prop :=
  ∀ (s t : State), step s = .next t →
    (∀ x, s.dev.sys.lcPend = some x ∨ s.dev.sys.lcGo = some x → s.dev.sys.lc.toNat < x.toNat) →
    (∀ x, t.dev.sys.lcPend = some x ∨ t.dev.sys.lcGo = some x → t.dev.sys.lc.toNat < x.toNat)
    ∧ s.dev.sys.lc.toNat ≤ t.dev.sys.lc.toNat
    ∧ (∀ i, s.dev.sys.wiped.getLsbD i = true → t.dev.sys.wiped.getLsbD i = true)
    ∧ (s.dev.sys.keysOff = true → t.dev.sys.keysOff = true)

/-- The state after reset: no command waits, house time 0 is held, the life-cycle state is MANUFACTURE with no transition under way,
every array is being wiped (R256), every thread is STOPPED (Table 5.1), memory is canonical, HT_INCR is nominal (R54), the power-on
cause is set (Table 12.6), and the AON and CORE registers of the tables show their reset values. -/
def Obligations.ResetState : Prop :=
  State.reset.pending = [] ∧ State.reset.dev.now = 0 ∧ State.reset.dev.time.counting = false
  ∧ State.reset.dev.time.incr.toNat = 128 * 2 ^ 32
  ∧ State.reset.dev.sys.lc = 0 ∧ State.reset.dev.sys.lcPend = none ∧ State.reset.dev.sys.lcGo = none
  ∧ State.reset.dev.mem.wiping = 0x1FFF ∧ Memory.wf State.reset.dev.mem.bytes = true
  ∧ (∀ th, State.reset.dev.thread th = Thread.zero) ∧ (∀ a, State.reset.dev.reg a = regReset a)
  ∧ State.reset.dev.reg F.sysRstCausePor.addr = 1 ∧ State.reset.dev.get F.pwrCtrlLimit = 2
  ∧ State.reset.dev.get F.pwrGuard = 0x32 ∧ State.reset.dev.get F.pwrStatusState = 0

/-- A lone write of a register whose only field is RW, taken by its unit: the register takes the word, no other register or byte
changes, and the path becomes the field's last setter if the value is another (R33, R35).
A register write that its unit refuses whole, or that does not reach its unit: an acknowledged one changes only its sender's
account and, from DOZE and NAP, asks for a wake (R15, R19, R26). -/
def Obligations.RegisterWrites : Prop :=
  (∀ (s : State) (src : Src) (w : Word) (f : Fld), f ∈ [F.htSetLo, F.htSetHi] →
    s.dev.Takes src f.addr w → (s.dev.reg f.addr ≠ w → s.dev.MaySet src f) →
    Leaves (.registerWrite [regReq src.path f.addr w src.posted]) s fun e =>
      e.reg f.addr = w ∧ e.out.status = [.ok] ∧ s.dev.KeepsRegs e [f.addr]
      ∧ (s.dev.reg f.addr ≠ w → e.setter (f.addr * 32) = src.path.rank + 1)
      ∧ e.mem = s.dev.mem ∧ e.cue = s.dev.cue ∧ e.time = s.dev.time)
  ∧ (∀ (s : State) (p : Path) (a : Nat) (w : Word), p = .mgmt ∨ p = .host → isReg a = true →
    let r := regReq p a w false
    (s.dev.reaches p a = true → (s.dev.regRefusal r).isError = true → exec (.registerWrite [r]) s = .next { s with
        dev := (if p = .mgmt then s.dev.lastSt (s.dev.regRefusal r) a false else s.dev).answer [s.dev.regRefusal r] })
    ∧ (s.dev.reaches .host a = false → exec (.registerWrite [regReq .host a w false]) s = .next { s with
        dev := (s.dev.requestWake WakeCode.qcs).answer [.ebusy] })
    ∧ (s.dev.sys.phase ≠ .awaitXi → s.dev.served a = false → exec (.registerWrite [regReq .mgmt a w false]) s = .next { s with
        dev := ((s.dev.requestWake WakeCode.twoWire).lastSt .ebusy a false).answer [.ebusy] }))

/-- Two requests of one ECLK cycle for one field: with different values the management path's wins, and the other changes nothing and
answers ECONFLICT, recorded in STICKY where it was posted (R36, R37); with equal values both succeed (R38). -/
def Obligations.RequestsOfOneCycle : Prop :=
  ∀ (s : State) (v w : Word) (posted : Bool) (f : Fld), f ∈ [F.htSetLo, F.htSetHi] →
    s.dev.Takes ⟨.mgmt, false⟩ f.addr w → s.dev.Takes ⟨.host, posted⟩ f.addr v →
    Leaves (.registerWrite [regReq .host f.addr v posted, regReq .mgmt f.addr w false]) s fun e =>
      e.reg f.addr = w ∧ s.dev.KeepsRegs e [f.addr]
      ∧ (v = w → e.out.status = [.ok, .ok])
      ∧ (v ≠ w → e.out.status = [.econflict, .ok] ∧ e.get (F.stickyConfSrc 0x0800) = 2
          ∧ (posted = true → e.on (F.stickyConflict 0x0800) = true))

/-- A read of a counter: the word is the register's, then every field of it reads 0; nothing else of the device changes (R10).
BLOCK_APPLY: APPLY gives every APPLY-point field of the block its shadow as applied value, and DISCARD gives every such shadow its
applied value back; fields of other points, other blocks and other state stay, but for the sender's account (R41, R53). -/
def Obligations.CountersAndShadows : Prop :=
  (∀ (s : State) (p : Path) (a : Nat), isReg a = true → a % 4 = 0 → (regFields a).any (fun f => decide (f.acc = .rc)) = true →
    s.dev.reaches p a = true →
    ∃ e : Dev, exec (.counterReadClear p a) s = .next { s with dev := e.answer [] [s.dev.reg a] }
      ∧ e = { s.dev with regs := e.regs } ∧ (∀ f ∈ regFields a, bitsOf (e.reg a) f.lo f.w = 0) ∧ ∀ b, b ≠ a → e.reg b = s.dev.reg b)
  ∧ (∀ (s : State) (src : Src) (blk : Nat), blk % 0x400 = 0 → blk < 0x7400 →
    let d := s.dev
    let c := blk + 0x3FC
    let staged (a : Nat) (f : Field) : Prop := f ∈ regFields a ∧ f.acc = .rws .apply
    (d.Takes src c 1 → ∃ e : Dev, exec (.apply src blk) s = .next { s with dev := e.told src c }
      ∧ e = { d with applied := e.applied }
      ∧ ∀ a f, staged a f → e.ap ⟨a, f.lo, f.w⟩ = if blockBase a = blk then d.get ⟨a, f.lo, f.w⟩ else d.ap ⟨a, f.lo, f.w⟩)
    ∧ (d.Takes src c 2 → ∃ e : Dev, exec (.discard src blk) s = .next { s with dev := e.told src c }
      ∧ e = { d with regs := e.regs } ∧ (∀ a, blockBase a ≠ blk → e.reg a = d.reg a)
      ∧ ∀ a f, staged a f → blockBase a = blk → e.get ⟨a, f.lo, f.w⟩ = d.ap ⟨a, f.lo, f.w⟩))

/-! ### House time, reference, timestamper (chapter 2) -/

/-- A read of HT_NOW_LO gives the low word of house time and captures the six views of that instant in the reading path's snapshot, and in
no other (R56, R58, R59); a read of HT_TS_LO takes the oldest log entry, with its high word, source, edge and VALID latched, or finds
none and gives 0 (R80). -/
def Obligations.TimeReads : Prop :=
  ∀ (s : State) (p : Path), s.dev.reaches p F.htNowLo.addr = true →
    let d := s.dev
    let t := d.now
    let f := d.std
    let into := t * f.b % f.a
    let line := into * f.n / f.a
    let views : Snap := ⟨d.time.ht, BitVec.ofNat 64 (t / d.period), BitVec.ofNat 64 (t * f.b / f.a),
      BitVec.ofNat 32 (line + 1 + if f.a ≤ 2 * into then 2 ^ 20 else 0), BitVec.ofNat 32 ((into * f.n - line * f.a) / (f.b * f.n)),
      BitVec.ofNat 32 (if d.get F.refCtrlStd ∈ [1, 2, 5, 8] then
        t * f.b / f.a % 5 + 128 + t % (5 * f.a / f.b) / d.period * 65536 else 0)⟩
    (∃ e : Dev, exec (.htNowLoRead p) s = .next { s with dev := e.answer [] [d.time.ht.truncate 32] }
      ∧ e = { d with time := { d.time with snaps := e.time.snaps } } ∧ e.snap p = views
      ∧ ∀ q : Path, q.rank ≠ p.rank → e.snap q = d.snap q)
    ∧ (∀ x rest, d.time.logFifo = x :: rest → ∃ e : Dev, exec (.htTsLoRead p) s = .next { s with dev := e.answer [] [BitVec.ofNat 32 x.ts] }
      ∧ e = { d with regs := e.regs, time := { d.time with logFifo := rest } }
      ∧ e.get F.htTsHi = x.ts / 2 ^ 32 % 2 ^ 32 ∧ e.get F.htTsSrcSrc = x.src % 32 ∧ e.on F.htTsSrcEdge = x.falling
      ∧ e.on F.htTsSrcValid = true ∧ d.KeepsRegs e [F.htTsHi.addr, F.htTsSrcSrc.addr])
    ∧ (d.time.logFifo = [] → exec (.htTsLoRead p) s = .next { s with
        dev := ((d.setReg F.htTsHi.addr 0).setReg F.htTsSrcSrc.addr 0).answer [] [0] })

/-- An edge on a pin that the timestamper takes: one at a full FIFO, or fewer than 204.8 tk after the last accepted edge of its input, is
dropped and counted in HT_TS_DROP, and the FIFOs keep their entries (R80); any other joins the FIFO of its route with its timestamp
(R78, R79). An edge that the timestamper does not take changes the pin's level alone.
16 ECLK after OE of a pin fell the pin's level is the level at its ball, and its edges count again (R81). -/
def Obligations.TimestamperTakesEdges : Prop :=
  (∀ (s : State) (pin : Fin 16) (falling : Bool) (phase : Fin 10),
    let d := s.dev
    let c := d.get F.htTsEdge / 4 ^ pin.val % 4
    let takes := d.time.counting = true ∧ (d.get F.htTsEn).testBit pin = true ∧ (c = 2 ∨ (c = 0 ∧ falling = false) ∨ (c = 1 ∧ falling = true))
      ∧ (d.get F.htGpOe).testBit pin = false ∧ d.time.gpSettle.getLsbD pin = false
    let ts := d.now + (2 * phase.val * d.time.incr.toNat + 10 * 2 ^ 32) / (20 * 2 ^ 32)
    let toStrike := (d.get F.htTsRouteGp).testBit pin
    let fifo := if toStrike then d.time.strikeFifo else d.time.logFifo
    let near := ∃ t, Tab.find d.time.lastEdge pin = some t ∧ 10 * ts < 10 * t + 2048
    let new : Stamp := ⟨ts, pin, falling, 16, true⟩
    let level (e : Dev) : Prop := ∀ k, e.time.gpLevel.getLsbD k = if k = pin.val then !falling else d.time.gpLevel.getLsbD k
    (takes → near ∨ 16 ≤ fifo.length → Leaves (.triggerEdge pin falling phase) s fun e =>
      e.time.logFifo = d.time.logFifo ∧ e.time.strikeFifo = d.time.strikeFifo ∧ e.time.lastEdge = d.time.lastEdge ∧ level e
      ∧ e.get F.htTsDrop = min 65535 (d.get F.htTsDrop + 1) ∧ d.KeepsRegs e [F.htTsDrop.addr] ∧ e.cue = d.cue)
    ∧ (takes → ¬ near → fifo.length < 16 → Leaves (.triggerEdge pin falling phase) s fun e =>
      e.time.strikeFifo = (if toStrike then d.time.strikeFifo ++ [new] else d.time.strikeFifo)
      ∧ e.time.logFifo = (if toStrike then d.time.logFifo else d.time.logFifo ++ [new])
      ∧ Tab.find e.time.lastEdge pin = some ts ∧ level e ∧ e.get F.htTsDrop = d.get F.htTsDrop)
    ∧ (¬ takes → Leaves (.triggerEdge pin falling phase) s fun e =>
      level e ∧ e = { d with time := { d.time with gpLevel := e.time.gpLevel } }))
  ∧ (∀ (s : State) (pin : Fin 16) (level : Bool),
    (s.dev.time.gpSettle.getLsbD pin = true → Leaves (.gpInputSettle pin level) s fun e =>
      (∀ k, e.time.gpLevel.getLsbD k = if k = pin.val then level else s.dev.time.gpLevel.getLsbD k)
      ∧ (∀ k, e.time.gpSettle.getLsbD k = (decide (k ≠ pin.val) && s.dev.time.gpSettle.getLsbD k))
      ∧ e = { s.dev with time := { s.dev.time with gpLevel := e.time.gpLevel, gpSettle := e.time.gpSettle } })
    ∧ (s.dev.time.gpSettle.getLsbD pin = false → exec (.gpInputSettle pin level) s = .next s))

/-- REF_CTRL.RUN: 1 begins ACQUIRE (R64); 0 enters FREE at once with no step of house time, clears ANCHORED only from ACQUIRE, and
treats a pending or waiting re-anchor as R82 says.
HT_CTRL.SET (R85): under HOST a label for the first alignment edge at least one block later; under NONE a re-anchor at the next 1 s
boundary at least one block later, to HT_SET in FREE, to the nearest value on the reference's grid in LOCKED, HOLDOVER and HOLD_LAPSED,
and waiting in ACQUIRE. -/
def Obligations.RunControlOfTime : Prop :=
  (∀ (s : State) (src : Src), s.dev.MaySet src F.refCtrlRun →
    let d := s.dev
    let b := (d.now + blockTk + secondTk - 1) / secondTk * secondTk
    let others (e : Dev) : Prop := d.KeepsRegs e [F.refCtrlRun.addr, F.refStatusState.addr] ∧ e.get F.refCtrlStd = d.get F.refCtrlStd
      ∧ e.get F.refCtrlTodSrc = d.get F.refCtrlTodSrc ∧ e.time.ht = d.time.ht ∧ e.mem = d.mem ∧ e.cue = d.cue
    (d.TakesField src F.refCtrlRun 1 → d.on F.refCtrlRun = false → Leaves (.refRunStart src) s fun e =>
      e.on F.refCtrlRun = true ∧ e.get F.refStatusState = 1 ∧ e.on F.refStatusGood = false ∧ e.ref.established = false
      ∧ e.ref.lastEdge = none ∧ others e)
    ∧ (d.TakesField src F.refCtrlRun 0 → d.on F.refCtrlRun = true → Leaves (.refRunStop src) s fun e =>
      e.on F.refCtrlRun = false ∧ e.get F.refStatusState = 0 ∧ e.on F.refStatusGood = false
      ∧ e.on F.refStatusAnchored = (d.on F.refStatusAnchored && decide (d.get F.refStatusState ≠ 1))
      ∧ (∀ r, d.ref.reanchor = some r → e.ref.reanchor = if r.requested then some r else none)
      ∧ (∀ v, d.ref.reanchor = none → d.ref.waitSet = some v → e.ref.reanchor = some ⟨(v : Int) - b, b, true⟩)
      ∧ others e))
  ∧ (∀ (s : State) (src : Src), s.dev.TakesField src F.htCtrl 1 →
    let d := s.dev
    let v := d.get F.htSetLo + 2 ^ 32 * d.get F.htSetHi
    let b := (d.now + blockTk + secondTk - 1) / secondTk * secondTk
    let err := if d.get F.refStatusState = 2 then d.phase else 0
    let f := d.std
    (d.get F.refCtrlTodSrc = 3 → Leaves (.htSet src) s fun e => e.ref.hostLabel = some (v, d.now + blockTk) ∧ e.regs = d.regs)
    ∧ (d.get F.refCtrlTodSrc = 0 → d.get F.refStatusState = 1 → Leaves (.htSet src) s fun e =>
        e.ref.waitSet = some v ∧ e.ref.reanchor = none ∧ e.on F.refStatusReanchorPend = true)
    ∧ (d.get F.refCtrlTodSrc = 0 → d.get F.refStatusState = 0 → Leaves (.htSet src) s fun e =>
        e.ref.reanchor = some ⟨(v : Int) - b, b, true⟩ ∧ e.on F.refStatusReanchorPend = true ∧ e.time = d.time)
    ∧ (d.get F.refCtrlTodSrc = 0 → 2 ≤ d.get F.refStatusState → f.b = 1 → Leaves (.htSet src) s fun e =>
        ∃ δ k : Int, e.ref.reanchor = some ⟨(v : Int) - b + δ, b, true⟩ ∧ -(f.a : Int) < 2 * δ ∧ 2 * δ ≤ f.a
          ∧ (v : Int) + δ - b - err = k * f.a ∧ e.on F.refStatusReanchorPend = true))

/-- The reference is lost (R63, R83, R496): the front end searches, and a re-anchor that the loop decided is cancelled; from LOCKED the
loop enters HOLDOVER with REF_CNT_HOLD and FLT_EVENT.REF_LOSS. A holdover whose estimate exceeds REF_HOLD_LIM lapses (R72).
An edge of PPS_IN as reference (code 13): within the window around its prediction it becomes the last accepted edge and REF_PHASE
takes grid less instant in (−A/2, A/2] (R60, R61); outside, or absent, it is an anomaly, counted once per unit, and REF_PHASE stays. -/
def Obligations.ReferenceLossAndAlignment : Prop :=
  (∀ (s : State), s.dev.time.counting = true →
    let d := s.dev
    let event (e : Dev) (n : Nat) : Prop :=
      if d.coreOff then e.flt.aonEvents.getLsbD n = true else (e.reg F.fltEventStateSplit.addr).getLsbD n = true
    (d.on F.refCtrlRun = true → d.ref.searching = false → Leaves .referenceLost s fun e =>
      e.ref.searching = true ∧ e.ref.lastEdge = none ∧ e.ref.established = false ∧ e.get F.refCntAnom = d.get F.refCntAnom
      ∧ (∀ r, d.ref.reanchor = some r → e.ref.reanchor = if r.requested then some r else none)
      ∧ (d.get F.refStatusState = 2 → e.get F.refStatusState = 3 ∧ e.on F.refStatusGood = true
          ∧ e.get F.refCntHold = min (2 ^ 32 - 1) (d.get F.refCntHold + 1) ∧ event e 1)
      ∧ (d.get F.refStatusState = 1 → d.ref.fromHold = false → e.get F.refStatusState = 1 ∧ event e 1))
    ∧ (∀ t : Int, d.get F.refStatusState = 3 → d.ref.holdAt = some t → Leaves .holdLapse s fun e =>
      e.get F.refStatusState = 4 ∧ e.on F.refStatusGood = false ∧ event e 2 ∧ e.time.incr = d.time.incr
      ∧ e.time.ht = BitVec.ofNat 64 (max d.now (t + ((2000 * d.get F.refHoldLim + 1) * blockTk : Nat)).toNat)))
  ∧ (∀ (s : State) (x : RefEdge) (last : Int), s.dev.time.counting = true → s.dev.on F.refCtrlRun = true → s.dev.get F.refCtrlStd = 13 →
    s.dev.ref.searching = false → s.dev.ref.unitAnom = false → s.dev.ref.lastEdge = some last →
    let d := s.dev
    let gap := (x.at' : Int) - last
    let steps := max 1 ((2 * gap + secondTk) / (2 * secondTk)).toNat
    let off := (gap - (steps * secondTk : Nat)).natAbs
    let within := 4 * off ≤ min (4 * d.get F.refWin) secondTk ∧ x.absent = false
    (within → x.bad = false → Leaves (.alignmentEdge x) s fun e =>
      e.ref.lastEdge = some (x.at' : Int)
      ∧ (∃ k : Int, e.phase = k * secondTk - ((x.at' : Int) - d.refDly) ∧ -(secondTk : Int) < 2 * e.phase ∧ 2 * e.phase ≤ secondTk)
      ∧ e.get F.refCntAnom = d.get F.refCntAnom)
    ∧ (¬ within → Leaves (.alignmentEdge x) s fun e =>
      e.ref.lastEdge = some last ∧ e.get F.refPhase = d.get F.refPhase
      ∧ e.get F.refCntAnom = min (2 ^ 32 - 1) (d.get F.refCntAnom + 1)))

/-- The re-anchor at B: house time becomes B + Δ, the next sample edge is the least m·P at or after that and P/2, ANCHORED is 1,
REANCHOR_PEND and SLEWING are 0, and the step is counted; it raises FLT_EVENT.REANCHOR but for the first after a reset (R69, R70). A
leap second moves OFS by one, sets DONE and clears DIR (R74). -/
def Obligations.TimeSteps : Prop :=
  ∀ (s : State), s.dev.time.counting = true →
    let d := s.dev
    (∀ r, d.ref.reanchor = some r → Leaves .reAnchor s fun e =>
      let t := ((r.at' : Int) + r.delta).toNat
      e.time.ht = BitVec.ofNat 64 t
      ∧ (∃ m, e.time.smp = BitVec.ofNat 64 (m - 1) ∧ t + d.period / 2 ≤ m * d.period
          ∧ ∀ n, t + d.period / 2 ≤ n * d.period → m ≤ n)
      ∧ e.on F.refStatusAnchored = true ∧ e.on F.refStatusReanchorPend = false ∧ e.on F.refStatusSlewing = false
      ∧ e.ref.reanchor = none ∧ e.get F.refCntReanchor = min (2 ^ 32 - 1) (d.get F.refCntReanchor + 1)
      ∧ (d.coreOff = false →
          (e.reg F.fltEventStateSplit.addr).getLsbD 3
            = (d.ref.anchoredOnce || (d.reg F.fltEventStateSplit.addr).getLsbD 3)))
    ∧ (∀ dir, d.get F.htLeapCtrlDir = dir → dir = 1 ∨ dir = 2 → Leaves .leapSecond s fun e =>
      e.get F.htUtc = (d.get F.htUtc + if dir = 1 then 1 else 65535) % 65536
      ∧ e.on F.htLeapCtrlDone = true ∧ e.get F.htLeapCtrlDir = 0
      ∧ e.time.ht = BitVec.ofNat 64 (max d.now ((d.get F.htLeapLo + 2 ^ 32 * d.get F.htLeapHi) * secondTk))
      ∧ (d.reach ((d.get F.htLeapLo + 2 ^ 32 * d.get F.htLeapHi) * secondTk)).KeepsRegs e [F.htUtc.addr, F.htLeapCtrlDir.addr])

/-- A valid LTC frame, in sync, at play speed, forwards and one frame after the previous valid one (where none was valid in the last
100 ms, after the last one read forwards: the model's choice, log 8), gives its time address (R75); any other gives none. An edge of PPS_IN of the selected polarity is the instant of a waiting sentence, which it uses up: the label is measured,
and where it is accepted the sentence's offset goes to HT_UTC (R77). -/
def Obligations.LabelsTaken : Prop :=
  ∀ (s : State), s.dev.time.counting = true →
    let d := s.dev
    (∀ (l : LtcIn),
      let w := l.word
      let digits (lo n hi m : Nat) : Nat := (w >>> lo).toNat % 2 ^ n + 10 * ((w >>> hi).toNat % 2 ^ m)
      let hms := (digits 48 4 56 2, digits 32 4 40 3, digits 16 4 24 3, digits 0 4 8 2)
      let now := (BitVec.ofNat 64 (max d.now l.start)).toNat
      let recent := ∃ t, d.ref.ltcAt = some t ∧ now ≤ t + 100 * blockTk
      ∀ prev, (recent → prev = d.ref.ltcPrev) → (¬ recent → prev = d.ref.ltcLast) →
      let good := (w >>> 64).toNat = 0xBFFC ∧ l.speedOk = true ∧ l.reverse = false
        ∧ ∃ q, prev = some q ∧ ltcNext l.rate (w.getLsbD 10) q = hms
      Leaves (.ltcInFrame l) s fun e =>
        e.time.ht = BitVec.ofNat 64 (max d.now l.start)
        ∧ (good → e.get F.refLtcTimeHours = hms.1 % 2 ^ F.refLtcTimeHours.w ∧ e.get F.refLtcTimeMinutes = hms.2.1 % 2 ^ F.refLtcTimeMinutes.w
            ∧ e.get F.refLtcTimeSeconds = hms.2.2.1 % 2 ^ F.refLtcTimeSeconds.w ∧ e.get F.refLtcTimeFrames = hms.2.2.2 % 2 ^ F.refLtcTimeFrames.w
            ∧ e.on F.refLtcFlagsDrop = w.getLsbD 10 ∧ e.ref.ltcAt = some e.now)
        ∧ (¬ good → e.reg F.refLtcTimeHours.addr = d.reg F.refLtcTimeHours.addr ∧ e.ref.ltcAt = d.ref.ltcAt))
    ∧ (∀ (falling : Bool) (phase : Fin 10),
      let t : Int := (d.now + (2 * phase.val * d.time.incr.toNat + 10 * 2 ^ 32) / (20 * 2 ^ 32) : Nat)
      (d.on F.refCtrlPpsPol = falling → Leaves (.ppsEdge falling phase) s fun e =>
        e.ref.lastPps = some t ∧ e.ref.sentence = none ∧ e.time = d.time
        ∧ (∀ q, d.ref.sentence = some q → d.get F.refCtrlTodSrc = 1 →
            let x := (q.sec * secondTk - (t - d.ppsDly)) * d.std.b
            4 * (x - roundDiv x d.std.a * d.std.a).natAbs ≤ d.std.a → e.get F.htUtc = (q.ofs % 65536).toNat))
      ∧ (d.on F.refCtrlPpsPol ≠ falling → exec (.ppsEdge falling phase) s = .next s))

/-! ### Cue engine (chapter 5) -/

/-- Table 5.5: ADD, SUB and MUL write rd and their flags, and the PC moves on; the rest of the device keeps what the fetch left.
Table 5.5: AND, OR, XOR, SHL and SHR. A shift takes the low five bits of the second operand; C is the last bit shifted out.
CMP writes flags alone, on general registers or, with F, on time registers; LDI writes rd and no flag, from the extension
word with X. -/
def Obligations.CueComputes : Prop :=
  (∀ (s : State) (th : Fin 16) (w e : Word),
    let x := s.dev.thread th
    let rd := bitsOf w 22 4
    let a := x.rg (bitsOf w 18 4)
    let b : Word := if w.getLsbD 17 then (w.setWidth 16).signExtend 32 else x.rg (bitsOf w 12 4)
    let sum : Thread := { x.setG rd (a + b) with
      fz := decide (a + b = 0), fn := (a + b).msb, fc := decide (2 ^ 32 ≤ a.toNat + b.toNat), pc := x.pc + 4 }
    let difference : Thread := { x.setG rd (a - b) with
      fz := decide (a - b = 0), fn := decide (a.toInt < b.toInt), fc := decide (a.toNat < b.toNat), pc := x.pc + 4 }
    let p : BitVec 64 := a.signExtend 64 * b.signExtend 64
    let r : Word := if w.getLsbD 16 then p.extractLsb' 32 32 else p.extractLsb' 0 32
    let product : Thread := { x.setG rd r with fz := decide (r = 0), fn := r.msb, pc := x.pc + 4 }
    (s.dev.Issues th 0x04 w e → exec (.add th) s = .next { s with dev := (s.dev.noteIssue th).setThread th sum })
    ∧ (s.dev.Issues th 0x05 w e → exec (.sub th) s = .next { s with dev := (s.dev.noteIssue th).setThread th difference })
    ∧ (s.dev.Issues th 0x06 w e → exec (.mul th) s = .next { s with dev := (s.dev.noteIssue th).setThread th product }))
  ∧ (∀ (s : State) (th : Fin 16) (w e : Word),
    let x := s.dev.thread th
    let rd := bitsOf w 22 4
    let a := x.rg (bitsOf w 18 4)
    let b : Word := if w.getLsbD 17 then (w.setWidth 16).signExtend 32 else x.rg (bitsOf w 12 4)
    let n := bitsOf b 0 5
    let logic (r : Word) : Thread := { x.setG rd r with fz := decide (r = 0), fn := r.msb, pc := x.pc + 4 }
    let shifted (r : Word) (out : Bool) : Thread := { logic r with fc := out }
    (s.dev.Issues th 0x07 w e → exec (.and th) s = .next { s with dev := (s.dev.noteIssue th).setThread th (logic (a &&& b)) })
    ∧ (s.dev.Issues th 0x08 w e → exec (.or th) s = .next { s with dev := (s.dev.noteIssue th).setThread th (logic (a ||| b)) })
    ∧ (s.dev.Issues th 0x09 w e → exec (.xor th) s = .next { s with dev := (s.dev.noteIssue th).setThread th (logic (a ^^^ b)) })
    ∧ (s.dev.Issues th 0x0A w e → exec (.shl th) s = .next { s with
        dev := (s.dev.noteIssue th).setThread th (shifted (a <<< n) (decide (n ≠ 0) && a.getLsbD (32 - n))) })
    ∧ (s.dev.Issues th 0x0B w e → exec (.shr th) s = .next { s with
        dev := (s.dev.noteIssue th).setThread th
          (shifted (if w.getLsbD 16 then a.sshiftRight n else a >>> n) (decide (n ≠ 0) && a.getLsbD (n - 1))) }))
  ∧ (∀ (s : State) (th : Fin 16) (w e : Word),
    let x := s.dev.thread th
    let a := x.rg (bitsOf w 18 4)
    let b : Word := if w.getLsbD 17 then (w.setWidth 16).signExtend 32 else x.rg (bitsOf w 12 4)
    let ta := x.rt (bitsOf w 18 2)
    let tb := x.rt (bitsOf w 12 2)
    let compared : Thread :=
      if w.getLsbD 16 then { x with fz := decide (ta = tb), fn := ta.slt tb, fc := ta.ult tb, pc := x.pc + 4 }
      else { x with fz := decide (a = b), fn := a.slt b, fc := a.ult b, pc := x.pc + 4 }
    let value : Word := if w.getLsbD 21 then e
      else if w.getLsbD 20 then (w.setWidth 16).signExtend 32 else (w.setWidth 16).zeroExtend 32
    let loaded : Thread := { x.setG (bitsOf w 22 4) value with pc := x.pc + (if w.getLsbD 21 then 8 else 4) }
    (s.dev.Issues th 0x0C w e → exec (.cmp th) s = .next { s with dev := (s.dev.noteIssue th).setThread th compared })
    ∧ (s.dev.Issues th 0x01 w e → exec (.ldi th) s = .next { s with dev := (s.dev.noteIssue th).setThread th loaded }))

/-- BR, BRC with the conditions of Table 5.3, and LOOP: offsets count words from the branching instruction; L and NL clear L.
CALL pushes the address after it while fewer than eight entries stand on the return stack, and RET takes the latest; with
eight entries, or none, they trap with STACK_OVF and STACK_UNF. -/
def Obligations.CueChangesFlow : Prop :=
  (∀ (s : State) (th : Fin 16) (w e : Word),
    let x := s.dev.thread th
    let dest (k : Int) : Nat := (((x.pc : Int) + 4 * k) % 2 ^ 32).toNat
    let code := bitsOf w 22 4
    let holds : Bool := match code with
      | 0 => x.fz
      | 1 => !x.fz
      | 2 => x.fn
      | 3 => !x.fn
      | 4 => x.fc
      | 5 => !x.fc
      | 6 => x.fn || x.fz
      | 7 => !(x.fn || x.fz)
      | 8 => x.fc || x.fz
      | 9 => !(x.fc || x.fz)
      | 10 => x.fl
      | _ => !x.fl
    let branched : Thread := { x with
      fl := x.fl && decide (code < 10), pc := if holds then dest (w.setWidth 22).toInt else x.pc + 4 }
    let count := x.rg code - 1
    let looped : Thread := { x.setG code count with pc := if count = 0 then x.pc + 4 else dest (w.setWidth 22).toInt }
    (s.dev.Issues th 0x10 w e → exec (.br th) s = .next { s with
        dev := (s.dev.noteIssue th).setThread th { x with pc := dest (w.setWidth 26).toInt } })
    ∧ (s.dev.Issues th 0x11 w e → exec (.brc th) s = .next { s with dev := (s.dev.noteIssue th).setThread th branched })
    ∧ (s.dev.Issues th 0x14 w e → exec (.loop th) s = .next { s with dev := (s.dev.noteIssue th).setThread th looped }))
  ∧ (∀ (s : State) (th : Fin 16) (w e : Word),
    let x := s.dev.thread th
    (s.dev.Issues th 0x12 w e → x.stack.length < 8 → exec (.call th) s = .next { s with
        dev := (s.dev.noteIssue th).setThread th { x with
          pc := (((x.pc : Int) + 4 * (w.setWidth 26).toInt) % 2 ^ 32).toNat, stack := (x.pc + 4) :: x.stack } })
    ∧ (∀ a rest, s.dev.Issues th 0x13 w e → x.stack = a :: rest → exec (.ret th) s = .next { s with
        dev := (s.dev.noteIssue th).setThread th { x with pc := a, stack := rest } })
    ∧ (s.dev.Issues th 0x12 w e → 8 ≤ x.stack.length →
        exec (.call th) s = .next { s with dev := (s.dev.noteIssue th).trap th Trap.stackOvf 0 })
    ∧ (s.dev.Issues th 0x13 w e → x.stack = [] →
        exec (.ret th) s = .next { s with dev := (s.dev.noteIssue th).trap th Trap.stackUnf 0 }))

/-- YIELD waits until the next sample edge; HALT makes the thread HALTED and, with HALTATTN, raises the cue-halt cause; TRAP traps
with cause SOFT and its code; a word that R183 does not allow, or a fetch that R182 refuses, traps with its cause.
A trap makes its thread TRAPPED with its cause and code, and changes nothing else of any thread, no memory byte and no time;
what it counts and raises stands in registers and the fault state. -/
def Obligations.CueStopsAndTraps : Prop :=
  (∀ (s : State) (th : Fin 16) (w e : Word),
    let x := s.dev.thread th
    let p := s.dev.period
    (s.dev.Issues th 0x1F w e → exec (.yield th) s = .next { s with
        dev := (s.dev.noteIssue th).setThread th { x with
          state := .waiting, wait := Wait.yield, target := (s.dev.now / p + 1) * p, pc := x.pc + 4 } })
    ∧ (s.dev.Issues th 0x3D w e → exec (.halt th) s = .next { s with
        dev := ((s.dev.noteIssue th).setThread th { x with state := .halted, wait := 0, pc := x.pc + 4 }).whenB
          (s.dev.on (F.cueThCfgHaltattn th)) fun d => d.cause Cause.cueHalt })
    ∧ (s.dev.Issues th 0x3E w e →
        exec (.trap th) s = .next { s with dev := (s.dev.noteIssue th).trap th Trap.soft (bitsOf w 0 16) })
    ∧ (∀ c code, s.dev.canIssue th = true → s.dev.found th = .error (c, code) →
        exec (.illegalOpcode th) s = .next { s with dev := (s.dev.noteIssue th).trap th c code }))
  ∧ (∀ (d : Dev) (th : Fin 16) (cause code : Nat),
    let t := d.trap th cause code
    t.thread th = { d.thread th with state := .trapped, wait := 0, cause := cause, code := code % 2 ^ 16 }
    ∧ (∀ m, m ≠ th.val → t.thread m = d.thread m)
    ∧ t.mem = d.mem ∧ t.time = d.time ∧ t.swm = d.swm ∧ t.alc = d.alc ∧ t.hcp = d.hcp ∧ t.outp = d.outp ∧ t.tcu = d.tcu)

/-- What issuing an instruction does besides the instruction itself: the thread is the last to issue, its instruction's cycles begin and
every other thread's count off one (R179; that they count in issues is the model's choice, log 24), and the fetches leave their records
(R240); no thread, no byte of memory and no other block changes.
A thread that cannot issue does nothing; of the threads that have ended their cycles at most one can, the first READY one after the
last issuer (R179).
An instruction that needs the pending register of an outstanding swarm operation waits with reason INTERLOCK, and a second
swarm operation waits with reason OUTSTANDING: nothing but the thread's state and reason changes. -/
def Obligations.CueFetchAndInterlock : Prop :=
  (∀ (s : State) (th : Fin 16) (w e : Word), s.dev.found th = .ok (w, e) →
    let d := s.dev.noteIssue th
    d.cue = { s.dev.cue with last := th, busy := d.cue.busy } ∧ d.busy th = s.dev.cyclesOf th w - 1
    ∧ (∀ m, m < 16 → m ≠ th.val → d.busy m = s.dev.busy m - 1) ∧ (∀ a, d.byte a = s.dev.byte a) ∧ (∀ l, d.tag l = s.dev.tag l)
    ∧ (∀ a, recReg a = false → d.reg a = s.dev.reg a) ∧ d.time = s.dev.time ∧ d.ref = s.dev.ref ∧ d.swm = s.dev.swm ∧ d.alc = s.dev.alc ∧ d.hcp = s.dev.hcp
    ∧ d.outp = s.dev.outp ∧ d.tcu = s.dev.tcu ∧ d.twt = s.dev.twt ∧ d.twc = s.dev.twc ∧ d.ua0 = s.dev.ua0
    ∧ d.ua1 = s.dev.ua1 ∧ d.pwr = s.dev.pwr ∧ d.sys = s.dev.sys ∧ d.upd = s.dev.upd ∧ d.dbg = s.dev.dbg)
  ∧ (∀ (s : State) (th : Fin 16), s.dev.canIssue th = false →
    exec (.add th) s = .next s ∧ exec (.ld th) s = .next s ∧ exec (.illegalOpcode th) s = .next s)
  ∧ (∀ (d : Dev) (a b : Fin 16), d.canIssue a = true → d.canIssue b = true → d.busy a = 0 → d.busy b = 0 → a = b)
  ∧ (∀ (s : State) (th : Fin 16) (w e : Word) (o : Outst) (c : Instr) (op : Nat),
    (c, op) ∈ [(.add th, 0x04), (.sub th, 0x05), (.mul th, 0x06), (.and th, 0x07), (.or th, 0x08), (.xor th, 0x09),
      (.shl th, 0x0A), (.shr th, 0x0B), (.cmp th, 0x0C), (.ldi th, 0x01), (.ld th, 0x02), (.st th [], 0x03), (.von th, 0x20),
      (.voff th, 0x21), (.vset th, 0x22), (.vramp th, 0x23), (.vkill th, 0x24), (.valloc th, 0x25), (.vfree th, 0x26),
      (.modset th, 0x27), (.busset th, 0x28), (.hostmsg th, 0x32)] →
    s.dev.canIssue th = true → s.dev.found th = .ok (w, e) → opcodeOf w = op →
    (s.dev.thread th).outst = some o → (0x20 ≤ op ∧ op ≤ 0x28 ∨ o.rd ∈ gRegs w) →
    exec c s = .next { s with dev := s.dev.setThread th { s.dev.thread th with
      state := .waiting, wait := if 0x20 ≤ op ∧ op ≤ 0x28 then Wait.outstanding else Wait.interlock } })

/-- AT sets the cursor to its target and AFTER adds v × unit; a target behind house time sets L and counts, else L is 0; where the
release instant, LEAD before the target or with E the target, has come, the thread goes on, else it waits for it.
A wait ends: a timed one at its release instant, with L set and counted where house time is past the target; YIELD at its sample
edge; WAITTRIG and WAITSIG as their pseudocode says; an interlock once the slot is free; a wait for memory once a page program in
the flash has ended and an erase is suspended. -/
def Obligations.CueTimedWaitsAndEnds : Prop :=
  (∀ (s : State) (th : Fin 16) (w e : Word),
    let x := s.dev.thread th
    let now := s.dev.now
    let unit (u : Nat) : Nat := [1, s.dev.period, blockTk, secondTk].getD u 0
    let v : Int := if w.getLsbD 25 then (w.setWidth 16).toInt else (x.rg (bitsOf w 12 4)).toInt
    let waits (reason : Nat) (exact' : Bool) (c : Word64) (t : State) : Prop :=
      let lead := if exact' then 0 else 65536 * s.dev.get (F.cueThCfgLead th)
      let late := decide (c.toNat < now)
      let y : Thread := { x with cursor := c, fl := late, pc := x.pc + 4 }
      t.pending = s.pending
        ∧ ((s.dev.noteIssue th).whenB late fun d => d.bump F.cueCntLate).OnlyThread t.dev th
            (if c.toNat ≤ now + lead then y else { y with state := .waiting, wait := reason, target := c.toNat - lead })
    (s.dev.Issues th 0x18 w e →
      ∃ t, exec (.at th) s = .next t ∧ waits Wait.at' (w.getLsbD 23) (x.rt (bitsOf w 24 2)) t)
    ∧ (s.dev.Issues th 0x19 w e →
      ∃ t, exec (.after th) s = .next t
        ∧ waits Wait.after' (w.getLsbD 22) (x.cursor + BitVec.ofInt 64 (v * unit (bitsOf w 23 2))) t))
  ∧ (∀ (s : State) (th : Fin 16),
    let x := s.dev.thread th
    s.dev.coreOn = true → s.dev.on F.dbgStatusHalted = false → x.state = .waiting → x.errTrap = none →
    let at' (t : Nat) : Nat := (BitVec.ofNat 64 (max s.dev.now t)).toNat
    let late := decide (x.cursor.toNat < at' x.target)
    let ready : Thread := { x with state := .ready, wait := 0 }
    let taken : Thread := { (ready.setT (bitsOf x.winst 24 2) (BitVec.ofNat 64 x.latch.ts)).setG (bitsOf x.winst 20 4)
        (BitVec.ofNat 32 x.latch.src) with
      latch := { x.latch with full := false }, trigTs := BitVec.ofNat 64 x.latch.ts, fz := false }
    let got := x.sigWord &&& x.winst.setWidth 16
    let ended : Thread := { ready.setG (bitsOf x.winst 22 4) (got.setWidth 32) with
      sigWord := x.sigWord &&& ~~~got, fz := decide (got = 0) }
    let gives (d : Dev) (y : Thread) : Prop := exec (.waitRelease th) s = .next { s with dev := d.setThread th y }
    (x.wait = Wait.at' ∨ x.wait = Wait.after' →
      gives ((s.dev.reach x.target).whenB late fun d => d.bump F.cueCntLate) { ready with fl := late || x.fl })
    ∧ (x.wait = Wait.yield → gives (s.dev.reach x.target) ready)
    ∧ (x.wait = Wait.trig → x.latch.full = true → gives s.dev taken)
    ∧ (x.wait = Wait.trig → x.latch.full = false → x.winst.getLsbD 19 = true →
        gives (s.dev.reach x.cursor.toNat) { ready.setG (bitsOf x.winst 20 4) 0xFFFFFFFF with fz := true })
    ∧ (x.wait = Wait.sig → got ≠ 0 → gives s.dev ended)
    ∧ (x.wait = Wait.sig → got = 0 → x.winst.getLsbD 21 = true → gives (s.dev.reach x.cursor.toNat) ended)
    ∧ (x.wait = Wait.memory → gives s.dev.flashTouch ready)
    ∧ (x.wait = Wait.interlock ∨ x.wait = Wait.outstanding → x.outst = none → gives s.dev ready))

/-- TADD adds v × unit to a time register modulo 2^64; TGET writes the source of Table 5.6 to a time register, or with D a word to a
general register. The sources NOW and NEXTBLK to NEXTHR take the thread's snapshot first. -/
def Obligations.CueTimeRegisters : Prop :=
  ∀ (s : State) (th : Fin 16) (w e : Word),
    let x := s.dev.thread th
    let d := s.dev.noteIssue th
    let unit (u : Nat) : Nat := [1, s.dev.period, blockTk, secondTk].getD u 0
    let v : Int := if w.getLsbD 21 then (w.setWidth 16).toInt else (x.rg (bitsOf w 12 4)).toInt
    let src := bitsOf w 19 4
    let rs := bitsOf w 15 4
    let sec := s.dev.now / secondTk + 1
    let value : Word64 := match src with
      | 0 => s.dev.time.ht
      | 1 => (s.dev.snap (.cue th)).now
      | 2 => x.cursor
      | 3 => x.trigTs
      | 4 => x.etime
      | 5 => x.rg ((rs + 1) % 16) ++ x.rg rs
      | 6 => BitVec.ofNat 64 ((s.dev.now / blockTk + 1) * blockTk)
      | 7 => BitVec.ofNat 64 (sec * secondTk)
      | 8 => BitVec.ofNat 64 (d.std.firstTick (d.std.frameOf s.dev.now + 1))
      | 9 => BitVec.ofNat 64 (d.nextLabel sec 60 * secondTk)
      | _ => BitVec.ofNat 64 (d.nextLabel sec 3600 * secondTk)
    let word : Word := match bitsOf w 17 4 with
      | 0 => (x.rt (bitsOf w 15 2)).extractLsb' 0 32
      | 1 => (x.rt (bitsOf w 15 2)).extractLsb' 32 32
      | 2 => (s.dev.snap (.cue th)).frm.extractLsb' 0 32
      | 3 => (s.dev.snap (.cue th)).line
      | 4 => (s.dev.snap (.cue th)).sub
      | 5 => (s.dev.snap (.cue th)).seq
      | 6 => BitVec.ofInt 32 d.utcOfs
      | _ => (s.dev.snap (.cue th)).smp.extractLsb' 0 32
    (s.dev.Issues th 0x1B w e → exec (.tadd th) s = .next { s with
        dev := d.setThread th { x.setT (bitsOf w 24 2) (x.rt (bitsOf w 22 2) + BitVec.ofInt 64 (v * unit (bitsOf w 19 2))) with
          pc := x.pc + 4 } })
    ∧ (s.dev.Issues th 0x1A w e → w.getLsbD 25 = false → exec (.tget th) s = .next { s with
        dev := (if src = 0 ∨ 6 ≤ src then d.takeSnap (.cue th) else d).setThread th
          { x.setT (bitsOf w 23 2) value with pc := x.pc + 4 } })
    ∧ (s.dev.Issues th 0x1A w e → w.getLsbD 25 = true → exec (.tget th) s = .next { s with
        dev := d.setThread th { x.setG (bitsOf w 21 4) word with pc := x.pc + 4 } })

/-- WAITTRIG first writes a new MASK and empties the latch; with the latch full it takes the timestamp and the source, with T at the
cursor it ends with Z, else it waits. WAITSIG takes the masked bits of the signal word, ends at the cursor with T, else waits.
SIG sets bits of the signal word of the thread it names and clears C; a thread number above 15 traps with REFUSED and EARG. -/
def Obligations.CueTriggersAndSignals : Prop :=
  (∀ (s : State) (th : Fin 16) (w e : Word),
    let x := s.dev.thread th
    let d := s.dev.noteIssue th
    let m : BitVec 17 := e.setWidth 17
    let latch : Latch := if x.latch.mask = m then x.latch else { x.latch with mask := m, full := false }
    let passed := x.cursor.toNat ≤ s.dev.now
    let y : Thread := { x with latch := latch, winst := w, wmask := e, pc := x.pc + 8 }
    let taken : Thread := { (y.setT (bitsOf w 24 2) (BitVec.ofNat 64 latch.ts)).setG (bitsOf w 20 4) (BitVec.ofNat 32 latch.src) with
      latch := { latch with full := false }, trigTs := BitVec.ofNat 64 latch.ts, fz := false, state := .ready, wait := 0 }
    let timedOut : Thread := { y.setG (bitsOf w 20 4) 0xFFFFFFFF with fz := true, state := .ready, wait := 0 }
    let got := x.sigWord &&& w.setWidth 16
    let z : Thread := { x with winst := w, pc := x.pc + 4 }
    let ended : Thread := { z.setG (bitsOf w 22 4) (got.setWidth 32) with
      sigWord := x.sigWord &&& ~~~got, fz := decide (got = 0), state := .ready, wait := 0 }
    (s.dev.Issues th 0x1C w e →
      ∃ t, exec (.waittrig th) s = .next t ∧ t.pending = s.pending ∧ d.OnlyThread t.dev th
        (if latch.full then taken
         else if w.getLsbD 19 = true ∧ passed then timedOut else { y with state := .waiting, wait := Wait.trig }))
    ∧ (s.dev.Issues th 0x1D w e →
      ∃ t, exec (.waitsig th) s = .next t ∧ t.pending = s.pending ∧ d.OnlyThread t.dev th
        (if got ≠ 0 ∨ (w.getLsbD 21 = true ∧ passed) then ended else { z with state := .waiting, wait := Wait.sig })))
  ∧ (∀ (s : State) (th : Fin 16) (w e : Word), s.dev.Issues th 0x1E w e →
    let x := s.dev.thread th
    let d := s.dev.noteIssue th
    let k := if w.getLsbD 21 then bitsOf w 17 4 else (x.rg (bitsOf w 22 4)).toNat
    let raise (y : Thread) : Thread := { y with sigWord := y.sigWord ||| w.setWidth 16 }
    let go (y : Thread) : Thread := { y with fc := false, pc := y.pc + 4 }
    (k ≤ 15 → ∃ t, exec (.sig th) s = .next t ∧ t.pending = s.pending
      ∧ t.dev = { d with cue := { d.cue with threads := t.dev.cue.threads } }
      ∧ ∀ m, t.dev.thread m =
          let y := if m = k then raise (s.dev.thread m) else s.dev.thread m
          if m = th.val then go y else y)
    ∧ (15 < k → exec (.sig th) s = .next { s with dev := d.trap th Trap.refused Status.earg.code }))

/-- Each swarm operation takes the thread's slot with the request that Table 5.7 gives it, on the cursor or immediate, and the PC moves
on; without SWARM in the active set its answer is EFEATURE.
The ledger's answer writes the status word of Table 5.4 to rd, the effective due time to ETIME and the status to LAST_ST, frees the
slot and, with LATE, sets L; it reaches a stopped thread too. An error of a thread with ERRTRAP also makes the thread trap with SWARM
once it is READY. -/
def Obligations.CueSwarmRequests : Prop :=
  (∀ (s : State) (th : Fin 16) (w e : Word),
    let x := s.dev.thread th
    let unit (u : Nat) : Nat := [1, s.dev.period, blockTk, secondTk].getD u 0
    let target := (x.rg (bitsOf w 18 4)).toNat
    let rb := bitsOf w 14 4
    let b := x.rg rb
    let c := x.rg (bitsOf w 10 4)
    let field := bitsOf w 2 5
    let v1 : Nat := if 11 ≤ field ∧ field ≤ 14 then (x.rg ((rb + 1) % 16)).toNat % 2 ^ 16 * 2 ^ 32 + b.toNat else b.toNat
    let issued (op : SwOp) (i : Instr) : Prop :=
      ∃ t ans, exec i s = .next t ∧ t.pending = s.pending
        ∧ t.dev = (s.dev.noteIssue th).setThread th { x with
            outst := some ⟨bitsOf w 22 4, ⟨op, target, w.getLsbD 9, x.cursor.toNat⟩, ans⟩, pc := x.pc + 4 }
        ∧ (s.dev.feature Feat.swarm = true → ans = none)
        ∧ (s.dev.feature Feat.swarm = false → ∃ a, ans = some a ∧ a.status = .efeature ∧ a.molt = false ∧ a.hard = false)
    (s.dev.Issues th 0x20 w e → issued
      (.von (!w.getLsbD 8) (if w.getLsbD 7 then some b.toNat else none) (c.toNat % 2 ^ 16)) (.von th))
    ∧ (s.dev.Issues th 0x21 w e → issued .voff (.voff th))
    ∧ (s.dev.Issues th 0x22 w e → issued (.vset (bitsOf w 0 7) b) (.vset th))
    ∧ (s.dev.Issues th 0x23 w e → issued (.vramp field v1 (c.toNat * unit (bitsOf w 0 2))) (.vramp th))
    ∧ (s.dev.Issues th 0x24 w e → issued .vkill (.vkill th))
    ∧ (s.dev.Issues th 0x25 w e → issued .valloc (.valloc th))
    ∧ (s.dev.Issues th 0x26 w e → issued .vfree (.vfree th))
    ∧ (s.dev.Issues th 0x27 w e → issued (.modset (bitsOf w 0 4) b) (.modset th))
    ∧ (s.dev.Issues th 0x28 w e → issued (.busset b c) (.busset th)))
  ∧ (∀ (s : State) (th : Fin 16) (rd : Nat) (r : SwReq) (a : LedgerAns),
    s.dev.coreOn = true → (s.dev.thread th).outst = some ⟨rd, r, some a⟩ →
    let x := s.dev.thread th
    let word : Word := BitVec.ofNat 32 (a.status.code + 2 ^ 8 * (a.voice % 128) + (if a.molt then 2 ^ 16 else 0)
      + (if a.hard then 2 ^ 17 else 0) + (if a.status = .late then 2 ^ 30 else 0) + (if a.status.isError then 2 ^ 31 else 0))
    let y : Thread := { x.setG rd word with
      outst := none, etime := BitVec.ofNat 64 a.etime, lastSt := a.status.code, fl := x.fl || decide (a.status = .late) }
    let errs := a.status.isError && s.dev.on (F.cueThCfgErrtrap th)
    (errs = false → x.errTrap = none →
      exec (.swarmAnswer th) s = .next { s with dev := s.dev.setThread th y })
    ∧ (errs = true → x.state ≠ .ready → (x.state = .waiting → x.wait < 6) →
      exec (.swarmAnswer th) s = .next { s with dev := s.dev.setThread th { y with errTrap := some a.status } })
    ∧ (errs = true → x.state = .ready ∨ (x.state = .waiting ∧ 6 ≤ x.wait) →
      ∃ t, exec (.swarmAnswer th) s = .next t ∧ t.dev.thread th =
        { y with state := .trapped, wait := 0, cause := Trap.swarm, code := a.status.code, errTrap := none }))

/-- LD from an SRAM window at g[ra] + sext(off), aligned or with MEM_ROTATE: the bytes read, low byte first, go to a general register,
sign-extended with S, or to a time register; an aligned one reads within one line, and a VIRGIN line as zeros; an uncorrectable or
POISON line traps with READ_ERR. From the flash window the thread waits while a page program is under way. An address outside the
windows traps with BOUNDS, and an unaligned one without MEM_ROTATE with ALIGN (R195, R196).
ST, alone in its cycle, of a register's bytes, low byte first, within one line of wave or cue memory that nobody has written in this
block and that reads without error: the bytes are stored, no other byte changes, and C is 0. Other addresses trap with BOUNDS, flash with
EPERM, and an unaligned store without MEM_ROTATE with ALIGN. Among the requests of the same cycle it is one request: C is 0 where it
succeeds; a refusal under R35 or R36 sets C, LAST_ST and the counter; any other refusal traps with REFUSED and its code. -/
def Obligations.CueLoadsAndStores : Prop :=
  (∀ (s : State) (th : Fin 16) (w e : Word), s.dev.Issues th 0x02 w e →
    let x := s.dev.thread th
    let d := s.dev.noteIssue th
    let a := (x.rg (bitsOf w 18 4) + (w.setWidth 15).signExtend 32).toNat
    let sz := bitsOf w 16 2
    let k := 2 ^ sz
    let may := a % k = 0 ∨ s.dev.feature Feat.memRotate = true
    let loaded (b : List Byte) : Thread :=
      { (if sz = 3 then x.setT (bitsOf w 22 2) (BitVec.ofNat 64 (ofBytes b))
         else x.setG (bitsOf w 22 4)
          (if w.getLsbD 15 = true ∧ sz = 0 then (BitVec.ofNat 8 (ofBytes b)).signExtend 32
           else if w.getLsbD 15 = true ∧ sz = 1 then (BitVec.ofNat 16 (ofBytes b)).signExtend 32
           else BitVec.ofNat 32 (ofBytes b))) with pc := x.pc + 4 }
    let r := d.readMem Master.cue a k
    (isSram a = true → a % k = 0 → d.mem.wiping.getLsbD (bankOf (lineOf a)) = false → (d.lineView (lineOf a)).1.isErr = false →
      ∃ e : Dev, exec (.ld th) s = .next { s with
          dev := e.setThread th (loaded (((d.lineView (lineOf a)).2.drop (a % 32)).take k)) }
        ∧ (∀ y, e.byte y = d.byte y) ∧ (∀ y, recReg y = false → e.reg y = d.reg y) ∧ e.cue = d.cue ∧ e.time = d.time)
    ∧ (inWindow a k = true → spaceOf a ≠ .flash → may → r.1.any LineState.isErr = false →
      exec (.ld th) s = .next { s with dev := r.2.2.setThread th (loaded r.2.1) })
    ∧ (inWindow a k = true → spaceOf a ≠ .flash → may → r.1.any LineState.isErr = true →
      exec (.ld th) s = .next { s with dev := r.2.2.trap th Trap.readErr 0 })
    ∧ (inWindow a k = true → spaceOf a = .flash → d.flashAdmits a = true → d.flashAdmits (a + k - 1) = true → may →
      (d.flashWaits = false →
        exec (.ld th) s = .next { s with dev := (d.flashSpan a k).2.2.setThread th (loaded (d.flashSpan a k).1) })
      ∧ (d.flashWaits = true →
        exec (.ld th) s = .next { s with dev := d.setThread th { x with state := .waiting, wait := Wait.memory } }))
    ∧ (inWindow a k = false → exec (.ld th) s = .next { s with dev := d.trap th Trap.bounds 0 })
    ∧ (inWindow a k = true → spaceOf a ≠ .flash → ¬ may → exec (.ld th) s = .next { s with dev := d.trap th Trap.align 0 }))
  ∧ (∀ (s : State) (th : Fin 16) (w e : Word), s.dev.Issues th 0x03 w e →
    let x := s.dev.thread th
    let d := s.dev.noteIssue th
    let a := (x.rg (bitsOf w 18 4) + (w.setWidth 15).signExtend 32).toNat
    let sz := bitsOf w 16 2
    let data : List Byte := if sz = 3 then bytesOf (x.rt (bitsOf w 22 2)).toNat 8 else bytesOf (x.rg (bitsOf w 22 4)).toNat (2 ^ sz)
    let view := (d.lineView (lineOf a)).2
    (spaceOf a = .wave ∨ spaceOf a = .cue → a % 2 ^ sz = 0 → d.setters = [] → d.memRefusal ⟨.cue th, a, data, false⟩ = .ok →
      d.mem.wiping.getLsbD (bankOf a) = false → d.on F.memInjArm = false → (d.lineView (lineOf a)).1.isErr = false →
      ∃ e : Dev, exec (.st th []) s = .next { s with dev := e.setThread th { x with fc := false, pc := x.pc + 4 } }
        ∧ e.lineView (lineOf a) = (.clean, view.take (a % 32) ++ data ++ view.drop (a % 32 + 2 ^ sz))
        ∧ (∀ y, lineOf y ≠ lineOf a → e.byte y = d.byte y) ∧ (∀ y, recReg y = false → e.reg y = d.reg y)
        ∧ e.cue = d.cue ∧ e.time = d.time)
    ∧ (inWindow a (2 ^ sz) = false → exec (.st th []) s = .next { s with dev := d.trap th Trap.bounds 0 })
    ∧ (inWindow a (2 ^ sz) = true → spaceOf a = .flash →
        exec (.st th []) s = .next { s with dev := d.trap th Trap.refused Status.eperm.code })
    ∧ (inWindow a (2 ^ sz) = true → spaceOf a ≠ .flash → a % 2 ^ sz ≠ 0 → s.dev.feature Feat.memRotate = false →
        exec (.st th []) s = .next { s with dev := d.trap th Trap.align 0 })
    ∧ (∀ rivals : List Req, (∀ q ∈ rivals, q.path ≠ .cue th) → inWindow a (2 ^ sz) = true → spaceOf a ≠ .flash →
        (a % 2 ^ sz = 0 ∨ s.dev.feature Feat.memRotate = true) →
      let r : Req := ⟨.cue th, a, data, false⟩
      let q := d.requests (r :: rivals) (some (.cue th))
      let st := q.1.headD .ok
      let split := d.splitHit (d.liveOf ((r :: rivals).filter fun q => d.reaches q.path q.addr)) r
      (st = .ok → exec (.st th rivals) s = .next { s with dev := q.2.finish th fun y => { y with fc := false } })
      ∧ (st = .econflict ∨ (st = .estate ∧ split = true) → exec (.st th rivals) s = .next { s with
          dev := (q.2.finish th fun y => { y with fc := true, lastSt := st.code }).bump F.cueCntSoftref })
      ∧ (st = .epoison ∨ st = .efeature ∨ (st = .estate ∧ split = false) →
          exec (.st th rivals) s = .next { s with dev := q.2.trap th Trap.refused st.code })))

/-- TCUSET writes g[rs] to the field of the channel that sel names, and GPO one bit of HT_GP_OUT (its other bits as the cycle's other
requests leave them), as requests of the cue-thread side; C is 0 where they succeed. HOSTMSG queues its message, or with sixteen entries queued is refused with EQFULL. -/
def Obligations.CueRequestsToOtherUnits : Prop :=
  ∀ (s : State) (th : Fin 16) (w e : Word) (rivals : List Req), (∀ q ∈ rivals, q.path ≠ .cue th) →
    let x := s.dev.thread th
    let d := s.dev.noteIssue th
    let done (r : Req) (i : Instr) : Prop :=
      let q := d.requests (r :: rivals) (some (.cue th))
      q.1.headD .ok = .ok → exec i s = .next { s with dev := q.2.finish th fun y => { y with fc := false } }
    let tcu : Req := regReq (.cue th)
      (0x4800 + 0x40 * bitsOf w 23 3 + [0x00, 0x08, 0x14, 0x18, 0x1C, 0x20, 0x28, 0x2C].getD (bitsOf w 20 3) 0)
      (x.rg (bitsOf w 16 4)) false
    let pin := bitsOf w 22 4
    let level : Bool := match bitsOf w 20 2 with
      | 0 => false
      | 1 => true
      | 2 => !(d.get F.htGpOut).testBit pin
      | _ => (x.rg (bitsOf w 16 4)).getLsbD 0
    let gp : Req := regReq (.cue th) F.htGpOut.addr (insBits ((d.requests rivals).2.reg F.htGpOut.addr) pin 1 (if level then 1 else 0)) false
    let ra := bitsOf w 22 4
    let message : Record := ⟨2, th, 0, 0, BitVec.ofNat 32 (bitsOf w 0 16), x.rg ((ra + 1) % 16) ++ x.rg ra⟩
    (s.dev.Issues th 0x30 w e → done tcu (.tcuset th rivals))
    ∧ (s.dev.Issues th 0x31 w e → s.dev.feature Feat.gpHost = true → (d.get F.htGpOe).testBit pin = true →
        done gp (.gpo th rivals))
    ∧ (s.dev.Issues th 0x31 w e → s.dev.feature Feat.gpHost = false → rivals = [] →
        exec (.gpo th rivals) s = .next { s with dev := d.trap th Trap.refused Status.efeature.code })
    ∧ (s.dev.Issues th 0x31 w e → s.dev.feature Feat.gpHost = true → (d.get F.htGpOe).testBit pin = false → rivals = [] →
        exec (.gpo th rivals) s = .next { s with dev := d.trap th Trap.refused Status.estate.code })
    ∧ (s.dev.Issues th 0x32 w e → s.dev.shared < 16 → exec (.hostmsg th) s = .next { s with
        dev := (d.setHcp fun h => { h with rsp := h.rsp ++ [message] }).setThread th { x with fc := false, pc := x.pc + 4 } })
    ∧ (s.dev.Issues th 0x32 w e → 16 ≤ s.dev.shared → exec (.hostmsg th) s = .next { s with
        dev := (((d.bump F.hcpCntMsgdrop).cause Cause.msgDrop).setThread th { x with
          fc := true, lastSt := Status.eqfull.code, pc := x.pc + 4 }).bump F.cueCntSoftref })

/-- START, STOP and RESUME of one thread (R177, R190): START from the entry point with flags, return stack, signal word and trigger latch
cleared and the cursor at house time; STOP keeps every register; RESUME goes on at the PC. START and RESUME of a running thread answer
ESTATE, and START of one with an outstanding operation EBUSY.
A write of 1s to CUE_THn_SIG sets the bits in the thread's signal word (R193); a write of CUE_RDATA gives the selected register of a
thread that does not run its value (R200); CUE_CTRL.RUN at 0 stops every thread with its registers kept (R178). -/
def Obligations.ThreadsFromOutside : Prop :=
  (∀ (s : State) (src : Src) (th : Fin 16),
    let d := s.dev
    let x := d.thread th
    let running := x.state = .ready ∨ x.state = .waiting
    let started : Thread := { x with
      state := .ready, wait := 0, pc := 4 * d.get (F.cueThEntry th), fz := false, fn := false, fc := false, fl := false,
      stack := [], sigWord := 0, latch := { x.latch with mask := 0, full := false }, cursor := d.time.ht, errTrap := none }
    let turned (c : Instr) (st : Status) : Prop := Leaves c s fun e => e.out.status = [st] ∧ e.cue = d.cue ∧ e.mem = d.mem
    (d.TakesField src (F.cueThCtrlStart th) 1 →
      (¬ running → d.on F.cueCtrl = true → x.outst = none → exec (.threadStart src th) s = .next { s with
        dev := (d.setThread th started).told src (F.cueThCtrlStart th).addr })
      ∧ (running ∨ d.on F.cueCtrl = false → turned (.threadStart src th) .estate)
      ∧ (¬ running → d.on F.cueCtrl = true → x.outst ≠ none → turned (.threadStart src th) .ebusy))
    ∧ (d.TakesField src (F.cueThCtrlStop th) 1 → exec (.threadStop src th) s = .next { s with
        dev := (d.setThread th { x with state := .stopped, wait := 0 }).told src (F.cueThCtrlStop th).addr })
    ∧ (d.TakesField src (F.cueThCtrlResume th) 1 →
      (¬ running → (x.state = .trapped → x.cause = Trap.soft) → x.errTrap = none → exec (.threadResume src th) s = .next { s with
        dev := (d.setThread th { x with state := .ready, wait := 0 }).told src (F.cueThCtrlResume th).addr })
      ∧ (running ∨ (x.state = .trapped ∧ x.cause ≠ Trap.soft) → turned (.threadResume src th) .estate)))
  ∧ (∀ (s : State) (src : Src),
    let d := s.dev
    (∀ (th : Fin 16) (bits : BitVec 16), d.TakesField src (F.cueThSig th) bits.toNat →
      exec (.threadSignal src th bits) s = .next { s with
        dev := (d.setThread th { d.thread th with sigWord := (d.thread th).sigWord ||| bits }).told src (F.cueThSig th).addr })
    ∧ (∀ (v : Word) (n k : Nat), n = d.get F.cueRselThread → k = d.get F.cueRselReg → d.Takes src F.cueRdata.addr v →
        d.MaySet src F.cueRdata → (d.thread n).state ≠ .ready → (d.thread n).state ≠ .waiting → (d.thread n).outst = none →
        Leaves (.cueRdataWrite src v) s fun e =>
          (k < 16 → (e.thread n).rg k = v ∧ ∀ m, m ≠ k → (e.thread n).rg m = (d.thread n).rg m)
          ∧ (16 ≤ k → k < 24 → ((e.thread n).rt ((k - 16) / 2)).extractLsb' (32 * (k % 2)) 32 = v
              ∧ ((e.thread n).rt ((k - 16) / 2)).extractLsb' (32 * (1 - k % 2)) 32
                = ((d.thread n).rt ((k - 16) / 2)).extractLsb' (32 * (1 - k % 2)) 32)
          ∧ (24 ≤ k → k < 26 → (e.thread n).cursor.extractLsb' (32 * (k % 2)) 32 = v)
          ∧ (∀ m, m ≠ n → e.thread m = d.thread m) ∧ (e.thread n).pc = (d.thread n).pc ∧ (e.thread n).state = (d.thread n).state
          ∧ d.KeepsRegs e [F.cueRdata.addr] ∧ e.mem = d.mem)
    ∧ (d.TakesField src F.cueCtrl 0 → d.MaySet src F.cueCtrl → d.on F.cueCtrl = true → Leaves (.cueRunStop src) s fun e =>
        e.on F.cueCtrl = false ∧ (∀ n, n < 16 → e.thread n = { d.thread n with state := .stopped, wait := 0 })
        ∧ d.KeepsRegs e [F.cueCtrl.addr] ∧ e.mem = d.mem ∧ e.time = d.time ∧ e.swm = d.swm ∧ e.alc = d.alc))

/-! ### Swarm, allocator, ledger and strike path (chapters 1, 3 and 4) -/

/-- An edge of the sample, block or frame grid (R28, R41): its counter moves on, house time is at the edge, and the STAGED fields of that
apply point take their shadows where the block's clocks run, and no others; block edges also forget the setters of R35.
SWM_CTRL.RUN and ALC_CTRL.RUN: 1 starts the swarm (R135) and admissions (R158); ALC_CTRL.RUN at 0 discards every queued entry with
ALC_CNT_DISCARD and leaves the voices (R155); SWM_CTRL.RUN at 0 takes effect at the next sample edge, where every voice and husk ends
(R134). INJECT of the sentinel is taken (R166). -/
def Obligations.SwarmEdgesAndRunControl : Prop :=
  (∀ (s : State) (a : Nat) (f : Field), f ∈ regFields a →
    let d := s.dev
    let n := d.time.smp.toNat + 1
    let b := d.time.blk.toNat + 1
    let fld : Fld := ⟨a, f.lo, f.w⟩
    let applies (pt : ApplyPoint) (e : Dev) : Prop :=
      (f.acc = .rws pt → d.clockRuns a = true → e.ap fld = d.get fld) ∧ (f.acc ≠ .rws pt → e.ap fld = d.ap fld)
    (d.time.counting = true →
      (Leaves .sampleEdge s fun e => applies .sample e
        ∧ e.time.smp = BitVec.ofNat 64 n ∧ e.time.ht = BitVec.ofNat 64 (max d.now (n * d.period)) ∧ e.time.blk = d.time.blk)
      ∧ (Leaves .blockEdge s fun e => applies .block e
        ∧ e.time.blk = BitVec.ofNat 64 b ∧ e.time.ht = BitVec.ofNat 64 (max d.now (b * blockTk)) ∧ e.time.smp = d.time.smp
        ∧ e.setters = [])
      ∧ (Leaves .frameBoundary s fun e => applies .frame e
        ∧ e.time.ht = BitVec.ofNat 64 (max d.now (d.std.firstTick (d.time.frame.toNat + 1)))
        ∧ e.regs = (d.reach (d.std.firstTick (d.time.frame.toNat + 1))).regs ∧ e.mem = d.mem ∧ e.cue = d.cue))
    ∧ (d.time.counting = false → exec .sampleEdge s = .next s ∧ exec .blockEdge s = .next s ∧ exec .frameBoundary s = .next s))
  ∧ (∀ (s : State) (src : Src),
    let d := s.dev
    let runs (c : Instr) (f : Fld) (v : Nat) (P : Dev → Prop) : Prop :=
      d.TakesField src f v → d.MaySet src f → d.get f ≠ v → Leaves c s fun e => e.get f = v ∧ e.mem = d.mem ∧ e.cue = d.cue ∧ P e
    runs (.swmRunStart src) F.swmCtrlRun 1 (fun e => e.on F.swmStatusRunning = true ∧ e.swm = d.swm ∧ e.alc = d.alc
      ∧ d.KeepsRegs e [F.swmCtrlRun.addr, F.swmStatusRunning.addr])
    ∧ runs (.swmRunStop src) F.swmCtrlRun 0 (fun e => e.swm = d.swm ∧ e.alc = d.alc ∧ d.KeepsRegs e [F.swmCtrlRun.addr])
    ∧ runs (.alcRunStart src) F.alcCtrl 1 (fun e => e.swm = d.swm ∧ e.alc = d.alc ∧ d.KeepsRegs e [F.alcCtrl.addr])
    ∧ runs (.alcRunStop src) F.alcCtrl 0 (fun e => e.swm = d.swm ∧ e.alc.queue = [] ∧ e.alc.vtab = d.alc.vtab
      ∧ e.get F.alcCntDiscard = min (2 ^ 32 - 1) (d.get F.alcCntDiscard + d.alc.queue.length)
      ∧ d.KeepsRegs e [F.alcCtrl.addr, F.alcCntDiscard.addr])
    ∧ (d.time.counting = true → d.coreOn = true → d.on F.swmCtrlRun = false → d.on F.swmStatusRunning = true →
        Leaves .sampleEdge s fun e => (∀ v, (e.voice v).bound = false) ∧ e.swm.husks = [] ∧ e.swm.ramps = []
          ∧ e.on F.swmStatusRunning = false)
    ∧ (d.TakesField src F.swmSenCtrlInject 1 → Leaves (.sentinelInject src) s fun e =>
        e.swm = { d.swm with sen := { d.swm.sen with inject := true } } ∧ e.mem = d.mem ∧ e.alc = d.alc ∧ d.KeepsRegs e []))

/-- The ledger's answer to the first waiting thread, for VOFF (R45, R46, R49, R50, R148): ESTATE with ALC_CTRL.RUN at 0, for a voice
beyond the count or a strike voice; ELEDGER where the charge does not fit; EQFULL where no permitted entry is free; else the entry joins
the queue in order of due time, an immediate one at the sample after next with OK, a timed one already passed likewise with LATE. The
host's request goes first. -/
def Obligations.LedgerAnswers : Prop :=
  ∀ (s : State) (n rd : Nat) (r : SwReq), n < 16 → s.dev.coreOn = true →
    let d := s.dev
    let x := d.thread n
    (d.hcp.ledgerReq = none → x.outst = some ⟨rd, r, none⟩ →
      (∀ m, m < n → ∀ o, (d.thread m).outst = some o → o.ans ≠ none) → r.op = .voff → r.target < 128 →
      let m := d.time.smp.toNat
      let passed := decide (r.due ≤ (m + 1) * d.period)
      let late := !r.imm && passed
      let due := if r.imm || passed then (m + 2) * d.period else r.due
      let stopped := d.on F.alcCtrl = false ∨ d.voiceCount ≤ r.target ∨ d.strikeVoice r.target = true
      let fits := d.fits ((due + d.period - 1) / d.period) 0 0 1
      let imms := (d.alc.queue.filter fun q => q.imm).length
      let timed := d.alc.queue.length - imms
      let room := if r.imm then timed + imms < 1024 else timed + (imms - 64) < 960
      let answers (st : Status) (P : Dev → Prop) : Prop := Leaves .ledgerAdmission s fun e =>
        e.thread n = { x with outst := some ⟨rd, r, some ⟨st, r.target, false, false, due⟩⟩ }
        ∧ (∀ k, k ≠ n → e.thread k = d.thread k) ∧ e.swm = d.swm ∧ e.mem = d.mem ∧ P e
      (stopped → answers .estate fun e => e.alc = d.alc ∧ e.regs = d.regs)
      ∧ (¬ stopped → fits = false → answers .eledger fun e =>
          e.alc = d.alc ∧ e.get F.alcCntRefuse = min (2 ^ 32 - 1) (d.get F.alcCntRefuse + 1))
      ∧ (¬ stopped → fits = true → ¬ room → answers .eqfull fun e =>
          e.alc = d.alc ∧ e.get F.alcCntQfull = min (2 ^ 32 - 1) (d.get F.alcCntQfull + 1))
      ∧ (¬ stopped → fits = true → room → answers (if late then .late else .ok) fun e =>
          e.get F.alcCntAdmit = min (2 ^ 32 - 1) (d.get F.alcCntAdmit + 1)
          ∧ ∃ before after new, d.alc.queue = before ++ after ∧ e.alc.queue = before ++ new :: after
            ∧ (∀ q ∈ before, q.due ≤ new.due) ∧ (∀ q, after.head? = some q → new.due < q.due)
            ∧ new.op = .voff ∧ new.voice = r.target ∧ new.due = due ∧ new.imm = r.imm ∧ new.seq = d.alc.seq))
    ∧ (∀ q, d.hcp.ledgerReq = some q → d.hcp.stream = [] → Leaves .ledgerAdmission s fun e =>
        e.cue = d.cue ∧ e.hcp.ledgerReq = none)

/-- The strike path (R159 to R161): it takes the oldest entry of its FIFO; an unmapped source, or a path that is not active, counts
UNMAPPED; a timestamp more than 1 s old counts STALE; any other waits with its onset, 5 µs on and rounded up to the grid. The window of
the sample under render opens once per sample, and its only onset of a slot binds the slot's voice if it is free. -/
def Obligations.StrikePath : Prop :=
  ∀ (s : State), s.dev.coreOn = true →
    let d := s.dev
    let drops (e : Dev) (rest : List Stamp) (f : Fld) : Prop :=
      e.time.strikeFifo = rest ∧ e.alc = d.alc ∧ e.get f = min (2 ^ 32 - 1) (d.get f + 1) ∧ e.swm = d.swm
    (∀ x rest, d.time.strikeFifo = x :: rest →
      let map := d.get (if x.src < 8 then F.alcStkMap0 else if x.src < 16 then F.alcStkMap1 else F.alcStkMap2) / 16 ^ (x.src % 8) % 16
      let q := 2 ^ d.get F.alcStkCtrlQuant
      let onset := (x.ts + 15729 + q - 1) / q * q
      let late := decide ((onset + d.period - 1) / d.period ≤ d.alc.window)
      let active := d.on F.alcStkCtrlEn = true ∧ d.feature Feat.strike = true
      (map < 8 ∨ ¬ active → Leaves .strikeEntryTake s fun e => drops e rest F.alcStkCntUnmapped)
      ∧ (8 ≤ map → active → x.ts + secondTk < d.now → Leaves .strikeEntryTake s fun e => drops e rest F.alcStkCntStale)
      ∧ (8 ≤ map → active → d.now ≤ x.ts + secondTk → Leaves .strikeEntryTake s fun e =>
          e.time.strikeFifo = rest ∧ e.regs = d.regs ∧ e.swm = d.swm
          ∧ e.alc.strikes = d.alc.strikes
            ++ [⟨x.src, map % 8, x.ts, if late then (d.alc.window + 1) * d.period else onset, late, x.tag, x.posted⟩]))
    ∧ (∀ k, k = d.time.smp.toNat + 1 → d.on F.alcStkCtrlEn = true → d.alc.window < k →
        let due := d.alc.strikes.filter fun x => decide ((x.onset + d.period - 1) / d.period ≤ k)
        (Leaves .strikeWindow s fun e => e.alc.window = k
          ∧ e.alc.strikes = d.alc.strikes.filter fun x => decide (k < (x.onset + d.period - 1) / d.period))
        ∧ (∀ x, due = [x] → d.on F.swmCtrlRun = true → (d.voice (d.voiceCount - 8 + x.slot)).bound = false →
            (x.onset + d.period - 1) / d.period = k → Leaves .strikeWindow s fun e =>
              let v := e.voice (d.voiceCount - 8 + x.slot)
              v.bound = true ∧ v.bindSmp = k ∧ v.dEff = x.onset ∧ v.late = x.late
              ∧ e.get F.alcStkCntOk = min (2 ^ 32 - 1) (d.get F.alcStkCntOk + 1)
              ∧ e.get F.alcStkLastLo = x.onset % 2 ^ 32))
    ∧ (d.on F.alcStkCtrlEn = false → exec .strikeWindow s = .next s)

/-! ### Host command port (chapter 6) -/

/-- QSPI transactions of a part in RUN: with QRDY low every word reads 0xDEAD_0000 and HCP_CNT_DISCARD counts (R211); a wrong instruction
byte is a frame error (R207); RD gives registers, and the words of SRAM lines, and 0 with BADADDR beyond the region (R209, R213). -/
def Obligations.HostReads : Prop :=
  ∀ (s : State) (ins : Byte) (a n : Nat), s.dev.get F.pwrStatusState = 0 → s.dev.on F.pwrStatusEntering = false →
    let d := { s.dev with pwr := { s.dev.pwr with qcsLow := false } }
    let counts (e : Dev) (f : Fld) : Prop := e.get f = min (2 ^ 32 - 1) (d.get f + 1) ∧ d.KeepsRegs e [] ∧ e.mem = d.mem
    let good := ins.toNat / 16 = 2 ∧ ins.toNat / 4 % 4 ≠ 3 ∧ ins.toNat % 4 = 0
    (d.qrdy = false → Leaves (.rd ins a (4 * n) false []) s fun e =>
      e.out.data = List.replicate n 0xDEAD0000 ∧ counts e F.hcpCntDiscard)
    ∧ (d.qrdy = true → ¬ good → Leaves (.rd ins a (4 * n) false []) s fun e => e.out.data = [] ∧ counts e F.hcpCntFrame)
    ∧ (d.qrdy = true → good → a % 4 = 0 → isReg a = true → exec (.rd ins a 4 false []) s = .next { s with
        dev := (((d.readReg .host a).2.put F.hcpStatusMembsy 0).put F.hcpStatusUnderrun 0).answer [] [(d.readReg .host a).1] })
    ∧ (d.qrdy = true → good → isSram a = true → a % 32 + 4 * n ≤ 32 → a % 4 = 0 → d.mem.wiping.getLsbD (bankOf a) = false → 0 < n →
        Leaves (.rd ins a (4 * n) false []) s fun e =>
          e.out.data = (List.range n).map (fun i =>
            BitVec.ofNat 32 (ofBytes ((((d.lineView (lineOf a)).2.drop (a % 32)).drop (4 * i)).take 4)))
          ∧ (∀ x, e.byte x = d.byte x) ∧ d.KeepsRegs e [] ∧ e.on F.hcpStatusMembsy = false ∧ e.on F.hcpStatusUnderrun = false)
    ∧ (d.qrdy = true → good → a % 4 = 0 → a = 0x7FFC → Leaves (.rd ins a 8 false []) s fun e =>
        e.out.data = [(d.readReg .host a).1, 0] ∧ e.get F.hcpCntBadaddr = min (2 ^ 32 - 1) (d.get F.hcpCntBadaddr + 1))

/-- QSPI writes of a part in RUN with QRDY high: a WR joins the stream behind a waiting command (R220) and is applied at once where
nothing waits; a CMD is accepted and holds its tag, or is rejected with ETAG, or is malformed (R216 to R218); RSP returns records, whose
tags become free (R222). -/
def Obligations.HostWrites : Prop :=
  ∀ (s : State) (ins : Byte) (phase : Fin 10), s.dev.get F.pwrStatusState = 0 → s.dev.on F.pwrStatusEntering = false →
    let d := { s.dev with pwr := { s.dev.pwr with qcsLow := false } }
    let good (op : Nat) : Prop := ins.toNat / 16 = op ∧ ins.toNat / 4 % 4 ≠ 3 ∧ ins.toNat % 4 = 0
    d.qrdy = true →
    (∀ (a : Nat) (data : List Byte) (c : HostCmd) (rest : List HostItem), good 3 → a % 4 = 0 → data.length % 4 = 0 → 0 < data.length →
      data.length ≤ 256 → d.hcp.stream = .cmd c :: rest → exec (.wr ins a data []) s = .next { s with
        dev := { d with hcp := { d.hcp with stream := d.hcp.stream ++ [HostItem.wr a data []] } }.answer [] })
    ∧ (∀ (f : Fld) (w : Word), f ∈ [F.htSetLo, F.htSetHi] → good 3 → d.hcp.stream = [] → d.hcp.ledgerReq = none →
      d.Takes ⟨.host, true⟩ f.addr w → d.MaySet ⟨.host, true⟩ f → Leaves (.wr ins f.addr (bytesOf w.toNat 4) []) s fun e =>
        e.reg f.addr = w ∧ d.KeepsRegs e [f.addr] ∧ e.hcp = d.hcp ∧ e.mem = d.mem)
    ∧ (∀ (packet : List Byte), good 6 →
      let opc := (packet.getD 0 0).toNat
      let b1 := (packet.getD 1 0).toNat
      let tag := b1 % 32
      let c : HostCmd := ⟨opc, tag, b1.testBit 5, b1.testBit 6, ofBytes ((packet.drop 4).take 8), packet.drop 12,
        d.now + (2 * phase.val * d.time.incr.toNat + 10 * 2 ^ 32) / (20 * 2 ^ 32)⟩
      let rejected (st : Status) (e : Dev) : Prop := e.hcp = d.hcp ∧ e.get F.hcpRejStatus = st.code ∧ e.on F.hcpRejValid = true
        ∧ e.get F.hcpCntReject = min (2 ^ 32 - 1) (d.get F.hcpCntReject + 1)
      (malformed packet = true → 2 ≤ packet.length → Leaves (.cmd ins packet phase) s fun e =>
        rejected .earg e ∧ e.get F.hcpCntFrame = min (2 ^ 32 - 1) (d.get F.hcpCntFrame + 1))
      ∧ (malformed packet = false → 16 ≤ tag ∨ d.hcp.held.getLsbD tag = true → Leaves (.cmd ins packet phase) s fun e => rejected .etag e)
      ∧ (malformed packet = false → tag < 16 → d.hcp.held.getLsbD tag = false → b1 < 128 → Leaves (.cmd ins packet phase) s fun e =>
        e.hcp = { d.hcp with held := d.hcp.held ||| (1#16 <<< tag), exec := d.hcp.exec ||| (1#16 <<< tag),
                             stream := d.hcp.stream ++ [.cmd c] }
        ∧ e.get F.hcpCntCmd = min (2 ^ 32 - 1) (d.get F.hcpCntCmd + 1) ∧ d.KeepsRegs e []))
    ∧ (∀ (n : Nat), good 7 → n ≤ d.hcp.rsp.length → Leaves (.rsp ins (16 * n) false) s fun e =>
        e.hcp.rsp = d.hcp.rsp.drop n ∧ e.hcp.stream = d.hcp.stream
        ∧ (∀ t, t < 16 → e.hcp.held.getLsbD t
            = (d.hcp.held.getLsbD t && !((d.hcp.rsp.take n).any fun r => r.kind == 1 && decide (r.src = t))))
        ∧ (∀ r rest, n = 1 → d.hcp.rsp = r :: rest → e.out.data = [
            BitVec.ofNat 32 (r.kind % 256 + 2 ^ 8 * (r.src % 256) + 2 ^ 16 * (r.status % 256)
              + 2 ^ 24 * ((r.flags + if rest = [] then 0 else 1) % 256)),
            r.val0, r.val1.extractLsb' 0 32, r.val1.extractLsb' 32 32]))

/-- NEGOTIATE (R14): the active set is the bits that are 1 in both the offer and SYS_FEAT_ACCEPT, less those whose requirement is not
itself in the set; it replaces SYS_FEAT_ACCEPT and is the response's VAL1. Where a feature in use would leave, it answers ESTATE and the
set stays (R227). -/
def Obligations.NegotiatedSet : Prop :=
  ∀ (s : State) (tag : Fin 16) (c : HostCmd) (rest : List HostItem), s.dev.Fronts c 0x01 tag rest → s.dev.trigOpen = false →
    c.imm = false → c.due = 0 → c.args = [] →
    let d := s.dev
    let offer : Word64 := if d.sys.lc = 3 then 0 else 0x3FFF
    let both := offer &&& (d.reg F.sysFeatAcceptHi.addr ++ d.reg F.sysFeatAcceptLo.addr)
    let needs (f : Nat) : Bool := decide (f = Feat.housePhase ∨ f = Feat.strike ∨ f = Feat.sentinel ∨ f = Feat.ltcOut)
    let want : Word64 := BitVec.ofNat 64 (((List.range 64).map fun f =>
      if both.getLsbD f && (both.getLsbD Feat.swarm || !needs f) then 2 ^ f else 0).sum)
    let loses := ∃ f, d.feature f = true ∧ want.getLsbD f = false ∧ d.inUse f = true
    (¬ loses → Leaves (.negotiate tag) s fun e =>
      e.hcp.active = want ∧ e.reg F.sysFeatAcceptHi.addr ++ e.reg F.sysFeatAcceptLo.addr = want ∧ e.on F.hcpStatusNegotiated = true
      ∧ e.hcp.rsp = d.hcp.rsp ++ [⟨1, tag, Status.ok.code, 0, 0, want⟩] ∧ e.hcp.stream = rest)
    ∧ (loses → Leaves (.negotiate tag) s fun e =>
      e.hcp.active = d.hcp.active ∧ e.hcp.rsp = d.hcp.rsp ++ [⟨1, tag, Status.estate.code, 0, 0, d.hcp.active⟩] ∧ e.hcp.stream = rest)

/-- NOP, FENCE, RREG and WREG at the front of the stream (R219 to R221): FENCE waits for open TRIGGERs; RREG reads in stream order; WREG
is one acknowledged request of the data path, with the register's value after it in VAL0.
The swarm commands of Table 6.5: at the front of the stream, with SWARM active and arguments in form, each makes its request to the
ledger and waits; without SWARM it answers EFEATURE with no change.
The thread commands and TRIGGER: CSTART, CSTOP, CRESUME and CSIGNAL act as the thread's registers do (R177, R193); TRIGGER gives its
timestamp to the FIFO of its route, and from the log it answers at once, with LOGGED set and the timestamp in its response (R234). -/
def Obligations.HostCommands : Prop :=
  (∀ (s : State) (tag : Fin 16) (c : HostCmd) (rest : List HostItem), c.imm = false → c.due = 0 →
    let d := s.dev
    let a := (c.word 0).toNat
    (d.Fronts c 0x00 tag rest → exec (.nop tag) s = .next { s with dev := d.responds tag rest .ok })
    ∧ (d.Fronts c 0x04 tag rest → d.trigOpen = false → d.on F.hcpStatusNegotiated = true →
        exec (.fence tag) s = .next { s with dev := d.responds tag rest .ok })
    ∧ (d.Fronts c 0x04 tag rest → d.trigOpen = true → exec (.fence tag) s = .next s)
    ∧ (d.Fronts c 0x03 tag rest → a % 4 = 0 → isReg a = true → exec (.rreg tag) s = .next { s with
        dev := (d.readReg .host a).2.responds tag rest .ok (d.readReg .host a).1 })
    ∧ (∀ f, f ∈ [F.htSetLo, F.htSetHi] → d.Fronts c 0x02 tag rest → a = f.addr → d.Takes ⟨.host, false⟩ f.addr (c.word 4) →
        d.MaySet ⟨.host, false⟩ f → Leaves (.wreg tag []) s fun e =>
          e.reg a = c.word 4 ∧ e.hcp = (d.responds tag rest .ok (c.word 4)).hcp ∧ d.KeepsRegs e [a] ∧ e.mem = d.mem))
  ∧ (∀ (s : State) (tag : Fin 16) (c : HostCmd) (rest : List HostItem),
    let d := s.dev
    let unit : Nat := [1, d.period, blockTk, secondTk].getD (c.arg 2) 0
    let asks (i : Instr) (opc : Nat) (op : SwOp) : Prop :=
      (d.Fronts c opc tag rest → d.feature Feat.swarm = true → c.timeOk = true → c.argsOk = true →
        exec i s = .next { s with dev := { d with hcp := { d.hcp with ledgerReq := some ⟨op, c.arg 0, c.imm, c.due⟩ } } })
      ∧ (d.Fronts c opc tag rest → d.feature Feat.swarm = false → Leaves i s fun e =>
        ∃ v0 v1, e = d.responds tag rest .efeature v0 v1)
    asks (.cmdVon tag) 0x10
        (.von (!(c.arg 2).testBit 0) (if (c.arg 2).testBit 1 then some (c.arg 1) else none) (c.arg 4 + 256 * c.arg 5))
    ∧ asks (.cmdVoff tag) 0x11 .voff
    ∧ asks (.cmdVset tag) 0x12 (.vset (c.arg 1) (c.word 4))
    ∧ asks (.cmdVramp tag) 0x13 (.vramp (c.arg 1) (ofBytes ((c.args.drop 8).take 8)) ((c.word 4).toNat * unit))
    ∧ asks (.cmdVkill tag) 0x14 .vkill
    ∧ asks (.cmdValloc tag) 0x15 .valloc
    ∧ asks (.cmdVfree tag) 0x16 .vfree
    ∧ asks (.cmdModset tag) 0x17 (.modset (c.arg 1) (c.word 4))
    ∧ asks (.cmdBusset tag) 0x18 (.busset (c.word 4) (c.word 8)))
  ∧ (∀ (s : State) (tag : Fin 16) (c : HostCmd) (rest : List HostItem), c.timeOk = true → c.argsOk = true →
    let d := s.dev
    let n := c.arg 0
    let x := d.thread n
    let running := x.state = .ready ∨ x.state = .waiting
    let gives (i : Instr) (st : Status) (y : Thread) : Prop :=
      exec i s = .next { s with dev := (d.setThread n y).responds tag rest st }
    d.feature Feat.cue = true → d.feature Feat.strike = true →
    (d.Fronts c 0x20 tag rest → ¬ running → d.on F.cueCtrl = true → x.outst = none → gives (.cstart tag) .ok { x with
      state := .ready, wait := 0, pc := 4 * d.get (F.cueThEntry n), fz := false, fn := false, fc := false, fl := false,
      stack := [], sigWord := 0, latch := { x.latch with mask := 0, full := false }, cursor := d.time.ht, errTrap := none })
    ∧ (d.Fronts c 0x20 tag rest → running ∨ d.on F.cueCtrl = false →
        exec (.cstart tag) s = .next { s with dev := d.responds tag rest .estate })
    ∧ (d.Fronts c 0x21 tag rest → gives (.cstop tag) .ok { x with state := .stopped, wait := 0 })
    ∧ (d.Fronts c 0x22 tag rest → ¬ running → (x.state = .trapped → x.cause = Trap.soft) → x.errTrap = none →
        gives (.cresume tag) .ok { x with state := .ready, wait := 0 })
    ∧ (d.Fronts c 0x23 tag rest →
        gives (.csignal tag) .ok { x with sigWord := x.sigWord ||| BitVec.ofNat 16 (c.arg 2 + 256 * c.arg 3) })
    ∧ (d.Fronts c 0x30 tag rest → Tab.find d.time.lastEdge 16 = none →
        (d.on F.htTsRouteHost = false → d.time.logFifo.length < 16 → Leaves (.trigger tag) s fun e =>
          e.time.logFifo = d.time.logFifo ++ [⟨c.ts, 16, false, c.tag, false⟩]
          ∧ e.hcp = (d.responds tag rest .ok 0 (BitVec.ofNat 64 c.ts) 2).hcp)
        ∧ (d.on F.htTsRouteHost = true → d.time.strikeFifo.length < 16 → Leaves (.trigger tag) s fun e =>
          e.time.strikeFifo = d.time.strikeFifo ++ [⟨c.ts, 16, false, c.tag, false⟩]
          ∧ e.hcp = { d.hcp with stream := rest })))

/-- FLUSH (R233), by the host or with an empty stream: it discards the commands of the stream, the responses and every tag, and the
response of a TRIGGER that still waits for its strike; behind a waiting command it joins the stream and waits for its turn.
A posted command that succeeds leaves no response and frees its tag; one that fails is a posted failure, recorded and reported (R223,
R224). -/
def Obligations.HostFlushAndPosted : Prop :=
  (∀ (s : State) (src : Src), s.dev.TakesField src F.hcpCtrl 1 →
    let d := s.dev
    let flushed : Dev := { d with
      hcp := { d.hcp with stream := [], rsp := [], held := 0, exec := 0, ledgerReq := none }
      time := { d.time with strikeFifo := d.time.strikeFifo.map fun x => if x.src = 16 then { x with tag := 16 } else x }
      alc := { d.alc with strikes := d.alc.strikes.map fun x => if x.src = 16 then { x with tag := 16 } else x } }
    (src.path = .host ∨ d.hcp.stream = [] → (∀ i ∈ d.hcp.stream, ∃ b, i = .cmd b) →
      exec (Instr.flush src) s = .next { s with dev := flushed.told src F.hcpCtrl.addr })
    ∧ (∀ c rest, src.path = .mgmt → d.hcp.stream = .cmd c :: rest → exec (Instr.flush src) s = .next { s with
        dev := { d with hcp := { d.hcp with stream := d.hcp.stream ++ [HostItem.flush] } }.told src F.hcpCtrl.addr }))
  ∧ (∀ (s : State) (tag : Fin 16) (c : HostCmd) (rest : List HostItem),
    let d := s.dev
    d.Fronts { c with post := false } 0x00 tag rest → c.post = true → c.imm = false →
    let p : State := { s with dev := { d with hcp := { d.hcp with stream := .cmd c :: rest } } }
    let freed : HcpS := { d.hcp with stream := rest, held := d.hcp.held &&& ~~~tagBit tag, exec := d.hcp.exec &&& ~~~tagBit tag }
    (c.due = 0 → exec (.nop tag) p = .next { s with dev := { d with hcp := freed } })
    ∧ (c.due ≠ 0 → Leaves (.nop tag) p fun e =>
        e.get F.hcpPerrInfoStatus = Status.earg.code ∧ e.on F.hcpPerrInfoValid = true
        ∧ e.get F.hcpCntPosterr = min (2 ^ 32 - 1) (d.get F.hcpCntPosterr + 1)
        ∧ e.hcp.held = freed.held ∧ e.hcp.stream = rest
        ∧ (d.shared < 16 → ∃ r, e.hcp.rsp = d.hcp.rsp ++ [r] ∧ r.kind = 3 ∧ r.status = Status.earg.code)))

/-! ### On-chip memory and flash (chapter 7) -/

/-- A lone write within one line of wave or cue memory, in a block in which nobody has set a byte: a whole line stores freshly encoded,
and part of one is merged into what the line reads as (R242, R243); part of an uncorrectable line is refused with EPOISON and the line
becomes POISON, and part of a POISON line is refused. No other byte changes. -/
def Obligations.MemoryWrites : Prop :=
  ∀ (s : State) (p : Path) (a : Nat) (data : List Byte), p = .mgmt ∨ p = .host →
    let d := s.dev
    let line := lineOf a
    let r : Req := ⟨p, a, data, false⟩
    spaceOf a = .wave ∨ spaceOf a = .cue → 0 < data.length → a % 32 + data.length ≤ 32 → d.reaches p a = true →
    d.memRefusal r = .ok → d.setters = [] → d.mem.wiping.getLsbD (bankOf a) = false → d.on F.memInjArm = false →
    let full := data.length = 32
    let view := d.lineView line
    let merged := view.2.take (a % 32) ++ data ++ view.2.drop (a % 32 + data.length)
    let only (e : Dev) : Prop := (∀ x, lineOf x ≠ line → e.byte x = d.byte x) ∧ (∀ l, l ≠ line → e.tag l = d.tag l) ∧ e.cue = d.cue
    (full ∨ view.1.isErr = false → Leaves (.registerWrite [r]) s fun e =>
      e.out.status = [.ok] ∧ e.lineView line = (.clean, if full then data else merged) ∧ line ∉ e.mem.ceQueue ∧ only e)
    ∧ (¬ full → view.1.isErr = true → Leaves (.registerWrite [r]) s fun e =>
      e.out.status = [.epoison] ∧ e.lineView line = (.poison, List.replicate 32 0) ∧ only e
      ∧ e.get F.memCntEpoison = min (2 ^ 32 - 1) (d.get F.memCntEpoison + 1))

/-- The scheduled writes of a bank (R241), a collision (R249), the patrol scrub (R252) and the end of the wipe (R256): a corrected line is
written back clean with its data; an uncorrectable one becomes POISON; a collision counts and latches; the scrubber reads the next line
that is not VIRGIN, as long as the block's SCRUB_RATE or a pass after a wake allows it; the wiped arrays' lines are VIRGIN. -/
def Obligations.MemoryUpkeep : Prop :=
  ∀ (s : State), s.dev.coreOn = true →
    let d := s.dev
    let zeros : List Byte := List.replicate 32 0
    let others (e : Dev) (l : Nat) : Prop := (∀ x, lineOf x ≠ l → e.byte x = d.byte x) ∧ ∀ k, k ≠ l → e.tag k = d.tag k
    (∀ (bank : Fin 13) (l : Nat), d.mem.ceQueue.find? (fun a => bankOf a == bank.val) = some l → l % 32 = 0 →
      (∃ k b, (d.lineView l).1 = .corrected k b) → Leaves (.ceWriteBack bank) s fun e =>
        e.lineView l = (.clean, (d.lineView l).2) ∧ l ∉ e.mem.ceQueue ∧ e.regs = d.regs ∧ others e l)
    ∧ (∀ (bank : Fin 13) (l : Nat), d.mem.ueQueue.find? (fun a => bankOf a == bank.val) = some l → Leaves (.poisonWrite bank) s fun e =>
        e.lineView l = (.poison, zeros) ∧ l ∉ e.mem.ueQueue ∧ e.mem.bytes = d.mem.bytes ∧ e.regs = d.regs ∧ others e l)
    ∧ (∀ (m : Fin 8) (a : Nat), isSram a = true → d.mem.wiping = 0 → (d.lineView (lineOf a)).1 = .clean →
        Leaves (.collisionRetry m a) s fun e =>
          e.on F.memStatusColl = true ∧ e.get F.memCntColl = min (2 ^ 32 - 1) (d.get F.memCntColl + 1)
          ∧ e.mem.bytes = d.mem.bytes ∧ e.mem.tags = d.mem.tags ∧ d.KeepsRegs e [])
    ∧ (d.on F.memCtrlScrubEn = true → d.mem.wiping = 0 →
        (0 < d.mem.pass ∨ d.mem.scrubbed < d.get F.memCfg → ∀ l, d.scrubNext d.mem.scrub = some l → Leaves .scrubRead s fun e =>
          e.mem.scrub = scrubIndex l + 1 ∧ e.mem.scrubbed = (if 0 < d.mem.pass then d.mem.scrubbed else d.mem.scrubbed + 1) ∧ e.mem.bytes = d.mem.bytes ∧ d.KeepsRegs e []
          ∧ (∀ k b, (d.lineView l).1 = .corrected k b → l ∈ e.mem.ceQueue
              ∧ e.get F.memCntCe = min (2 ^ 32 - 1) (d.get F.memCntCe + 1)))
        ∧ (d.mem.pass = 0 → d.get F.memCfg ≤ d.mem.scrubbed → exec .scrubRead s = .next s))
    ∧ (d.mem.wiping ≠ 0 → Leaves .arrayWipeDone s fun e =>
        e.mem.wiping = 0 ∧ e.on F.memStatusWiping = false ∧ d.KeepsRegs e []
        ∧ (∀ l, d.mem.wiping.getLsbD (bankOf l) = true → e.lineView l = (.virgin, zeros))
        ∧ ∀ x, d.mem.wiping.getLsbD (bankOf x) = false → e.byte x = d.byte x ∧ e.tag x = d.tag x)

/-- The region engine (R253): START takes OP, ADDR, LEN and STRICT; a WIPE leaves every line of the region VIRGIN; a CHECK of clean lines
gives their CRC-32C, and one whose first line is POISON ends there with EPOISON. A write of MEM_INJ arms the injector (R264). -/
def Obligations.RegionEngine : Prop :=
  ∀ (s : State) (src : Src),
    let d := s.dev
    let starts (c : Instr) (op : Nat) : Prop :=
      d.Takes src F.memChkCtrlStart.addr (insBits (d.fieldWord F.memChkCtrlOp op) 0 1 1) → d.MaySet src F.memChkCtrlOp → Leaves c s fun e =>
        e.mem = { d.mem with region := some ⟨decide (op = 1), d.get F.memChkAddr, d.get F.memChkLen, d.on F.memChkCtrlStrict⟩ }
        ∧ e.on F.memChkStatBusy = true ∧ e.get F.memChkCtrlOp = op ∧ d.KeepsRegs e []
    let ends (e : Dev) (st : Status) : Prop :=
      e.mem.region = none ∧ e.on F.memChkStatBusy = false ∧ e.on F.memChkStatDone = true ∧ e.get F.memChkStatStatus = st.code
        ∧ d.KeepsRegs e []
    starts (.regionCheck src) 0 ∧ starts (.regionWipe src) 1
    ∧ (∀ line n strict, d.coreOn = true → d.mem.region = some ⟨true, line, n, strict⟩ → d.mem.wiping = 0 → d.on F.memInjArm = false →
        Leaves .regionDone s fun e => ends e .ok
          ∧ (∀ i, i < n → e.lineView (line + 32 * i) = (.virgin, List.replicate 32 0))
          ∧ (∀ x, x < line ∨ line + 32 * n ≤ x → e.byte x = d.byte x))
    ∧ (∀ line n strict, d.coreOn = true → d.mem.region = some ⟨false, line, n, strict⟩ → d.mem.wiping = 0 →
        ((∀ i, i < n → d.tag (line + 32 * i) = ⟨3, 0, 0, 0, 0⟩) → Leaves .regionDone s fun e => ends e .ok
          ∧ e.reg F.memChkCrc.addr = crc32c ((List.range n).flatMap fun i => (d.lineView (line + 32 * i)).2)
          ∧ e.mem.bytes = d.mem.bytes)
        ∧ (0 < n → line < 2 ^ 32 → (d.lineView line).1 = .poison → Leaves .regionDone s fun e => ends e .epoison
          ∧ e.get F.memChkCrc = 0 ∧ e.get F.memChkFail = line ∧ e.mem.bytes = d.mem.bytes))
    ∧ (∀ v, d.Takes src F.memInjArm.addr v →
        (∀ f ∈ [F.memInjDouble, F.memInjState, F.memInjBit, F.memInjWord, F.memInjBank], d.MaySet src f) → Leaves (.memInj src v) s fun e =>
          (∀ f ∈ [F.memInjDouble, F.memInjState, F.memInjBit, F.memInjWord, F.memInjBank], e.get f = bitsOf v f.lo f.w)
          ∧ e.on F.memInjArm = (v.getLsbD 0 || d.on F.memInjArm) ∧ e.mem = d.mem ∧ d.KeepsRegs e [])

/-- The flash controller (R259, R260): an erase starts with its journal record; its end leaves the sector at 0xFF and the record's DONE at
0; a suspended erase resumes; a page program clears the bits that are 0 in its data. No other byte of flash changes. -/
def Obligations.FlashOperations : Prop :=
  ∀ (s : State),
    let d := s.dev
    let fl := d.mem.flash
    (∀ (sector : Fin 1024), d.coreOn = true → fl.erasing = none → fl.page = none →
      let j := d.get F.memFlJrnlActive
      let k := d.get F.memFlJrnlNext
      let seq := d.get F.memFlSeq + 1
      d.slot j 255 = .empty → k < 255 → d.slot j k = .empty → seq < 2 ^ 32 → Leaves (.flashEraseStart sector) s fun e =>
        e.mem.flash.erasing = some sector.val ∧ e.mem.flash.suspended = false ∧ e.slot j k = .valid sector seq false
        ∧ e.get F.memFlSeq = seq ∧ e.get F.memFlJrnlNext = k + 1 ∧ e.on F.memFlStatusErasing = true
        ∧ (∀ x, x < flashBase + slotOff j k ∨ flashBase + slotOff j k + 16 ≤ x → e.byte x = d.byte x))
    ∧ (∀ n, fl.erasing = some n → fl.suspended = false → fl.journal + 12 ≤ 4096 * n ∨ 4096 * (n + 1) ≤ fl.journal + 8 →
        Leaves .eraseDone s fun e =>
          e.mem.flash.erasing = none ∧ e.on F.memFlStatusErasing = false
          ∧ (∀ i, i < 4096 → e.byte (flashBase + 4096 * n + i) = 0xFF)
          ∧ (∀ i, i < 4 → e.byte (flashBase + fl.journal + 8 + i) = 0)
          ∧ ∀ x, (x < flashBase + 4096 * n ∨ flashBase + 4096 * (n + 1) ≤ x)
              → (x < flashBase + fl.journal + 8 ∨ flashBase + fl.journal + 12 ≤ x) → e.byte x = d.byte x)
    ∧ (fl.suspended = true → Leaves .eraseResume s fun e =>
        e.mem = { d.mem with flash := { fl with suspended := false } } ∧ e.on F.memFlStatusSuspended = false)
    ∧ (∀ off data, fl.page = some (off, data) → Leaves .pageProgramDone s fun e =>
        e.mem.flash = { fl with page := none }
        ∧ (∀ i, i < data.length → e.byte (flashBase + off + i) = d.byte (flashBase + off + i) &&& data.getD i 0)
        ∧ ∀ x, x < flashBase + off ∨ flashBase + off + data.length ≤ x → e.byte x = d.byte x)

/-! ### Outputs (chapter 8) -/

/-- The clamps of the DAC outputs. The start clamp is released after 256 samples (R276). Over-temperature (R283): at DAC_OT_LIM every
range change ends, with FALLBACK 0 where that changed ACT, OT and OT_SEEN are 1, DAC_CNT_OT counts with an event of class OVER_TEMP, and the ramp to the clamp begins; 20 °C below
the limit OT is 0. A fall of VDAC_HI with HEADROOM 1 clamps at once. The clamp is released after 1000 whole good blocks, which 1001 block edges bound, with OT_AUTO or after
OT_RESTART, which is ESTATE while OT is 1. -/
def Obligations.OutputClamps : Prop :=
  ∀ (s : State), s.dev.coreOff = false →
    let d := s.dev
    let T (temp : BitVec 16) : Int := temp.toInt
    let counts (e : Dev) : Prop := e.get F.dacCntOt = min (2 ^ 32 - 1) (d.get F.dacCntOt + 1)
      ∧ e.get (F.fltCnt 6) = min (2 ^ (F.fltCnt 6).w - 1) (d.get (F.fltCnt 6) + 1)
      ∧ (∃ x, e.flt.log.getLast? = some x ∧ x.cls = 6) ∧ e.mem = d.mem ∧ e.cue = d.cue
    ((d.port 0).run = true → 256 ≤ (d.port 0).count →
        exec .dacClampRelease s = .next { s with dev := { d with outp := { d.outp with startClamp := false } } })
    ∧ ((d.port 0).run = false ∨ (d.port 0).count < 256 → exec .dacClampRelease s = .next s)
    ∧ (∀ temp, (d.on F.dacStatusOt = false → 16 * (d.get F.dacOtLim : Int) ≤ T temp → Leaves (.otRise temp) s fun e =>
          e.on F.dacStatusOt = true ∧ e.on F.dacStatusOtSeen = true ∧ e.get F.dacTemp = temp.toNat ∧ counts e
          ∧ e.outp.otRamp = !d.outp.faultClamp ∧ e.outp.okBlocks = 0 ∧ e.outp.restart = false ∧ e.outp.ports = d.outp.ports
          ∧ (∀ c, c < 8 → e.dac c = { d.dac c with act := d.dacTarget c, search := none, fall := none })
          ∧ (∀ c, c < 8 → (e.get F.dacRangeFallback).testBit c
              = ((d.get F.dacRangeFallback).testBit c && decide (d.dacTarget c = (d.dac c).act)))
          ∧ d.KeepsRegs e [F.dacStatusOt.addr, F.dacTemp.addr, F.dacCntOt.addr, F.dacRangeFallback.addr])
        ∧ (d.on F.dacStatusOt = true → T temp < 16 * ((d.get F.dacOtLim : Int) - 20) → Leaves (.otFall temp) s fun e =>
          e.on F.dacStatusOt = false ∧ e.on F.dacStatusOtSeen = d.on F.dacStatusOtSeen ∧ e.get F.dacTemp = temp.toNat
          ∧ e.outp = d.outp ∧ d.KeepsRegs e [F.dacStatusOt.addr, F.dacTemp.addr]))
    ∧ (d.outp.faultClamp = true → 1000 < d.outp.okBlocks → d.on F.dacCfgOtAuto = true ∨ d.outp.restart = true →
        exec .otClampRelease s = .next { s with dev := { d with outp := { d.outp with faultClamp := false, restart := false } } })
    ∧ (d.outp.okBlocks ≤ 1000 ∨ (d.on F.dacCfgOtAuto = false ∧ d.outp.restart = false) → exec .otClampRelease s = .next s)
    ∧ (d.pwr.vdacHi = true → d.on F.dacCfgHeadroom = true → Leaves .vdacHiLoss s fun e =>
        e.pwr = { d.pwr with vdacHi := false } ∧ e.outp.faultClamp = true ∧ e.clamped = true ∧ counts e
        ∧ (∀ c, c < 8 → (e.dac c).act = false ∧ (e.dac c).r = 0) ∧ d.KeepsRegs e [F.dacCntOt.addr, F.dacRangeFallback.addr])
    ∧ (d.pwr.vdacHi = true → d.on F.dacCfgHeadroom = false → exec .vdacHiLoss s = .next { s with dev := { d with
        pwr := { d.pwr with vdacHi := false } } })
    ∧ (∀ src, d.Takes src F.dacCtrl.addr 1 →
        (d.on F.dacStatusOt = false → exec (.otRestart src) s = .next { s with
          dev := ({ d with outp := { d.outp with restart := true } }).told src F.dacCtrl.addr })
        ∧ (d.on F.dacStatusOt = true → Leaves (.otRestart src) s fun e =>
          e.out.status = [.estate] ∧ e.outp = d.outp ∧ d.KeepsRegs e [F.twtErrAddr.addr]))

/-- Output signatures: a read of OUT_SIGp_BLK latches OUT_SIGp_VAL for the reading path alone, and its later read of VAL gives the latched
word; OUT_SIG_CTRL.INJECT marks the ports whose next signature is spoilt, and leaves EN (R291).
The LTC generator at the start of a frame: with EN 1 the word of frame k is formed, with the sync word in bits 79:64, the time address
in BCD and an even number of zeros (R289); OUT_LTC_TIME and OUT_LTC_FRM show the address and k, and the frame starts at floor(k·a/b)
(R287, R288). With EN 0 there is no word. -/
def Obligations.SignaturesAndTimecodeFrames : Prop :=
  (∀ (s : State),
    let d := s.dev
    (∀ (p : Path) (port : Fin 7), d.reaches p (F.outSigBlk port).addr = true → Leaves (.outSigBlkRead p port) s fun e =>
      e.out.data = [d.reg (F.outSigBlk port).addr] ∧ e.regs = d.regs ∧ e.outp.ports = d.outp.ports
      ∧ (e.readReg p (F.outSigVal port).addr).1 = d.reg (F.outSigVal port).addr
      ∧ (∀ e' : Dev, e'.outp.vals = e.outp.vals → (e'.readReg p (F.outSigVal port).addr).1 = d.reg (F.outSigVal port).addr)
      ∧ ∀ q (i : Fin 7), q.rank ≠ p.rank ∨ i ≠ port →
          (e.readReg q (F.outSigVal i).addr).1 = (d.readReg q (F.outSigVal i).addr).1)
    ∧ (∀ (src : Src) (ports : BitVec 7), d.TakesField src F.outSigCtrlInject ports.toNat →
        Leaves (.outSigInject src ports) s fun e =>
          e.outp = { d.outp with inject := d.outp.inject ||| ports } ∧ e.out.status = [.ok]
          ∧ e.get F.outSigCtrlEn = d.get F.outSigCtrlEn ∧ e.mem = d.mem ∧ d.KeepsRegs e []))
  ∧ (∀ (s : State), s.dev.time.counting = true → s.dev.coreOff = false →
    let d := s.dev
    let cur := d.ltcFrameAt d.now
    let k := if d.ltcStart cur = d.now ∧ d.outp.ltcFrame ≠ cur then cur else cur + 1
    let t := d.ltcAddr k
    Leaves .ltcFrameStart s fun e =>
      e.outp.ltcFrame = k ∧ e.time.ht = BitVec.ofNat 64 (max d.now (d.ltcStart k)) ∧ e.mem = d.mem ∧ e.cue = d.cue
      ∧ (d.reach (d.ltcStart k)).KeepsRegs e [F.outLtcTime.addr, F.outLtcFrmLo.addr, F.outLtcFrmHi.addr]
      ∧ (d.apOn F.outLtcCfgEn = false → e.outp.ltcWord = none ∧ e.regs = (d.reach (d.ltcStart k)).regs)
      ∧ (d.apOn F.outLtcCfgEn = true → ∃ w, e.outp.ltcWord = some w
          ∧ (w >>> 64).toNat = 0xBFFC ∧ ones 80 w.toNat % 2 = 0
          ∧ w.toNat % 16 = t.ff % 10 ∧ (w >>> 8).toNat % 4 = t.ff / 10 % 4
          ∧ (w >>> 16).toNat % 16 = t.ss % 10 ∧ (w >>> 24).toNat % 8 = t.ss / 10 % 8
          ∧ (w >>> 32).toNat % 16 = t.mm % 10 ∧ (w >>> 40).toNat % 8 = t.mm / 10 % 8
          ∧ (w >>> 48).toNat % 16 = t.hh % 10 ∧ (w >>> 56).toNat % 4 = t.hh / 10 % 4
          ∧ e.get F.outLtcTime = (t.ff + 256 * t.ss + 65536 * t.mm + 16777216 * t.hh) % 2 ^ 32
          ∧ e.get F.outLtcFrmLo = k % 2 ^ 32 ∧ e.get F.outLtcFrmHi = k / 2 ^ 32 % 2 ^ 32))

/-! ### Timer/Counter Unit (chapter 9) -/

/-- Run control of the timer channels (R303, R304, R306, R311): ARM zeroes count, accumulator and edge count of a channel and its chained
partner, puts TMRn at IDLE, and runs it or waits for START; one already passed starts it at once with LATE; an ARM that the power state
does not permit begins the wake of R395, in PWR_STATUS and PWR_LAST_WAKE. ARM of a chained channel, or
of a busy one without RETRIG, is ESTATE. STOP stops, with TMRn at IDLE and the count kept. TCU_GCTRL does the same for every bit.
SNAP copies both halves of the count at once for a channel with WIDE, and does nothing for others (R316); FORCE_HI, FORCE_LO and
FORCE_TGL set the channel's level and change nothing else (R307). -/
def Obligations.TimerRunControl : Prop :=
  (∀ (s : State) (src : Src),
    let d := s.dev
    let accepts (n : Nat) : Prop := d.chained n = false ∧ (d.chanBusy n = false ∨ d.on (F.tcuChCfgRetrig n) = true)
    let ht (n : Nat) : Bool := d.on (F.tcuChCfgHtstart n)
    let late (n : Nat) : Bool := ht n && decide (d.startAt n ≤ d.now) && !d.frozen n
    let frame (e : Dev) : Prop := (∀ a, a < 0x4800 ∨ 0x4C00 ≤ a → a ∉ [F.twtErrAddr.addr, F.pwrStatusState.addr, F.pwrLastWake.addr] →
        recReg a = false → e.reg a = d.reg a)
      ∧ e.mem = d.mem ∧ e.swm = d.swm ∧ e.cue = d.cue
    let armed (set : Nat → Prop) (e : Dev) : Prop := frame e
      ∧ ((∀ n, n < 8 → set n → accepts n) → e.out.status = [.ok]) ∧ ((∃ n, n < 8 ∧ set n ∧ ¬ accepts n) → e.out.status = [.estate])
      ∧ ∀ m, m < 8 →
        let l := d.lowOf m
        let x := e.chan m
        (set l → accepts l → e.get (F.tcuChCnt m) = 0 ∧ x.acc = 0 ∧ x.edges = 0 ∧ x.pinIn = (d.chan m).pinIn
          ∧ x.run = (!ht l || late l) ∧ x.armed = (ht l && !late l) ∧ (late l = false → x.level = d.on (F.tcuChCfgIdle m))
          ∧ (late l = true → e.on (F.tcuChStatLate l) = true))
        ∧ (¬ (set l ∧ accepts l) → x = d.chan m ∧ e.get (F.tcuChCnt m) = d.get (F.tcuChCnt m))
    let stops (set : Nat → Prop) (e : Dev) : Prop := frame e
      ∧ ((∀ n, n < 8 → set n → d.chained n = false) → e.out.status = [.ok])
      ∧ ((∃ n, n < 8 ∧ set n ∧ d.chained n = true) → e.out.status = [.estate])
      ∧ (∀ m, e.get (F.tcuChCnt m) = d.get (F.tcuChCnt m))
      ∧ ∀ m, m < 8 →
        (set (d.lowOf m) → e.chan m = { d.chan m with level := d.on (F.tcuChCfgIdle m), run := false, armed := false })
        ∧ (¬ set (d.lowOf m) → e.chan m = d.chan m)
    (∀ ch : Fin 8, d.TakesField src (F.tcuChCtrlArm ch) 1 → Leaves (.tcuArm src ch) s (armed fun n => n = ch.val))
    ∧ (∀ chs : BitVec 8, d.TakesField src F.tcuGctrlArm chs.toNat → Leaves (.gctrlArm src chs) s (armed fun n => chs.getLsbD n = true))
    ∧ (∀ ch : Fin 8, d.TakesField src (F.tcuChCtrlStop ch) 1 → Leaves (.tcuStop src ch) s (stops fun n => n = ch.val))
    ∧ (∀ chs : BitVec 8, d.TakesField src F.tcuGctrlStop chs.toNat → Leaves (.gctrlStop src chs) s (stops fun n => chs.getLsbD n = true)))
  ∧ (∀ (s : State) (src : Src) (ch : Fin 8),
    let d := s.dev
    let forced (b : Bool) : Dev := d.setChan ch { d.chan ch with level := b }
    let keeps (e : Dev) : Prop := e.tcu = d.tcu ∧ e.mem = d.mem ∧ e.out.status = [.ok]
    (d.TakesField src (F.tcuChCtrlSnap ch) 1 →
      (d.on (F.tcuChCfgWide ch) = true → d.chained ch = false → Leaves (.tcuSnap src ch) s fun e => keeps e
        ∧ e.get (F.tcuChSnapLo ch) = d.get (F.tcuChCnt ch)
        ∧ e.get (F.tcuChSnapHi ch) = (if d.paired ch then d.get (F.tcuChCnt (ch.val + 1)) else 0)
        ∧ d.KeepsRegs e [(F.tcuChSnapLo ch).addr, (F.tcuChSnapHi ch).addr])
      ∧ (d.on (F.tcuChCfgWide ch) = false ∨ d.chained ch = true → Leaves (.tcuSnap src ch) s fun e => keeps e ∧ d.KeepsRegs e []))
    ∧ (d.TakesField src (F.tcuChCtrlForceHi ch) 1 →
        exec (.forceHi src ch) s = .next { s with dev := (forced true).told src (F.tcuChCtrlArm ch).addr })
    ∧ (d.TakesField src (F.tcuChCtrlForceLo ch) 1 →
        exec (.forceLo src ch) s = .next { s with dev := (forced false).told src (F.tcuChCtrlArm ch).addr })
    ∧ (d.TakesField src (F.tcuChCtrlForceTgl ch) 1 →
        exec (.forceTgl src ch) s = .next { s with dev := (forced !(d.chan ch).level).told src (F.tcuChCtrlArm ch).addr }))

/-- Counting (R301, R302, R304, R305, R307, R311): the next event of a channel's source, ECLK or SXI, counts one, and the SXI edge of NAP counts
7,500 on ECLK. A step adds the prescaled events modulo TOP + 1; it is an overflow if it wraps, and reaches a compare if it passes through
its value, for ONESHOT only before the wrap, which also stops it. The flags are set, and the pin takes the actions in the order overflow,
A, B. A chained neighbour counts the wraps. A channel that does not run, or is frozen, makes no step, and channels of other sources none. Several
events are one after another; the events of other sources come with their own commands. An ARMED channel starts at START, where a compare at 0 is reached. -/
def Obligations.TimerCounts : Prop :=
  ∀ (s : State) (ch : Fin 8),
    let d := s.dev
    let n := d.lowOf ch
    let x := d.chan n
    let src := d.get (F.tcuChCfgSrc n)
    let act (on : Prop) [Decidable on] (f : Nat → Fld) (b : Bool) : Bool := if on then pinAct (d.get (f n)) b else b
    let steps (c : Nat → Instr) : Prop :=
      (∀ events, (src = 3 ∧ events = 1) ∨ (src = 0 ∧ d.power = 3 ∧ events = 7500)
          ∨ (src = 0 ∧ d.power ≠ 3 ∧ d.time.counting = true ∧ events = 1) →
        let t := (x.acc + events) / 2 ^ d.get (F.tcuChCfgPresc n)
        let cnt := d.get (F.tcuChCnt n)
        let top := d.get (F.tcuChTop n)
        let wraps := (cnt + t) / (top + 1)
        let once := d.on (F.tcuChCfgOneshot n)
        let stops := once = true ∧ 0 < wraps
        let reached (v : Nat) : Prop := ∃ i, 1 ≤ i ∧ i ≤ t ∧ (cnt + i) % (top + 1) = v ∧ (once = true → cnt + i ≤ top)
        let high := d.get (F.tcuChCnt (n + 1)) + wraps
        x.run = true → d.frozen n = false → Leaves (c 1) s fun e =>
          (e.get (F.tcuChCnt n) = if stops then 0 else (cnt + t) % (top + 1))
          ∧ (e.chan n).acc = (x.acc + events) % 2 ^ d.get (F.tcuChCfgPresc n) ∧ (e.chan n).run = decide (¬ stops)
          ∧ (e.on (F.tcuChStatOvf n) = true ↔ 0 < wraps ∨ d.on (F.tcuChStatOvf n) = true)
          ∧ (d.cmp64 n = false →
              (e.on (F.tcuChStatCmpa n) = true ↔ reached (d.get (F.tcuChCmpa n)) ∨ d.on (F.tcuChStatCmpa n) = true)
              ∧ (e.on (F.tcuChStatCmpb n) = true ↔ reached (d.get (F.tcuChCmpb n)) ∨ d.on (F.tcuChStatCmpb n) = true)
              ∧ ∀ a b : Bool, (a = true ↔ reached (d.get (F.tcuChCmpa n))) → (b = true ↔ reached (d.get (F.tcuChCmpb n))) →
                  (e.chan n).level = act (b = true) F.tcuChActActb (act (a = true) F.tcuChActActa (act (0 < wraps) F.tcuChActActo x.level)))
          ∧ (d.paired n = true → (e.chan (n + 1)).run = decide (¬ stops)
              ∧ e.get (F.tcuChCnt (n + 1)) = if wraps = 0 then d.get (F.tcuChCnt (n + 1))
                  else if once = true ∧ d.get (F.tcuChTop (n + 1)) < high then 0 else high % (d.get (F.tcuChTop (n + 1)) + 1))
          ∧ (∀ m, m < 8 → m ≠ n → ¬ (d.paired n = true ∧ m = n + 1) →
              (d.chan (d.lowOf m)).run = false ∨ (d.get (F.tcuChCfgSrc (d.lowOf m)) ≠ 0 ∧ d.get (F.tcuChCfgSrc (d.lowOf m)) ≠ 3) →
              e.chan m = d.chan m ∧ e.get (F.tcuChCnt m) = d.get (F.tcuChCnt m))
          ∧ (∀ a, a < 0x4800 ∨ 0x4A00 ≤ a → e.reg a = d.reg a) ∧ e.mem = d.mem
          ∧ (src = 3 ∨ d.power = 3 → e.time = d.time)
          ∧ (src = 0 → d.power ≠ 3 → e.time.ht = BitVec.ofNat 64 (((d.now * 10 / 128 + 1) * 128 + 9) / 10)))
      ∧ (x.run = false ∨ d.frozen n = true → Leaves (c 1) s fun e => e.chan n = x ∧ e.get (F.tcuChCnt n) = d.get (F.tcuChCnt n))
      ∧ ((src ≠ 0 ∧ src ≠ 3) ∨ (src = 0 ∧ d.power ≠ 3 ∧ d.time.counting = false) → exec (c 1) s = .next s)
      ∧ exec (c 0) s = .next s ∧ (∀ k t, exec (c 1) s = .next t → exec (c (k + 1)) s = exec (c k) t)
    steps (.tcuCompare ch) ∧ steps (.tcuOverflow ch)
    ∧ (d.time.counting = true → (d.chan ch).armed = true → d.frozen ch = false → d.chained ch = false →
        let b := d.reach (d.startAt ch)
        Leaves (.tcuStart ch) s fun e => e.time = b.time ∧ b.time.ht = BitVec.ofNat 64 (max d.now (d.startAt ch))
        ∧ (∀ m, m < 8 → d.lowOf m = ch.val → (e.chan m).run = true ∧ (e.chan m).armed = false)
        ∧ (∀ m, e.get (F.tcuChCnt m) = b.get (F.tcuChCnt m))
        ∧ (d.cmp64 ch = false →
            (e.on (F.tcuChStatCmpa ch) = true ↔ d.get (F.tcuChCmpa ch) = 0 ∨ b.on (F.tcuChStatCmpa ch) = true)
            ∧ (e.chan ch).level = act (d.get (F.tcuChCmpb ch) = 0) F.tcuChActActb
                (act (d.get (F.tcuChCmpa ch) = 0) F.tcuChActActa (b.chan ch).level)))
    ∧ ((d.chan ch).armed = false ∨ d.frozen ch = true → exec (.tcuStart ch) s = .next s)

/-- Input capture (R313 to R315, R306): a level seen on FLEN samples or fewer is ignored; an accepted one is kept; an event of the selected edge counts, and every (NTH + 1)-th is a
capture: CAP takes the count as it stood, in a chained pair in both channels, CAP is set, and CAPOVR if it was set already; CAPCLR zeroes
the count and CAPSTART arms a stopped channel. An output, a frozen channel or a level already accepted has no event. -/
def Obligations.TimerCaptures : Prop :=
  ∀ (s : State) (ch : Fin 8) (level : Bool) (samples : Nat),
    let d := s.dev
    let x := d.chan ch
    let c := d.get (F.tcuChIcfgEdge ch)
    let event := d.on (F.tcuChCfgPinout ch) = false ∧ d.frozen ch = false ∧ x.pinIn ≠ level
      ∧ (c = 2 ∨ (c = 0 ∧ level = true) ∨ (c = 1 ∧ level = false))
    let nth := d.get (F.tcuChIcfgNth ch)
    let flen := d.get (F.tcuChIcfgFlen ch)
    let src := d.get (F.tcuChCfgSrc ch)
    (samples ≤ flen → exec (.tcuCapture ch ⟨level, samples⟩) s = .next s)
    ∧ (flen < samples → ¬ event → exec (.tcuCapture ch ⟨level, samples⟩) s = .next { s with dev := d.setChan ch { x with pinIn := level } })
    ∧ (flen < samples → event → x.edges < nth → src ≠ 4 →
        exec (.tcuCapture ch ⟨level, samples⟩) s = .next { s with dev := d.setChan ch { x with pinIn := level, edges := x.edges + 1 } })
    ∧ (flen < samples → event → nth ≤ x.edges → Leaves (.tcuCapture ch ⟨level, samples⟩) s fun e =>
        (e.chan ch).pinIn = level ∧ (e.chan ch).edges = 0
        ∧ (∀ m ∈ d.members ch, e.get (F.tcuChCap m) = d.get (F.tcuChCnt m) ∧ e.on (F.tcuChStatCap m) = true
            ∧ (e.on (F.tcuChStatCapovr m) = true ↔ d.on (F.tcuChStatCap m) = true ∨ d.on (F.tcuChStatCapovr m) = true))
        ∧ (d.on (F.tcuChCfgCapclr ch) = true → e.get (F.tcuChCnt ch) = 0 ∧ (e.chan ch).acc = 0)
        ∧ (d.on (F.tcuChCfgCapstart ch) = true → d.chained ch = false → d.chanBusy ch = false ∨ d.on (F.tcuChCfgRetrig ch) = true →
            d.on (F.tcuChCfgHtstart ch) = false → (e.chan ch).run = true ∧ (e.chan ch).armed = false ∧ e.get (F.tcuChCnt ch) = 0)
        ∧ (∀ a, a < 0x4800 ∨ 0x4C00 ≤ a → e.reg a = d.reg a) ∧ e.mem = d.mem ∧ (src ≠ 0 ∨ d.power = 3 → e.time = d.time))

/-- Writes and reads of a channel's numbers (R304, R308, R310, R312, R316): CNT and TOP take the value and nothing fires; a compare written
at or below the count of a running channel that is not frozen fires at once, LATE (R317), and is held on the low channel of a 64-bit pair until the high channel's
write; START_HI applies the held START_LO, and starts an ARMED channel whose old START is reached (R321), or whose new one has passed, LATE; a
read of CNT latches the high half for the
reading path. -/
def Obligations.TimerNumbers : Prop :=
  ∀ (s : State) (ch : Fin 8),
    let d := s.dev
    (∀ (src : Src) (v : Word),
      let may (f : Fld) : Prop := d.Takes src f.addr v ∧ d.MaySet src f
      (may (F.tcuChCnt ch) → Leaves (.tcuCntWrite src ch v) s fun e =>
        e.reg (F.tcuChCnt ch).addr = v ∧ e.tcu = d.tcu ∧ e.out.status = [.ok] ∧ d.KeepsRegs e [(F.tcuChCnt ch).addr])
      ∧ (may (F.tcuChTop ch) → Leaves (.tcuTopWrite src ch v) s fun e =>
        e.reg (F.tcuChTop ch).addr = v ∧ e.tcu = d.tcu ∧ e.out.status = [.ok] ∧ d.KeepsRegs e [(F.tcuChTop ch).addr])
      ∧ (∀ b : Bool,
        let f := if b then F.tcuChCmpb else F.tcuChCmpa
        let flag := if b then F.tcuChStatCmpb else F.tcuChStatCmpa
        let a := d.get ((if b then F.tcuChActActb else F.tcuChActActa) ch)
        may (f ch) →
        (d.cmp64 ch = true → Leaves (.tcuCmpWrite src ch b v) s fun e =>
          e.heldWord (f ch).addr = some v ∧ e.tcu = d.tcu ∧ d.KeepsRegs e [])
        ∧ (d.cmp64 ch = false → ¬ (d.chained ch = true ∧ d.cmp64 (ch.val - 1) = true) →
          let fires := (d.chan (d.lowOf ch)).run = true ∧ d.frozen ch = false ∧ v.toNat ≤ d.get (F.tcuChCnt ch)
          (fires → Leaves (.tcuCmpWrite src ch b v) s fun e =>
            e.reg (f ch).addr = v ∧ e.on (flag ch) = true ∧ e.on (F.tcuChStatLate ch) = true
            ∧ e.get F.tcuCntLate = min (2 ^ 32 - 1) (d.get F.tcuCntLate + 1)
            ∧ e.chan ch = { d.chan ch with level := pinAct a (d.chan ch).level }
            ∧ d.KeepsRegs e [(f ch).addr, (flag ch).addr, F.tcuCntLate.addr])
          ∧ (¬ fires → Leaves (.tcuCmpWrite src ch b v) s fun e =>
            e.reg (f ch).addr = v ∧ e.tcu = d.tcu ∧ d.KeepsRegs e [(f ch).addr]))
        ∧ (∀ h, d.chained ch = true → d.cmp64 (ch.val - 1) = true → d.heldWord (f (ch.val - 1)).addr = some h →
          Leaves (.tcuCmpWrite src ch b v) s fun e =>
            e.reg (f ch).addr = v ∧ e.reg (f (ch.val - 1)).addr = h ∧ e.heldWord (f (ch.val - 1)).addr = none
            ∧ ((d.chan (ch.val - 1)).run = true → d.frozen ch = false → h.toNat + 2 ^ 32 * v.toNat ≤ d.get64 (F.tcuChCnt (ch.val - 1)) (F.tcuChCnt ch) →
                e.on (flag ch) = true ∧ e.on (F.tcuChStatLate ch) = true)))
      ∧ (may (F.tcuChStartHi ch) → Leaves (.tcuStartWrite src ch v) s fun e =>
        let start := ((d.heldWord (F.tcuChStartLo ch).addr).getD (d.reg (F.tcuChStartLo ch).addr)).toNat + 2 ^ 32 * v.toNat
        e.startAt ch = start ∧ e.heldWord (F.tcuChStartLo ch).addr = none
        ∧ ((d.chan ch).armed = true → d.frozen ch = false → d.chained ch = false → d.startAt ch ≤ d.now ∨ start ≤ d.now →
            (e.chan ch).run = true ∧ (e.chan ch).armed = false ∧ (d.now < d.startAt ch → e.on (F.tcuChStatLate ch) = true))
        ∧ ((d.chan ch).armed = false ∨ d.frozen ch = true ∨ (d.now < start ∧ d.now < d.startAt ch) → e.tcu = d.tcu
            ∧ d.KeepsRegs e [(F.tcuChStartLo ch).addr, (F.tcuChStartHi ch).addr])))
    ∧ (∀ p, d.reaches p (F.tcuChCnt ch).addr = true → Leaves (.tcuCntRead p ch) s fun e =>
        e.out.data = [d.reg (F.tcuChCnt ch).addr] ∧ e.regs = d.regs ∧ e.tcu.ch = d.tcu.ch
        ∧ (d.on (F.tcuChCfgWide ch) = true → e.tcu = d.tcu)
        ∧ (d.on (F.tcuChCfgWide ch) = false →
            (e.readReg p (F.tcuChHil ch).addr).1 = (if d.paired ch then d.reg (F.tcuChCnt (ch.val + 1)).addr else 0)
            ∧ ∀ q, q.rank ≠ p.rank → (e.readReg q (F.tcuChHil ch).addr).1 = (d.readReg q (F.tcuChHil ch).addr).1))

/-! ### Two-wire target and controller (chapter 10) -/

/-- The target on its bus: its own address is acknowledged and counted, and no other (R326, R339); with WAKE and the CORE domain off it
wakes and stretches, unless STR_EXP is 1 (R336). The stretch ends after 400 µs with STR_EXP; 25 ms of SCL low end the transfer (R350).
A request for attention takes the bus where the condition holds, none has gone out or REPEAT ms have passed, and the bus has been idle for
IDLE µs; a fall of SCL breaks it, which counts (R341, R342). -/
def Obligations.TargetOnItsBus : Prop :=
  ∀ (s : State),
    let d := s.dev
    let counts (e : Dev) (f : Fld) : Prop := e.get f = min (2 ^ 32 - 1) (d.get f + 1) ∧ d.KeepsRegs e [f.addr] ∧ e.mem = d.mem
    let up := d.coreOn = true ∨ d.on F.twtCfgWake = false
    let iba (n : Nat) : IbaS := { d.twt.iba with onBus := n }
    let ended : TwtS := { d.twt with addressed := false, stretch := false, iba := { d.twt.iba with stopAt := d.now } }
    (∀ addr : BitVec 7, addr.toNat = d.twtOwn → d.sys.phase ≠ .awaitXi →
      let broke (e : Dev) : Prop :=
        e.get F.twtCntIbaAbort = if d.twt.iba.onBus = 0 then d.get F.twtCntIbaAbort else min (2 ^ 32 - 1) (d.get F.twtCntIbaAbort + 1)
      (up → Leaves (.twtAddressMatch addr) s fun e =>
        e.out.acks = [true] ∧ e.twt = { d.twt with addressed := true, iba := iba 0 } ∧ broke e
        ∧ e.get F.twtCntXfer = min (2 ^ 32 - 1) (d.get F.twtCntXfer + 1) ∧ e.mem = d.mem
        ∧ d.KeepsRegs e [F.twtCntXfer.addr, F.twtCntIbaAbort.addr])
      ∧ (¬ up → Leaves (.twtAddressMatch addr) s fun e =>
        e.out.acks = [true] ∧ e.twt = { d.twt with addressed := true, stretch := !d.twt.strExp, iba := iba 0 } ∧ broke e
        ∧ (d.deep = true → e.on F.pwrStatusWaking = true) ∧ e.get F.twtCntXfer = min (2 ^ 32 - 1) (d.get F.twtCntXfer + 1)))
    ∧ (∀ addr : BitVec 7, addr.toNat ≠ d.twtOwn ∨ d.sys.phase = .awaitXi →
        exec (.twtAddressMatch addr) s = .next { s with dev := d.answer [] [] [false] })
    ∧ (d.twt.stretch = true → d.coreOn = false → Leaves .stretchTimeout s fun e =>
        e.twt = { d.twt with stretch := false, strExp := true } ∧ counts e F.twtCntStretchTo)
    ∧ (d.twt.stretch = false ∨ d.coreOn = true → exec .stretchTimeout s = .next s)
    ∧ (d.twt.addressed = true → Leaves .twtBusTimeout s fun e =>
        e.twt = ended ∧ counts e F.twtCntBuserr)
    ∧ (d.twt.addressed = false → exec .twtBusTimeout s = .next s)
    ∧ (let wanted := d.on F.twtCfgIbaEn = true ∧ d.attnLow = true
       let due := d.twt.iba.sent = none ∨ ∃ t, d.twt.iba.sent = some t ∧ d.get F.twtIbaRepeat ≠ 0
         ∧ t + d.get F.twtIbaRepeat * blockTk ≤ d.now
       let idle := d.twt.addressed = false ∧ d.twt.iba.stopAt * 1000 + d.get F.twtIbaIdle * blockTk ≤ d.now * 1000
       let ready := wanted ∧ due ∧ idle ∧ d.twt.iba.onBus = 0
       (ready → exec .ibaRequest s = .next { s with dev := { d with twt := { d.twt with iba := iba 737 } } })
       ∧ (¬ ready → exec .ibaRequest s = .next s))
    ∧ (d.twt.iba.onBus ≠ 0 → Leaves .ibaAbort s fun e => e.twt = { d.twt with iba := iba 0 } ∧ counts e F.twtCntIbaAbort)
    ∧ (d.twt.iba.onBus = 0 → exec .ibaAbort s = .next s)

/-- Write transfers (R328, R329, R331, R332, R337): the bytes of one aligned word, or of part of one line, make the one request that a
management write of them makes, with its status in LAST_ST; part of a word is discarded with EARG; a byte for the CORE domain while it is
off is not acknowledged, with EBUSY; PAGE_HI and PAGE_LO set the page.
Read transfers (R329, R330, R333, R337): an aligned register word is read once, with the effect of a management read, and its bytes go
out lowest first; a byte of the CORE domain while it is off reads 0xFF with EBUSY, and so does a flash word that a page program keeps
from being ready within 400 µs (R338); the identity bytes are fixed; a read of LAST_ST clears
ERR. -/
def Obligations.WindowTransfers : Prop :=
  (∀ (s : State) (x : Byte) (data : List Byte), s.dev.twt.addressed = true → s.dev.twt.stretch = false →
    let d := s.dev
    let n := data.length
    let a := pageBase d.twt.page + x.toNat
    let fits := 0 < n ∧ x.toNat + n ≤ 0xF0 ∧ ∀ i, i < n → inPage d.twt.page (a + i) = true
    let at1 : Dev := { d with twt := { d.twt with ptr := if x.toNat + n = 0xF0 then 0 else x.toNat + n } }
    let stopped : IbaS := { d.twt.iba with stopAt := d.now }
    (∀ broken, fits → (∀ i, i < n → d.served (a + i) = true) →
      (isReg a = true ∧ a % 4 = 0 ∧ n = 4) ∨ (isReg a = false ∧ a % 32 + n ≤ 32) →
      ∀ t st, exec (.registerWrite [⟨.mgmt, a, data, false⟩]) { s with dev := at1 } = .next t → t.dev.out.status = [st] →
        Leaves (.twtWriteTransfer (x :: data) broken []) s fun e =>
          { e with regs := t.dev.regs, twt := t.dev.twt, out := t.dev.out } = t.dev
          ∧ (∀ k, k ≠ F.twtErrAddr.addr → k ≠ F.twtCntBuserr.addr → e.reg k = t.dev.reg k)
          ∧ e.twt.lastSt = st.code ∧ e.twt.addressed = false ∧ e.out.acks = List.replicate (n + 1) true)
    ∧ (fits → isReg a = true → a % 4 + n ≤ 4 → n < 4 → d.served a = true → Leaves (.twtWriteTransfer (x :: data) false []) s fun e =>
        e.twt = { at1.twt with lastSt := Status.earg.code, err := true, addressed := false, iba := stopped }
        ∧ e.mem = d.mem ∧ d.KeepsRegs e [F.twtErrAddr.addr] ∧ (d.twt.err = false → e.get F.twtErrAddr = a / 4 * 4)
        ∧ e.out.acks = List.replicate (n + 1) true)
    ∧ (fits → n = 1 → d.served a = false → d.sys.phase ≠ .awaitXi → Leaves (.twtWriteTransfer (x :: data) false []) s fun e =>
        e.out.acks = [true, false] ∧ e.twt.lastSt = Status.ebusy.code ∧ e.twt.err = true ∧ e.mem = d.mem
        ∧ e.get F.twtCntNack = min (2 ^ 32 - 1) (d.get F.twtCntNack + 1) ∧ (d.deep = true → e.on F.pwrStatusWaking = true))
    ∧ (∀ hi lo : Byte, 
        let twt := { d.twt with
          ptr := 0xF2, page := hi.toNat * 256 + lo.toNat, pageHi := none, addressed := false, iba := stopped }
        exec (.twtWriteTransfer [0xF0, hi, lo] false []) s
          = .next { s with dev := { d with twt := twt, out := ⟨[], [], [true, true, true]⟩ } }))
  ∧ (∀ (s : State), s.dev.twt.addressed = true → s.dev.twt.stretch = false →
    let d := s.dev
    let p := d.twt.ptr
    let a := pageBase d.twt.page + p
    let step1 : Dev := { d with twt := { d.twt with ptr := nextPtr p } }
    let left (e : Dev) (ptr : Nat) : Prop := e.twt.ptr = ptr ∧ e.twt.addressed = false
    (p % 4 = 0 → p + 4 ≤ 0xF0 → a < 0x8000 → inPage d.twt.page a = true → d.served a = true →
      ∀ late, Leaves (.twtReadTransfer ⟨4, late⟩ false) s fun e =>
        let r := step1.readReg .mgmt a
        e.out.data = (bytesOf r.1.toNat 4).map (fun b => b.zeroExtend 32) ∧ e.regs = r.2.regs ∧ e.mem = r.2.mem
        ∧ e.snap .mgmt = r.2.snap .mgmt ∧ left e (if p + 4 = 0xF0 then 0 else p + 4))
    ∧ (p < 0xF0 → inPage d.twt.page a = true → d.served a = false → d.sys.phase ≠ .awaitXi →
      ∀ late, Leaves (.twtReadTransfer ⟨1, late⟩ false) s fun e =>
        e.out.data = [0xFF] ∧ e.twt.lastSt = Status.ebusy.code ∧ e.twt.err = true ∧ e.mem = d.mem ∧ left e (nextPtr p)
        ∧ (d.deep = true → e.on F.pwrStatusWaking = true))
    ∧ (p % 4 = 0 → p + 4 ≤ 0xF0 → spaceOf a = .flash → inPage d.twt.page a = true → d.served a = true → d.mem.flash.page.isSome = true →
      Leaves (.twtReadTransfer ⟨4, [a]⟩ false) s fun e =>
        e.out.data = [0xFF, 0xFF, 0xFF, 0xFF] ∧ e.twt.lastSt = Status.ebusy.code ∧ e.twt.err = true ∧ e.mem = d.mem
        ∧ left e (if p + 4 = 0xF0 then 0 else p + 4))
    ∧ (∀ late, p = 0xFC → Leaves (.twtReadTransfer ⟨4, late⟩ false) s fun e =>
        e.out.data = [0x43, 0x54, 0x80, Config.revision.zeroExtend 32] ∧ e.regs = d.regs ∧ left e 0xF0)
    ∧ (∀ late, p = 0xF7 → Leaves (.twtReadTransfer ⟨1, late⟩ false) s fun e =>
        e.out.data = [BitVec.ofNat 32 (d.twt.lastSt % 256)] ∧ e.twt.err = false ∧ e.regs = d.regs ∧ left e 0xF8))

/-- Management commands (R335, R403, Tables 10.3 and 10.4): while one runs, a second is not acknowledged and only counts. NOP completes with
OK; WAKE asks for a wake; MUTE and UNMUTE set OUT_MUTE.MUTE; RESET resets what MGMT_ARG selects; LIFECYCLE and UPDATE do what their
chapters say; each of these wakes the CORE domain first if it is off, but for NOP and RESET. At the end LAST_ST takes the status, but that no
OK replaces the error of another item of the command's own transfer (R333), CMD_SEQ counts and BUSY is 0. -/
def Obligations.ManagementCommands : Prop :=
  ∀ (s : State), s.dev.sys.phase ≠ .awaitXi →
    let d := s.dev
    let arg := d.twt.arg.toNat
    let runs (d : Dev) (code : Nat) (st : Option Status) : Dev := { d with twt := { d.twt with cmd := some (code, arg, st), cmdBad := false } }
    let acked (d : Dev) : State := { s with dev := d.answer [] [] [true] }
    (d.twt.cmd.isSome = true →
      ∀ c ∈ [Instr.mgmtNop, .mgmtWake, .mgmtMute, .mgmtUnmute, .mgmtReset, .mgmtLifecycle, .mgmtUpdate],
        exec c s = .next { s with dev := (d.bump F.twtCntNack).answer [] [] [false] })
    ∧ (d.twt.cmd = none →
      exec .mgmtNop s = .next (acked (runs d 0x00 (some .ok)))
      ∧ (d.coreOn = true →
          exec .mgmtWake s = .next (acked (runs ((runs d 0x01 none).requestWake WakeCode.command) 0x01 (some .ok))))
      ∧ (d.coreOn = false → ∀ c ∈ [(Instr.mgmtWake, 0x01), (.mgmtMute, 0x02), (.mgmtUnmute, 0x03), (.mgmtLifecycle, 0x20), (.mgmtUpdate, 0x30)],
          exec c.1 s = .next (acked ((runs d c.2 none).requestWake WakeCode.command)))
      ∧ (d.coreOn = true → ∀ c ∈ [(Instr.mgmtMute, 0x02, 1), (.mgmtUnmute, 0x03, 0)], d.TakesField ⟨.mgmt, false⟩ F.outMuteMute c.2.2 →
          Leaves c.1 s fun e => e.get F.outMuteMute = c.2.2 ∧ e.twt = { d.twt with cmd := some (c.2.1, arg, some .ok), cmdBad := false }
            ∧ e.out.acks = [true] ∧ e.mem = d.mem ∧ d.KeepsRegs e [F.outMuteMute.addr])
      ∧ (arg = 1 → Leaves .mgmtReset s fun e => e.sys.phase ≠ .ready ∧ e.isReady = false ∧ e.sys.mgmtReset = true
          ∧ (e.reg F.sysRstCausePor.addr).getLsbD 3 = true ∧ e.twt.cmd = some (0x10, 1, none))
      ∧ (arg = 2 → Leaves .mgmtReset s fun e => e.sys.phase = .awaitXi ∧ e.isReady = false ∧ e.twt.cmd = none
          ∧ (e.reg F.sysRstCausePor.addr).getLsbD 2 = true ∧ e.now = 0 ∧ e.twt.addrPins = d.twt.addrPins)
      ∧ (arg ≠ 1 → arg ≠ 2 → exec .mgmtReset s = .next (acked (runs d 0x10 (some .earg))))
      ∧ (d.coreOn = true → d.sys.lcGo = none → arg < 128 → d.sys.lc.toNat < arg % 4 → exec .mgmtLifecycle s = .next (acked (runs { d with
          sys := { d.sys with lcPend := some (BitVec.ofNat 2 arg), lcSince := d.now } } 0x20 (some .ok))))
      ∧ (d.coreOn = true → arg < 128 → arg % 4 ≤ d.sys.lc.toNat →
          exec .mgmtLifecycle s = .next (acked (runs d 0x20 (some (if arg % 4 = d.sys.lc.toNat then .earg else .eperm)))))
      ∧ (d.coreOn = true → d.sys.lcGo = none → 128 ≤ arg → d.sys.lcPend = some (BitVec.ofNat 2 arg) → d.now ≤ d.sys.lcSince + 1000 * blockTk →
          Leaves .mgmtLifecycle s fun e => e.sys.lcGo = some (BitVec.ofNat 2 arg) ∧ e.on F.outMuteMute = true
            ∧ e.twt.cmd = some (0x20, arg, none) ∧ d.KeepsRegs e [F.outMuteMute.addr])
      ∧ (d.coreOn = true → exec .mgmtUpdate s = .next (acked (runs ((runs d 0x30 none).updStart arg).2 0x30
          (some ((runs d 0x30 none).updStart arg).1)))))
    ∧ (∀ code k st, d.twt.cmd = some (code, k, some st) → Leaves .mgmtCmdDone s fun e =>
        e.twt.cmd = none ∧ e.twt.seq = d.twt.seq + 1 ∧ e.twt.err = (st.isError || d.twt.err)
        ∧ (e.twt.lastSt = if d.twt.cmdBad = true ∧ st.isError = false then d.twt.lastSt else st.code)
        ∧ d.KeepsRegs e [F.twtErrAddr.addr] ∧ e.mem = d.mem)
    ∧ (d.twt.cmd = none → exec .mgmtCmdDone s = .next s)

/-- The two-wire controller (R344, R345, R347, R348): GO starts a transfer; it ends at its last byte with OK and DONE, HELD without STOP; a
refused byte, a lost arbitration after the last retry and a stuck bus end it with EBUSY, a starved FIFO with ESTATE or EQFULL; received
lines go to memory by DMA; a retry starts again from the first byte, with the bytes already sent before those of TX; TWC_DATA pushes TX and pops RX. -/
def Obligations.ControllerTransfers : Prop :=
  ∀ (s : State),
    let d := s.dev
    let x := d.twc.xfer
    let len := xferLen x
    let more (f : Fld) (e : Dev) : Prop := e.get f = min (2 ^ 32 - 1) (d.get f + 1)
    let ended (e : Dev) (st : Status) (count : Nat) : Prop :=
      e.on F.twcStatusBusy = false ∧ e.on F.twcStatusDone = true ∧ e.on F.twcStatusHeld = (decide (st = .ok) && !x.getLsbD 8)
        ∧ e.get F.twcStatusLastSt = st.code ∧ e.get F.twcCount = count % 2 ^ 13 ∧ more F.twcCntXfer e ∧ e.twc.lost = false
    let core (e : Dev) : Prop := e.cue = d.cue ∧ e.swm = d.swm ∧ e.time = d.time
    let busy := d.on F.twcStatusBusy = true ∧ d.twc.lost = false ∧ d.coreOn = true
    let have' := d.twc.moved + (d.twc.again.length + d.twc.tx.length)
    let sends (e : Dev) (n : Nat) : Prop :=
      e.twc.sent = d.twc.sent ++ (d.twc.again ++ d.twc.tx).take (n - d.twc.moved)
      ∧ e.twc.again ++ e.twc.tx = (d.twc.again ++ d.twc.tx).drop (n - d.twc.moved) ∧ e.twc.tx.length ≤ d.twc.tx.length
    (∀ src, d.TakesField src F.twcXferGo 1 → Leaves (.twcGo src) s fun e =>
      e.twc = { d.twc with xfer := d.reg F.twcXferAddr.addr, dma := d.get F.twcDmaAddr, moved := 0, sent := [], buf := [], again := [],
                           retries := 0, lost := false }
      ∧ e.on F.twcStatusBusy = true ∧ e.on F.twcStatusHeld = false ∧ core e ∧ e.mem = d.mem)
    ∧ (busy → ∀ (rx : List Byte),
      (Leaves (.twcDone rx (some 0)) s fun e => ended e .ebusy 0 ∧ e.on F.twcStatusNackAddr = true ∧ more F.twcCntNack e ∧ e.mem = d.mem ∧ core e)
      ∧ (∀ k, x.getLsbD 7 = false →
          (k < d.twc.moved ∨ len ≤ k → exec (.twcDone rx (some (k + 1))) s = .next s)
          ∧ (x.getLsbD 9 = false → d.twc.moved ≤ k → k < len → k < have' → Leaves (.twcDone rx (some (k + 1))) s fun e =>
            ended e .ebusy k ∧ e.on F.twcStatusNackData = true ∧ more F.twcCntNack e ∧ sends e (k + 1) ∧ e.mem = d.mem ∧ core e))
      ∧ (x.getLsbD 7 = false → x.getLsbD 9 = false → d.twc.moved ≤ len →
          (len ≤ have' → Leaves (.twcDone rx none) s fun e => ended e .ok len ∧ sends e len ∧ e.mem = d.mem ∧ core e)
          ∧ (have' < len → Leaves (.twcDone rx none) s fun e =>
            e.twc = { d.twc with tx := [], again := [], sent := d.twc.sent ++ d.twc.again ++ d.twc.tx, moved := have' }
            ∧ e.regs = d.regs ∧ core e))
      ∧ (x.getLsbD 7 = true → x.getLsbD 9 = false → d.twc.moved ≤ len → len - d.twc.moved ≤ rx.length → len - d.twc.moved + d.twc.rx.length ≤ 16 →
          Leaves (.twcDone rx none) s fun e =>
            ended e .ok len ∧ e.twc.rx = d.twc.rx ++ rx.take (len - d.twc.moved) ∧ e.mem = d.mem ∧ core e)
      ∧ (x.getLsbD 7 = true → x.getLsbD 9 = true → len = 32 → d.twc.moved = 0 → d.twc.buf = [] → rx.length = 32 → d.twc.dma % 32 = 0 →
          spaceOf d.twc.dma = .wave ∨ spaceOf d.twc.dma = .cue → d.mem.wiping.getLsbD (bankOf d.twc.dma) = false → d.on F.memInjArm = false →
          Leaves (.twcDone rx none) s fun e =>
            ended e .ok 32 ∧ e.lineView d.twc.dma = (.clean, rx) ∧ (∀ b, lineOf b ≠ d.twc.dma → e.byte b = d.byte b)))
    ∧ (¬ busy → ∀ rx nack, exec (.twcDone rx nack) s = .next s)
    ∧ (d.on F.twcStatusHeld = true → Leaves .twcChainTimeout s fun e =>
        e.on F.twcStatusHeld = false ∧ e.twc = d.twc ∧ d.KeepsRegs e [F.twcStatusHeld.addr] ∧ e.mem = d.mem)
    ∧ (d.on F.twcStatusHeld = false → exec .twcChainTimeout s = .next s)
    ∧ (d.on F.twcCfgEn = true → d.coreOn = true →
        (d.on F.twcStatusBusy = true → Leaves (.twcStuckTimeout true) s fun e =>
          ended e .ebusy d.twc.moved ∧ e.on F.twcStatusStuck = true ∧ more F.twcCntStuck e ∧ e.mem = d.mem)
        ∧ (d.on F.twcStatusBusy = false → Leaves (.twcStuckTimeout true) s fun e =>
          e.get F.twcStatusLastSt = Status.ebusy.code ∧ e.on F.twcStatusStuck = true ∧ more F.twcCntStuck e ∧ e.twc = d.twc)
        ∧ (d.on F.twcStatusBusy = true → x.getLsbD 9 = false → x.getLsbD 7 = false → d.twc.tx = [] → d.twc.again = [] →
            Leaves (.twcStuckTimeout false) s fun e => ended e .estate d.twc.moved ∧ e.mem = d.mem)
        ∧ (d.on F.twcStatusBusy = true → x.getLsbD 9 = false → x.getLsbD 7 = true → 16 ≤ d.twc.rx.length →
            Leaves (.twcStuckTimeout false) s fun e => ended e .eqfull d.twc.moved ∧ e.mem = d.mem))
    ∧ (busy → (d.twc.retries < d.get F.twcCfgRetry → Leaves .twcArbLost s fun e =>
          e.twc = { d.twc with lost := true } ∧ e.on F.twcStatusArbLost = true ∧ more F.twcCntArb e ∧ e.on F.twcStatusBusy = true)
        ∧ (d.get F.twcCfgRetry ≤ d.twc.retries → Leaves .twcArbLost s fun e =>
          ended e .ebusy d.twc.moved ∧ e.on F.twcStatusArbLost = true ∧ more F.twcCntArb e ∧ e.mem = d.mem))
    ∧ (d.on F.twcStatusBusy = true → d.twc.lost = true → d.coreOn = true → Leaves .twcRetry s fun e =>
        e.twc = { d.twc with lost := false, retries := d.twc.retries + 1, moved := 0, buf := [], sent := [],
                             again := if x.getLsbD 9 then [] else d.twc.sent ++ d.twc.again }
        ∧ more F.twcCntRetry e ∧ d.KeepsRegs e [F.twcCntRetry.addr] ∧ e.mem = d.mem)
    ∧ (∀ src (v : Byte), d.Takes src F.twcDataByte.addr (v.zeroExtend 32) → Leaves (.twcDataWrite src v) s fun e =>
        e.twc = { d.twc with tx := d.twc.tx ++ [v] } ∧ e.out.status = [.ok] ∧ d.KeepsRegs e [F.twcDataByte.addr] ∧ e.mem = d.mem)
    ∧ (∀ p, d.reaches p F.twcDataByte.addr = true →
        (∀ b rest, d.twc.rx = b :: rest → Leaves (.twcDataRead p) s fun e =>
          e.out.data = [b.zeroExtend 32 ||| 0x100] ∧ e.twc = { d.twc with rx := rest, popped := true } ∧ e.regs = d.regs ∧ e.mem = d.mem)
        ∧ (d.twc.rx = [] → Leaves (.twcDataRead p) s fun e =>
          (∃ v, e.out.data = [v] ∧ v.getLsbD 8 = false ∧ (d.twc.popped = false → v = 0)) ∧ e.twc = d.twc ∧ e.regs = d.regs ∧ e.mem = d.mem))

/-! ### Serial ports (chapter 11) -/

/-- UART0 without the parser (R356, R358 to R362, R383): a completed character enters the receive queue with its data and flags, or is
dropped with OVR; a start bit decided as 1 is a false start; in address mode a matching address selects the port, another deselects it,
and data for others leave no trace. No bits at all say that a character has begun (R372). UA0_DATA pops and pushes; the transmitter takes the oldest character unless CTS holds it; the flush
bits empty their queues; EN at 0 keeps the queues and ends the sentence. -/
def Obligations.Uart0Characters : Prop :=
  ∀ (s : State),
    let d := s.dev
    let u := d.ua0
    let more (f : Fld) (e : Dev) : Prop := e.get f = min (2 ^ 32 - 1) (d.get f + 1)
    let rest (e : Dev) : Prop := e.mem = d.mem ∧ e.cue = d.cue ∧ e.ua1 = d.ua1 ∧ e.ref = d.ref
    let queued (e : Dev) (x : RxEntry) : Prop :=
      (u.rx.length < 32 → e.ua0.rx = u.rx ++ [x] ∧ e.get F.ua0CntOvr = d.get F.ua0CntOvr)
        ∧ (32 ≤ u.rx.length → e.ua0.rx = u.rx ∧ e.on F.ua0StatusOvr = true ∧ more F.ua0CntOvr e)
    (∀ bits : List (BitVec 3),
      let n := d.ua0Bits
      let par := if d.ua0HasPar then 1 else 0
      let v := bits.map (decideBit (d.on F.ua0CfgDec))
      let data := natOfBits ((v.drop 1).take n)
      let listens := d.on F.ua0CtrlEn = true ∧ d.coreOn = true ∧ u.slowOn = false
      let hears := listens ∧ bits.length = n + 2 + par
      (listens → exec (.ua0RxChar []) s = .next { s with dev := { d with ua0 := { u with rxBusy := true } } })
      ∧ (hears → v.headD true = true → Leaves (.ua0RxChar bits) s fun e =>
        more F.ua0CntFalse e ∧ e.ua0 = { u with rxBusy := false } ∧ rest e)
      ∧ (hears → v.headD true = false → d.on F.ua0CfgNine = false → d.on F.ua0CfgTodEn = false → Leaves (.ua0RxChar bits) s fun e =>
        more F.ua0CntRx e ∧ e.ua0.tx = u.tx ∧ rest e
        ∧ ∃ x : RxEntry, queued e x ∧ x.data.toNat = data
          ∧ (x.flags.getLsbD 0 = true ↔ d.on F.ua0CfgDec = true ∧ bits.any bitNoisy = true)
          ∧ (x.flags.getLsbD 1 = true ↔ v.getLastD true = false ∧ ∃ b ∈ v.drop 1, b = true)
          ∧ (x.flags.getLsbD 2 = true ↔ par = 1 ∧ (oddBits ((v.drop 1).take (n + 1)) = true ↔ d.get F.ua0CfgPar ≠ 2))
          ∧ (x.flags.getLsbD 3 = true ↔ ∀ b ∈ v.drop 1, b = false))
      ∧ (hears → v.headD true = false → d.on F.ua0CfgNine = true → 256 ≤ data → Leaves (.ua0RxChar bits) s fun e =>
        let hit := decide ((data % 256 ^^^ d.get F.ua0AddrAddr) &&& d.get F.ua0AddrMask = 0)
          || (d.on F.ua0AddrBcastEn && decide (data % 256 = d.get F.ua0AddrBcast))
        e.ua0.selected = hit ∧ rest e ∧ (hit = false → e.ua0.rx = u.rx) ∧ (hit = true → ∃ x : RxEntry, queued e x ∧ x.data.toNat = data))
      ∧ (hears → v.headD true = false → d.on F.ua0CfgNine = true → data < 256 → u.selected = false →
        exec (.ua0RxChar bits) s = .next { s with dev := { d with ua0 := { u with rxBusy := false } } })
      ∧ (¬ hears → (bits = [] → ¬ listens) → exec (.ua0RxChar bits) s = .next s))
    ∧ (∀ p, d.reaches p F.ua0DataData.addr = true →
        (∀ x t, u.rx = x :: t → Leaves (.ua0DataRead p) s fun e =>
          e.out.data = [BitVec.ofNat 32 (x.data.toNat + 0x200 * x.flags.toNat + 0x8000)] ∧ e.ua0.rx = t ∧ e.ua0.tx = u.tx ∧ e.regs = d.regs ∧ rest e)
        ∧ (u.rx = [] → Leaves (.ua0DataRead p) s fun e => (∃ w, e.out.data = [w] ∧ w.getLsbD 15 = false) ∧ e.ua0 = u ∧ e.regs = d.regs ∧ rest e))
    ∧ (∀ src (v : BitVec 9), d.Takes src F.ua0DataData.addr (v.zeroExtend 32) → Leaves (.ua0DataWrite src v) s fun e =>
        e.ua0 = { u with tx := u.tx ++ [v] } ∧ e.out.status = [.ok] ∧ d.KeepsRegs e [F.ua0DataData.addr] ∧ rest e)
    ∧ (∀ cts, d.on F.ua0CtrlEn = true → d.coreOn = true →
        (∀ c t, u.tx = c :: t → d.on F.ua0CfgFlow = false ∨ cts = true → Leaves (.ua0TxStart cts) s fun e =>
          (∃ until', d.now ≤ until' ∧ e.ua0 = { u with ctsLow := cts, tx := t, shift := some (c, until') }) ∧ e.regs = d.regs ∧ rest e)
        ∧ (u.tx = [] ∨ (d.on F.ua0CfgFlow = true ∧ cts = false) →
          exec (.ua0TxStart cts) s = .next { s with dev := { d with ua0 := { u with ctsLow := cts } } }))
    ∧ (∀ src, d.TakesField src F.ua0CtrlRxFlush 1 → Leaves (.rxFlush src) s fun e =>
        e.ua0.rx = [] ∧ e.ua0.tx = u.tx ∧ e.ua0.shift = u.shift ∧ e.out.status = [.ok] ∧ d.KeepsRegs e [] ∧ rest e)
    ∧ (∀ src, d.TakesField src F.ua0CtrlTxFlush 1 → Leaves (.txFlush src) s fun e =>
        e.ua0 = { u with tx := [] } ∧ e.out.status = [.ok] ∧ d.KeepsRegs e [] ∧ rest e)
    ∧ (∀ src, d.TakesField src F.ua0CtrlEn 0 → d.MaySet src F.ua0CtrlEn → d.on F.ua0CtrlEn = true → Leaves (.ua0Disable src) s fun e =>
        e.on F.ua0CtrlEn = false ∧ e.ua0.cand = none ∧ e.ua0.rx = u.rx ∧ e.ua0.tx = u.tx ∧ e.ua0.shift = u.shift
        ∧ (u.line.length ≤ u.written → e.ua0 = { u with cand := none, rxBusy := false } ∧ rest e))
    ∧ (d.on F.ua0CtrlEn = true → d.coreOn = true → Leaves (.falseStart .uart0) s fun e =>
        more F.ua0CntFalse e ∧ e.ua0 = { u with rxBusy := false } ∧ rest e)
    ∧ (u.slowOn = true → Leaves (.falseStart .slow) s fun e => more F.ua0CntFalse e ∧ e.ua0 = u ∧ rest e)
    ∧ exec (.falseStart .card) s = .next s

/-- Receive DMA (R363 to R365) and the slow receiver (R370, R371): the engine takes the oldest entry unless the ring is full, and writes a
filled line with WPTR at the next; at a timeout, and when its EN is written 0, it writes the bytes gathered since the last write, and a
POISON line stops it with DMA_ERR. A matching slow address wakes; its buffer goes ahead of later characters once the CORE domain runs. -/
def Obligations.Uart0DmaAndSlow : Prop :=
  ∀ (s : State),
    let d := s.dev
    let u := d.ua0
    let more (f : Fld) (k : Nat) (e : Dev) : Prop := e.get f = min (2 ^ 32 - 1) (d.get f + k)
    let base := d.get F.ua0DmaBase
    let len := d.get F.ua0DmaLen
    let line := base + u.lineAt
    let runs := d.on F.ua0DmaCfgEn = true ∧ d.coreOn = true
    let sound := d.ringOk = true ∧ u.lineAt % 32 = 0 ∧ u.lineAt + 32 ≤ len ∧ d.mem.wiping.getLsbD (bankOf line) = false
      ∧ d.on F.memInjArm = false
    let wide := d.on F.ua0DmaCfgWide
    let size := if wide then 2 else 1
    let room := (d.get F.ua0DmaRptr % len + 2 * len - 1 - (u.lineAt + u.line.length) % len) % len
    let pending := u.written < u.line.length ∧ u.line.length < 32
    let view := d.lineView line
    let flushes (e : Dev) : Prop := e.ua0 = { u with written := u.line.length }
      ∧ e.lineView line = (.clean, view.2.take u.written ++ u.line.drop u.written ++ view.2.drop u.line.length)
      ∧ e.get F.ua0DmaWptr = (u.lineAt + u.line.length) % len % 2 ^ 16 ∧ e.on F.ua0DmaStatFlushed = true ∧ more F.ua0CntFlush 1 e
      ∧ ∀ x, lineOf x ≠ line → e.byte x = d.byte x
    (∀ x t, u.rx = x :: t → runs → d.on F.ua0CtrlEn = true → sound → size ≤ room →
      let bytes := u.line ++ bytesOf (x.data.toNat + 512 * x.flags.toNat) size
      let lost := wide = false ∧ (x.flags ≠ 0 ∨ x.data.getLsbD 8 = true)
      Leaves .ua0DmaTake s fun e =>
        e.ua0.rx = t ∧ e.ua0.tx = u.tx ∧ (lost → more F.ua0CntFlaglost 1 e) ∧ (¬ lost → e.get F.ua0CntFlaglost = d.get F.ua0CntFlaglost)
        ∧ (bytes.length < 32 → e.ua0.line = bytes ∧ e.mem = d.mem ∧ e.get F.ua0DmaWptr = d.get F.ua0DmaWptr)
        ∧ (bytes.length = 32 → e.ua0.line = [] ∧ e.ua0.written = 0 ∧ e.ua0.lineAt = (u.lineAt + 32) % len
            ∧ e.lineView line = (.clean, bytes) ∧ e.get F.ua0DmaWptr = (u.lineAt + 32) % len % 2 ^ 16
            ∧ ∀ b, lineOf b ≠ line → e.byte b = d.byte b))
    ∧ (¬ runs ∨ d.on F.ua0CtrlEn = false ∨ u.rx = [] ∨ (0 < len ∧ room < size) → exec .ua0DmaTake s = .next s)
    ∧ (runs → sound → pending → view.1.isErr = false → Leaves .ua0DmaTimeout s flushes)
    ∧ (runs → sound → pending → view.1 = .poison → Leaves .ua0DmaTimeout s fun e =>
        e.on F.ua0DmaCfgEn = false ∧ e.on F.ua0StatusDmaErr = true ∧ e.get F.ua0DmaStatLastSt = Status.epoison.code
        ∧ e.get F.ua0DmaWptr = d.get F.ua0DmaWptr ∧ e.mem.bytes = d.mem.bytes)
    ∧ (¬ runs ∨ u.line.length ≤ u.written → exec .ua0DmaTimeout s = .next s)
    ∧ (∀ src, d.TakesField src F.ua0DmaCfgEn 0 → d.MaySet src F.ua0DmaCfgEn → d.on F.ua0DmaCfgEn = true → Leaves (.ua0DmaDisable src) s fun e =>
        e.on F.ua0DmaCfgEn = false
        ∧ (u.line.length ≤ u.written → e.ua0 = u ∧ e.mem = d.mem ∧ d.KeepsRegs e [F.ua0DmaCfgEn.addr])
        ∧ (d.coreOn = true → sound → pending → view.1.isErr = false → flushes e))
    ∧ (∀ bits : List (BitVec 3), bits.length = 11 →
        let v := bits.map (decideBit true)
        let data := natOfBits ((v.drop 1).take 9)
        let hit := 256 ≤ data ∧ d.addrMatch (data % 256) = true
        u.slowOn = true → d.on F.pwrStatusSxiOk = true → v.headD true = false →
        (u.slowSel = false → hit → v.getLastD false = true → Leaves (.slowRxChar bits) s fun e =>
          e.ua0.slowSel = true ∧ (∃ x : RxEntry, e.ua0.slowBuf = [x] ∧ x.data.toNat = data) ∧ e.on F.ua0StatusWoke = true
          ∧ more F.ua0CntWake 1 e ∧ (d.deep = true → e.on F.pwrStatusWaking = true) ∧ e.mem = d.mem)
        ∧ (u.slowSel = false → ¬ hit → exec (.slowRxChar bits) s = .next s)
        ∧ (u.slowSel = true → data < 256 → u.slowBuf.length < 4 → Leaves (.slowRxChar bits) s fun e =>
          (∃ x : RxEntry, e.ua0 = { u with slowBuf := u.slowBuf ++ [x] } ∧ x.data.toNat = data) ∧ e.regs = d.regs ∧ e.mem = d.mem))
    ∧ (u.slowSel = true → d.coreOn = true → u.rx.length + u.slowBuf.length ≤ 32 → Leaves .slowRxHandover s fun e =>
        e.ua0.rx = u.rx ++ u.slowBuf ∧ e.ua0.selected = true ∧ e.ua0.slowSel = false ∧ e.ua0.slowOn = false ∧ e.ua0.slowBuf = []
        ∧ more F.ua0CntRx u.slowBuf.length e ∧ e.mem = d.mem)
    ∧ (u.slowSel = false ∨ d.coreOn = false → exec .slowRxHandover s = .next s)

/-- The card interface's activation (R373 to R376, R381, R383): ACT activates a present card and fails with 1 without one; the clock starts,
then the reset is released; no TS in time fails with 2, a late ATR with 4, a card taken out with 9; every failure from 2 on, DEACT and EN
at 0 begin the deactivation, in which CARD_RST_N is low. One XI cycle of it counts down; after 8 card clocks CARD_CLK stops, after 16
CARD_IO is low, and after 24 CARD_VCC_EN is released and STATE is OFF, with ACT refused for 10 ms. -/
def Obligations.CardActivation : Prop :=
  ∀ (s : State),
    let d := s.dev
    let state (e : Dev) (n : Nat) : Prop := e.get F.ua1StatusState = n
    let rest (e : Dev) : Prop := e.mem = d.mem ∧ e.cue = d.cue ∧ e.ua0 = d.ua0
    let div := d.get F.ua1CfgClkdiv
    let stops (e : Dev) (det : Bool) : Prop := state e 5
      ∧ e.ua1 = { d.ua1 with
          det := det, all := false, one := false, sw1 := none, line := [], wait := [], rep := 0, rstHigh := false, deact := some (24 * div, div) }
    let active := d.get F.ua1StatusState ≠ 0 ∧ d.get F.ua1StatusState ≠ 5
    let failed (e : Dev) (why : Nat) : Prop :=
      e.get F.ua1StatusFail = why ∧ e.on F.ua1StatusErr = true ∧ e.on F.ua1StatusDone = true ∧ e.get F.ua1StatusLastSt = Status.estate.code
        ∧ e.get F.ua1CntFail = min (2 ^ 32 - 1) (d.get F.ua1CntFail + 1) ∧ rest e
    (∀ src det,
      let d1 : Dev := { d with ua1 := { d.ua1 with det := det } }
      d1.TakesField src F.ua1CtrlAct 1 →
        (det ≠ d.on F.ua1CfgDetPol → Leaves (.cardAct src det) s fun e => state e 1 ∧ rest e ∧ e.out.status = [.ok]
          ∧ e.ua1 = { d.ua1 with det := det, clk := false, atr := [], rep := 0, rstHigh := false, vccEn := true, ioFree := true } ∧ d.KeepsRegs e [F.ua1StatusState.addr])
        ∧ (det = d.on F.ua1CfgDetPol → Leaves (.cardAct src det) s fun e => failed e 1 ∧ state e 0 ∧ e.ua1 = { d.ua1 with det := det }))
    ∧ (d.get F.ua1StatusState = 1 → d.coreOn = true →
        exec .cardClkStart s = .next { s with dev := { d with ua1 := { d.ua1 with clk := true } } })
    ∧ (d.get F.ua1StatusState = 1 → d.coreOn = true → d.ua1.clk = true → Leaves .cardResetRelease s fun e =>
        state e 2 ∧ e.ua1 = { d.ua1 with rstHigh := true } ∧ rest e ∧ d.KeepsRegs e [F.ua1StatusState.addr])
    ∧ (d.get F.ua1StatusState = 2 → d.coreOn = true → d.ua1.atr = [] →
        (Leaves .cardTsTimeout s fun e => failed e 2 ∧ stops e d.ua1.det) ∧ exec .atrTimeout s = .next s)
    ∧ (d.get F.ua1StatusState = 2 → d.coreOn = true → d.ua1.atr ≠ [] →
        (Leaves .atrTimeout s fun e => failed e 4 ∧ stops e d.ua1.det) ∧ exec .cardTsTimeout s = .next s)
    ∧ (active → Leaves .cardRemoved s fun e => failed e 9 ∧ stops e (d.on F.ua1CfgDetPol))
    ∧ (d.get F.ua1StatusState = 5 → Leaves .cardRemoved s fun e =>
        failed e 9 ∧ state e 5 ∧ e.ua1 = { d.ua1 with det := d.on F.ua1CfgDetPol })
    ∧ (d.get F.ua1StatusState = 0 →
        exec .cardRemoved s = .next { s with dev := { d with ua1 := { d.ua1 with det := d.on F.ua1CfgDetPol } } })
    ∧ (∀ k div, d.ua1.deact = some (k, div) →
        (1 < k → d.cardCycle = { d with ua1 := { d.ua1 with
          deact := some (k - 1, div), clk := d.ua1.clk && decide (16 * div < k - 1), ioFree := d.ua1.ioFree && decide (8 * div < k - 1) } })
        ∧ (k = 1 → d.on F.ua1StatusUpd = false →
          let e := d.cardCycle
          state e 0 ∧ d.KeepsRegs e [F.ua1StatusState.addr] ∧ e = { d with
            regs := e.regs
            ua1 := { d.ua1 with deact := none, clk := false, ioFree := false, vccEn := false, lockout := d.now + 10 * blockTk } }))
    ∧ (active → ∀ src,
        (d.TakesField src F.ua1CtrlDeact 1 → Leaves (.cardDeact src) s fun e =>
          stops e d.ua1.det ∧ e.get F.ua1StatusFail = d.get F.ua1StatusFail ∧ rest e ∧ d.KeepsRegs e [F.ua1StatusState.addr])
        ∧ (d.TakesField src F.ua1CtrlEn 0 → d.MaySet src F.ua1CtrlEn → d.on F.ua1CtrlEn = true → Leaves (.ua1Disable src) s fun e =>
          stops e d.ua1.det ∧ e.on F.ua1CtrlEn = false ∧ e.get F.ua1StatusFail = d.get F.ua1StatusFail ∧ rest e
          ∧ d.KeepsRegs e [F.ua1StatusState.addr, F.ua1CtrlEn.addr]))

/-- The card exchange (R374, R375, R378 to R381): GO starts a T=0 command; the header and, as procedure bytes ask, the data go out, an error
signal repeats a character up to RETRY times and then fails with 7; the card's bytes are procedure bytes, data, which wait while the
receive queue is full, SW1 and SW2, which ends
the exchange with RESULT and READY; a bad procedure byte fails with 8, a card that is silent for WT with 6. The first character of an ATR
sets the convention, or fails with 3. -/
def Obligations.CardExchange : Prop :=
  ∀ (s : State),
    let d := s.dev
    let u := d.ua1
    let rest (e : Dev) : Prop := e.mem = d.mem ∧ e.cue = d.cue ∧ e.ua0 = d.ua0
    let failed (e : Dev) (why : Nat) : Prop := e.get F.ua1StatusFail = why ∧ e.on F.ua1StatusErr = true ∧ e.get F.ua1StatusState = 5
      ∧ e.get F.ua1CntFail = min (2 ^ 32 - 1) (d.get F.ua1CntFail + 1) ∧ rest e
    let exch := d.get F.ua1StatusState = 4 ∧ d.coreOn = true
    let header : List Byte := [F.ua1HdrCla, F.ua1HdrIns, F.ua1HdrP1, F.ua1HdrP2, F.ua1XcfgP3].map fun f => BitVec.ofNat 8 (d.get f)
    let repeats (c : Instr) : Prop :=
      (u.rep < d.get F.ua1CfgRetry → Leaves c s fun e => e.ua1 = { u with rep := u.rep + 1 }
        ∧ e.get F.ua1CntRepeat = min (2 ^ 32 - 1) (d.get F.ua1CntRepeat + 1) ∧ rest e)
      ∧ (d.get F.ua1CfgRetry ≤ u.rep → Leaves c s fun e => failed e 7)
    (∀ src, d.TakesField src F.ua1CtrlGo 1 → Leaves (.cardGo src) s fun e =>
      e.get F.ua1StatusState = 4
      ∧ e.ua1 = { u with sent := 0, pos := 0, all := false, one := false, sw1 := none, line := [], rep := 0, out := [] }
      ∧ e.out.status = [.ok] ∧ d.KeepsRegs e [F.ua1StatusState.addr] ∧ rest e)
    ∧ (exch → u.sent < 5 → exec (.cardTxChar false) s = .next { s with dev := { d with ua1 := { u with
        sent := u.sent + 1, rep := 0, out := u.out ++ [header.getD u.sent 0] } } })
    ∧ (exch → u.sent < 5 → repeats (.cardTxChar true))
    ∧ (exch → u.sent = 5 → d.on F.ua1XcfgDir = false → d.on F.ua1XcfgDma = false → u.all = true ∨ u.one = true → ∀ b t, u.tx = b :: t →
        exec (.cardTxChar false) s = .next { s with dev := { d with ua1 := { u with
          tx := t, out := u.out ++ [b], rep := 0, pos := u.pos + 1, one := false, all := u.all && decide (u.pos + 1 < d.get F.ua1XcfgP3) } } }
        ∧ repeats (.cardTxChar true))
    ∧ (exch → u.sent = 5 → u.all = false → u.one = false → ∀ error, exec (.cardTxChar error) s = .next s)
    ∧ (exch → u.sent = 5 → u.all = false ∨ d.on F.ua1XcfgDir = true → u.one = false ∨ d.on F.ua1XcfgDir = true →
        Leaves .cardWtTimeout s fun e => failed e 6)
    ∧ (∀ bits : List (BitVec 3), bits.length = 10 → d.on F.ua1CfgDec = false →
        let v := (bits.map (decideBit false)).drop 1
        let inv := d.on F.ua1StatusConv
        let lg := if inv then v.map (!·) else v
        let b : Byte := BitVec.ofNat 8 (natOfBits (if inv then (lg.take 8).reverse else lg.take 8))
        (bits.map (decideBit false)).headD true = false →
        (exch → oddBits lg = true → (u.rep < d.get F.ua1CfgRetry → Leaves (.cardRxChar bits) s fun e =>
            e.get F.ua1CntParerr = min (2 ^ 32 - 1) (d.get F.ua1CntParerr + 1) ∧ e.ua1 = { u with rep := u.rep + 1 } ∧ rest e)
          ∧ (d.get F.ua1CfgRetry ≤ u.rep → Leaves (.cardRxChar bits) s fun e => failed e 7))
        ∧ (exch → oddBits lg = false → u.sent = 5 → u.sw1 = none → u.all = false → u.one = false →
          let ins : Byte := BitVec.ofNat 8 (d.get F.ua1HdrIns)
          let left := u.pos < d.cardLen
          let becomes (x : Ua1S) : Prop := exec (.cardRxChar bits) s = .next { s with dev := { d with ua1 := { x with rep := 0 } } }
          (b = 0x60 → becomes u)
          ∧ (b ≠ 0x60 → b = ins → left → becomes { u with all := true })
          ∧ (b ≠ 0x60 → b ≠ ins → b = ~~~ins → left → becomes { u with one := true })
          ∧ (b ≠ 0x60 → b ≠ ins → b ≠ ~~~ins → b.toNat / 16 = 6 ∨ b.toNat / 16 = 9 → becomes { u with sw1 := some b })
          ∧ (b ≠ 0x60 → (b = ins ∨ b = ~~~ins) → ¬ left → Leaves (.cardRxChar bits) s fun e => failed e 8)
          ∧ (b ≠ ins → b ≠ ~~~ins → b.toNat / 16 ≠ 6 → b.toNat / 16 ≠ 9 → Leaves (.cardRxChar bits) s fun e => failed e 8))
        ∧ (exch → oddBits lg = false → u.sent = 5 → u.sw1 = none → u.all = true ∨ u.one = true → d.on F.ua1XcfgDir = true →
          d.on F.ua1XcfgDma = false →
          let moved : Ua1S := { u with rep := 0, pos := u.pos + 1, one := false, all := u.all && decide (u.pos + 1 < d.cardLen) }
          (u.wait = [] → u.rx.length < 16 →
            exec (.cardRxChar bits) s = .next { s with dev := { d with ua1 := { moved with rx := u.rx ++ [b] } } })
          ∧ (16 ≤ u.rx.length →
            exec (.cardRxChar bits) s = .next { s with dev := { d with ua1 := { moved with wait := u.wait ++ [b] } } }))
        ∧ (∀ sw1, exch → oddBits lg = false → u.sent = 5 → u.sw1 = some sw1 → d.on F.ua1XcfgDma = false → Leaves (.cardRxChar bits) s fun e =>
          e.get F.ua1ResultSw1 = sw1.toNat ∧ e.get F.ua1ResultSw2 = b.toNat ∧ e.get F.ua1ResultCount = u.pos % 512
          ∧ e.get F.ua1StatusLastSt = 0 ∧ e.on F.ua1StatusDone = true ∧ e.get F.ua1StatusState = 3
          ∧ e.get F.ua1CntApdu = min (2 ^ 32 - 1) (d.get F.ua1CntApdu + 1) ∧ e.ua1.sw1 = none ∧ e.ua1.rx = u.rx ∧ rest e)
        ∧ (d.get F.ua1StatusState = 2 → d.coreOn = true → u.atr = [] →
          (v = [true, true, false, true, true, true, false, false, true] → Leaves (.cardRxChar bits) s fun e =>
            e.on F.ua1StatusConv = false ∧ e.ua1.atr = [0x3B] ∧ e.get F.ua1AtrLen = 1 ∧ rest e)
          ∧ (v = [true, true, false, false, false, false, false, false, true] → Leaves (.cardRxChar bits) s fun e =>
            e.on F.ua1StatusConv = true ∧ e.ua1.atr = [0x3F] ∧ e.get F.ua1AtrLen = 1 ∧ rest e)
          ∧ (v ≠ [true, true, false, true, true, true, false, false, true] →
              v ≠ [true, true, false, false, false, false, false, false, true] → Leaves (.cardRxChar bits) s fun e => failed e 3)))
    ∧ (∀ src (v : Byte), d.Takes src F.ua1DataByte.addr (v.zeroExtend 32) → Leaves (.ua1DataWrite src v) s fun e =>
        e.ua1 = { u with tx := u.tx ++ [v] } ∧ e.out.status = [.ok] ∧ d.KeepsRegs e [F.ua1DataByte.addr] ∧ rest e)
    ∧ (∀ p, d.reaches p F.ua1DataByte.addr = true →
        (∀ b t, u.rx = b :: t → Leaves (.ua1DataRead p) s fun e =>
          e.out.data = [b.zeroExtend 32 ||| 0x100]
          ∧ e.ua1 = { u with rx := t ++ u.wait.take (16 - t.length), wait := u.wait.drop (16 - t.length) } ∧ e.regs = d.regs ∧ rest e)
        ∧ (u.rx = [] → Leaves (.ua1DataRead p) s fun e =>
          (∃ w, e.out.data = [w] ∧ w.getLsbD 8 = false) ∧ e.ua1 = u ∧ e.regs = d.regs ∧ rest e))

/-! ### Power, reset, start-up and life cycle (chapter 12) -/

/-- Entries and wakes (R389, R394 to R396, R415): an entry that is still permitted, with time for its wake, puts its state in force and counts,
with the banks without retention VIRGIN from DOZE on (R254); any other turns back; a wake in the cycle of the decision starts neither. The wake that serves PWR_NEXT begins its wake
time and the guard before it; a wake request turns DOZE, NAP or an entry back to RUN with its code in PWR_LAST_WAKE; at the end of a wake
the state is RUN, banks without retention are VIRGIN, and a wake that came after its event counts as late.
The floor (R397): ARM takes PWR_FLOOR_AT and STATE; an instant to come is pending and one that has passed is in force at once; the instant
reached puts it in force; CLR ends both. -/
def Obligations.PowerStates : Prop :=
  (∀ (s : State),
    let d := s.dev
    let fine (e : Dev) : Prop := e.cue = d.cue ∧ e.swm = d.swm ∧ e.out = d.out
    let waking (b e : Dev) (code : Nat) : Prop := e.on F.pwrStatusWaking = true ∧ e.on F.pwrStatusEntering = false ∧ e.get F.pwrLastWake = code
      ∧ e.power = d.power ∧ e.mem = d.mem ∧ b.KeepsRegs e [F.pwrStatusState.addr, F.pwrLastWake.addr]
    let switchesOff (e : Dev) : Prop := ∀ x, (d.offBanks.getLsbD (bankOf x) = true → e.lineView (lineOf x) = (.virgin, List.replicate 32 0))
      ∧ (d.offBanks.getLsbD (bankOf x) = false → e.byte x = d.byte x ∧ e.tag x = d.tag x)
    (∀ t, t = d.pwr.target → 1 ≤ t → t ≤ 3 → d.on F.pwrStatusEntering = true →
      let fits := d.eventFits (wakeUs t) d.guardFor = true
      (t ≤ d.pwrCeil → fits → Leaves .powerEntryDone s fun e =>
        e.power = t ∧ e.on F.pwrStatusEntering = false ∧ e.get (pwrCnt t) = min (2 ^ 32 - 1) (d.get (pwrCnt t) + 1)
        ∧ (t = 3 → e.flt.healthPin = false ∧ e.twt.attn = d.causes) ∧ (2 ≤ t → d.power < 2 → e.ua0.slowOn = d.on F.ua0SlowEn)
        ∧ (2 ≤ t → d.power < 2 → switchesOff e) ∧ (t < 2 ∨ 2 ≤ d.power → e.mem = d.mem)
        ∧ d.KeepsRegs e [F.pwrStatusState.addr, (pwrCnt t).addr] ∧ fine e)
      ∧ (d.on F.pwrStatusWaking = false → (d.pwrCeil < t → Leaves .powerEntryDone s fun e => waking d e 8 ∧ e.pwr = d.pwr ∧ fine e)
        ∧ (t ≤ d.pwrCeil → ¬ fits → Leaves .powerEntryDone s fun e => waking d e 1 ∧ e.pwr = d.pwr ∧ fine e)))
    ∧ (d.on F.pwrStatusEntering = false → exec .powerEntryDone s = .next s)
    ∧ (∀ k, d.pwrNext = some k → d.power ≠ 0 → d.on F.pwrStatusWaking = false → Leaves .wakeScheduled s fun e =>
        let at' := k.2 - ((wakeUs d.power + d.guardFor k.2) * 3145728 + 999) / 1000
        waking (d.reach at') e 1 ∧ e.time.ht = BitVec.ofNat 64 (max d.now at') ∧ fine e)
    ∧ (d.power = 0 ∨ d.on F.pwrStatusWaking = true ∨ d.pwrNext = none → exec .wakeScheduled s = .next s)
    ∧ (∀ (c : WakeCause) (code : Nat),
        (c, code) ∈ [(WakeCause.qcsN, 2), (.twoWire, 3), (.command, 4), (.slowReceiver, 5), (.trigger, 6), (.fault, 7), (.permission, 8), (.debug, 9)] →
        let pwr := if c = .qcsN then { d.pwr with qcsLow := true } else d.pwr
        (∀ same, same = false ∨ d.on F.pwrStatusEntering = false →
          (d.deep = true ∨ (code ∈ [4, 7, 8, 9] ∧ (d.power ≠ 0 ∨ d.on F.pwrStatusEntering = true)) → d.on F.pwrStatusWaking = false →
            Leaves (.wakeRequest ⟨c, same⟩) s fun e => waking d e code ∧ e.pwr = pwr ∧ fine e)
          ∧ (d.on F.pwrStatusWaking = true ∨ (d.power = 0 ∧ d.on F.pwrStatusEntering = false) →
            exec (.wakeRequest ⟨c, same⟩) s = .next { s with dev := { d with pwr := pwr } }))
        ∧ (d.on F.pwrStatusEntering = true → Leaves (.wakeRequest ⟨c, true⟩) s fun e =>
            e.on F.pwrStatusEntering = false ∧ e.on F.pwrStatusWaking = d.on F.pwrStatusWaking ∧ e.power = d.power
            ∧ e.pwr = { pwr with target := 0, sched := none } ∧ e.mem = d.mem ∧ d.KeepsRegs e [F.pwrStatusState.addr] ∧ fine e))
    ∧ (d.on F.pwrStatusWaking = true → d.on F.pwrStatusEntering = false → d.power ≠ 3 ∨ d.pwr.vcore = true → Leaves .wakeDone s fun e =>
        e.power = 0 ∧ e.on F.pwrStatusWaking = false ∧ e.pwr.late = false ∧ e.now = d.now
        ∧ e.get F.pwrCntLatewake
            = min (2 ^ 32 - 1) (d.get F.pwrCntLatewake + if d.pwr.late || d.knownEvents.any fun k => decide (k.2 < d.now) then 1 else 0)
        ∧ (2 ≤ d.power → e.twt.stretch = false ∧ e.twt.strExp = false
            ∧ switchesOff e)
        ∧ (d.power < 2 → e.mem = d.mem))
    ∧ (d.on F.pwrStatusWaking = false → exec .wakeDone s = .next s))
  ∧ (∀ (s : State) (src : Src),
    let d := s.dev
    let at' := d.get F.pwrFloorAtLo + 2 ^ 32 * d.get F.pwrFloorAtHi
    let floorOf (b e : Dev) (pend active : Bool) : Prop := e.on F.pwrFloorPend = pend ∧ e.on F.pwrFloorActive = active
      ∧ b.KeepsRegs e [F.pwrFloorArm.addr, F.pwrStatusState.addr, F.pwrLastWake.addr] ∧ e.mem = d.mem ∧ e.cue = d.cue
    let floor := floorOf d
    (d.TakesField src F.pwrFloorArm 1 →
      (d.now < at' → Leaves (.floorArm src) s fun e => floor e true false
        ∧ e.pwr = { d.pwr with floorAt := BitVec.ofNat 64 at', floorState := d.get F.pwrFloorState })
      ∧ (at' ≤ d.now → Leaves (.floorArm src) s fun e => floor e false true
        ∧ e.pwr = { d.pwr with floorAt := BitVec.ofNat 64 at', floorState := d.get F.pwrFloorState }))
    ∧ (d.TakesField src F.pwrFloorClr 1 → Leaves (.floorClr src) s fun e => floor e false false ∧ e.pwr = d.pwr)
    ∧ (d.time.counting = true → d.on F.pwrFloorPend = true → Leaves .floorReached s fun e =>
        floorOf (d.reach d.pwr.floorAt.toNat) e false true ∧ e.time.ht = BitVec.ofNat 64 (max d.now d.pwr.floorAt.toNat))
    ∧ (d.on F.pwrFloorPend = false → exec .floorReached s = .next s))

/-- Resets (R400 to R404) and supplies (R388): a CORE reset returns every CORE register and block to its reset value and keeps the AON
registers, the time, the arrays and the fuses; a system reset also returns the AON domain, and house time restarts at 0; each sets its
cause. Bound voices stop, with their runtime words (R132). A power-on reset leaves one cause, wipes every array and samples TADDR; a loss of
VAON or VIO_A makes one that is held until the supplies of step 1 return (R405). RESET_N shorter than 100 ns does nothing, and from 1 µs on it
resets; in between it may. -/
def Obligations.Resets : Prop :=
  ∀ (s : State), s.dev.mem.flash.page = none →
    let d := s.dev
    let cause (e : Dev) (n : Nat) : Prop := e.reg F.sysRstCausePor.addr = d.reg F.sysRstCausePor.addr ||| (1#32 <<< n)
    let blocks (e : Dev) : Prop := (∀ th, e.thread th = Thread.zero) ∧ (∀ v, (e.voice v).bound = false) ∧ e.alc.queue = [] ∧ e.hcp.stream = []
      ∧ e.hcp.rsp = [] ∧ (∀ p, e.port p = Port.zero) ∧ e.isReady = false ∧ e.sys.lc = d.sys.lc ∧ e.sys.wiped = d.sys.wiped
    let kept (e : Dev) : Prop := ((∀ v, (d.voice v).bound = false) → e.mem.bytes = d.mem.bytes ∧ e.mem.tags = d.mem.tags)
      ∧ (d.mem.wiping = 0 → ∀ x, spaceOf x ≠ .par → e.byte x = d.byte x)
    let cored (e : Dev) (n : Nat) : Prop := cause e n ∧ blocks e ∧ kept e ∧ e.time.ht = d.time.ht
      ∧ e.tcu = d.tcu ∧ e.power = 0
      ∧ (∀ a, aonReg a = false → a ≠ F.fltLasting.addr → a ≠ F.memStatusWiping.addr → a ≠ (F.fltStatWcnt 0).addr → e.reg a = regReset a)
      ∧ (∀ a, aonReg a = true → a ∉ [F.sysRstCausePor.addr, F.pwrHost.addr, F.pwrFloorArm.addr, F.pwrStatusState.addr] → e.reg a = d.reg a)
    let systemed (e : Dev) : Prop := blocks e ∧ kept e ∧ e.now = 0 ∧ e.time.counting = false
      ∧ e.sys.phase = .awaitXi ∧ (∀ n, (e.chan n).run = false ∧ (e.chan n).armed = false)
      ∧ (∀ a, a ≠ F.sysRstCausePor.addr → a ≠ F.memStatusWiping.addr → e.reg a = regReset a)
    let wipes (e : Dev) : Prop := systemed e ∧ e.reg F.sysRstCausePor.addr = 1 ∧ e.mem.wiping = 0x1FFF ∧ e.on F.memStatusWiping = true
    (∀ taddr vioB18, Leaves (.powerOnReset taddr vioB18) s fun e => wipes e ∧ e.twt.addrPins = taddr ∧ e.pwr.vioB18 = vioB18)
    ∧ (∀ ns, (ns < 100 → exec (.resetPin ns) s = .next s)
        ∧ (1000 ≤ ns → Leaves (.resetPin ns) s fun e => systemed e ∧ cause e 1)
        ∧ (100 ≤ ns → ns < 1000 → Leaves (.resetPin ns) s fun e => (systemed e ∧ cause e 1) ∨ e = { d with fresh := d.fresh + 1 }))
    ∧ (∀ src, (d.Takes src F.sysRstReq.addr 1 → Leaves (.sysRstReq src 1) s fun e => cored e 3 ∧ e.out.status = [.ok])
        ∧ (d.Takes src F.sysRstReq.addr 2 → Leaves (.sysRstReq src 2) s fun e => systemed e ∧ cause e 2 ∧ e.out.status = [.ok])
        ∧ (∀ k ∈ [0, 3], d.Takes src F.sysRstReq.addr (BitVec.zeroExtend 32 k) → Leaves (.sysRstReq src k) s fun e =>
            e.out.status = [.earg] ∧ e.sys = d.sys ∧ e.mem = d.mem ∧ d.KeepsRegs e [F.twtErrAddr.addr]))
    ∧ (d.power ≠ 3 → Leaves .coreBrownout s fun e => cored e 4 ∧ e.pwr.vcore = false)
    ∧ (d.power = 3 → exec .coreBrownout s = .next { s with dev := { d with pwr := { d.pwr with vcore := false } } })
    ∧ (d.coreOn = true → d.halted = false → Leaves .hkpWatchdog s fun e => cored e 5)
    ∧ (d.coreOn = false ∨ d.halted = true → exec .hkpWatchdog s = .next s)
    ∧ (let held (p : PwrS) : PwrS := { p with porHeld := p.porHeld && !(p.vaon && p.vcore && p.vioA && p.vana) }
       let returns (v : Supply) (p : PwrS) : Prop := exec (.supplyMonitor v true) s = .next { s with dev := { d with pwr := held p } }
       (∀ v ∈ [Supply.vaon, .vioA], Leaves (.supplyMonitor v false) s fun e => wipes e ∧ e.twt.addrPins = d.twt.addrPins ∧ e.pwr.porHeld = true
          ∧ e.pwr.vaon = (d.pwr.vaon && decide (v ≠ .vaon)) ∧ e.pwr.vioA = (d.pwr.vioA && decide (v ≠ .vioA)))
        ∧ returns .vaon { d.pwr with vaon := true } ∧ returns .vioA { d.pwr with vioA := true } ∧ returns .vcore { d.pwr with vcore := true }
        ∧ returns .vana { d.pwr with vana := true })
    ∧ (d.pwr.vana = true → Leaves (.supplyMonitor .vana false) s fun e =>
        e.pwr = { d.pwr with vana := false } ∧ e.outp.faultClamp = true ∧ d.KeepsRegs e [F.dacRangeFallback.addr] ∧ e.mem = d.mem)
    ∧ (d.get F.ua1StatusState ≠ 0 → Leaves (.supplyMonitor .vioB false) s fun e =>
        e.pwr = { d.pwr with vioB := false } ∧ e.get F.ua1StatusState = 5 ∧ e.get F.ua1StatusFail = 9 ∧ e.mem = d.mem)

/-- Start-up (R405, R412, R413, R435 to R437, R441, R443): each step waits for the one before it. XI makes house time count; the PLL releases
the CORE domain and the repair fuses are read; after the wipe the journal is recovered; the running slot boots, or an armed package is tried, and without
either the state is RECOVERY; the copy is tried or the package discarded; an unwiped life-cycle state erases both settings records; READY
is set with its attention cause. -/
def Obligations.StartUpSteps : Prop :=
  ∀ (s : State),
    let d := s.dev
    let at' (p : Phase) : Prop := d.sys.phase = p
    let hkp := d.coreOn = true ∧ d.halted = false
    let to' (p : Phase) : SysS := { d.sys with phase := p }
    (at' .awaitXi → d.pwr.vana = true → d.pwr.porHeld = false → exec .xiQualified s = .next { s with dev := { d with
        sys := to' .awaitPll, time := { d.time with counting := true } } })
    ∧ (¬ at' .awaitXi ∨ d.pwr.porHeld = true → exec .xiQualified s = .next s)
    ∧ (Leaves .sxiQualified s fun e => e.on F.pwrStatusSxiOk = true ∧ d.KeepsRegs e [F.pwrStatusSxiOk.addr] ∧ e.mem = d.mem ∧ e.sys = d.sys)
    ∧ (at' .awaitPll → d.pwr.vcore = true → d.pwr.vana = true → Leaves .pllLocked s fun e =>
        e.sys = to' .awaitJournal ∧ e.twt.stretch = false ∧ e.mem = d.mem
        ∧ ∀ b, b < 13 → e.get (F.memRepairUsed b) = (Tab.get (fun _ => (0#3)) d.sys.repair b).toNat % 2 ^ (F.memRepairUsed b).w
            ∧ e.on (F.memRepairFuseErr b) = d.sys.fuseErr.getLsbD b)
    ∧ (¬ at' .awaitPll → exec .pllLocked s = .next s)
    ∧ (d.mem.wiping ≠ 0 → exec .journalRecovery s = .next s)
    ∧ (hkp → at' .awaitJournal → d.mem.wiping = 0 → Leaves .journalRecovery s fun e => e.sys = to' .awaitStart ∧ e.time = d.time ∧ e.cue = d.cue
        ∧ e.mem.flash.erasing = none)
    ∧ (hkp → at' .awaitStart → d.upd.copy = none → d.on F.updStatusLibCommit = false →
        (∀ b, d.runSlot = some b → d.pkgHeld = false → Leaves .startTimeDecision s fun e =>
          e.sys = to' .awaitSettings ∧ e.get F.updStatusRunSlot = b ∧ e.upd = d.upd)
        ∧ (d.runSlot = none → d.pkgHeld = false → Leaves .startTimeDecision s fun e =>
          e.sys = d.sys ∧ e.get F.updStatusState = 3 ∧ e.upd = d.upd)
        ∧ (∀ b i, d.runSlot = some b → d.armed = some i → d.slotPkg b ≠ d.pkgId → d.tried 2 = false → d.slotValid d.idleSlot = true →
            d.idleHolds = true → Leaves .startTimeDecision s fun e =>
              e.sys = to' .awaitSettings ∧ e.upd.trial = true ∧ e.get F.updStatusRunSlot = d.idleSlot ∧ e.get F.updToken ≠ 0
              ∧ e.marked (mkTry d.idleSlot i) = true))
    ∧ (∀ i, hkp → at' .awaitStart → d.upd.copy = some i →
        (d.copyReason = 0 → (∃ key, d.unwrap d.pkgHead = some key) → Leaves .imageCopy s fun e =>
          e.sys = to' .awaitSettings ∧ e.upd.trial = true ∧ e.upd.copy = none ∧ e.upd.deadline = d.now + 120000 * blockTk
          ∧ e.get F.updToken ≠ 0 ∧ e.get F.updCntTrial = min (2 ^ 32 - 1) (d.get F.updCntTrial + 1))
        ∧ (d.copyReason ≠ 0 → Leaves .imageCopy s fun e =>
          e.marked mkDiscard = true ∧ e.upd.copy = none ∧ e.get F.updReasonCode = d.copyReason ∧ e.upd.trial = d.upd.trial
          ∧ (∀ b, d.runSlot = some b → e.sys = to' .awaitSettings) ∧ (d.runSlot = none → e.sys = d.sys)))
    ∧ (hkp → d.on F.updStatusLibCommit = true →
        (d.pkgPart 4 = none ∨ d.unwrap d.pkgHead = none → Leaves .libraryCommit s fun e =>
          e.get F.updReasonCode = 7 ∧ e.mem = d.mem ∧ e.upd = d.upd)
        ∧ ((d.pkgPart 4).isSome = true → (d.unwrap d.pkgHead).isSome = true → Leaves .libraryCommit s fun e => e.upd = d.upd
          ∧ ((e.on F.updStatusLibCommit = false ∧ e.on F.updEventLibDone = true ∧ e.marked mkLibDone = true)
            ∨ (e.on F.updStatusLibCommit = true ∧ e.get F.updReasonCode = 8
                ∧ e.get F.updCntCrcerr = min (2 ^ 32 - 1) (d.get F.updCntCrcerr + 1)))))
    ∧ (hkp → at' .awaitSettings →
        (d.stateWiped = false → Leaves .lcWipe s fun e => e.stateWiped = true ∧ e.sys.lc = d.sys.lc
          ∧ e.sys.keysOff = (d.sys.keysOff || decide (d.sys.lc = 3#2)) ∧ ∀ i, i < 0x20000 → e.byte (flashBase + 0x300000 + i) = 0xFF)
        ∧ (d.stateWiped = true → exec .lcWipe s = .next s)
        ∧ (d.stateWiped = true → d.upd.trial = false → d.newest (d.slotRec d.bootSlot) = none → ∀ l, Leaves (.settingsApply l) s fun e =>
          e.sys = to' .ready ∧ e.on F.updStatusSettingsUnread = true ∧ e.on F.updEventSettingsUnread = true ∧ e.mem = d.mem
          ∧ d.KeepsRegs e [F.updStatusSettingsUnread.addr, F.updEventSettingsUnread.addr]))
    ∧ (hkp → at' .ready → d.isReady = false → Leaves .startupReady s fun e =>
        e.isReady = true ∧ e.on F.hcpAttnCauseReset = true ∧ e.mem = { d.mem with windowOpen := true }
        ∧ (∃ x, x ≤ 2 ∧ e.get F.sysStartMs = min 65535 ((d.now - d.sys.startAt) / blockTk + x))
        ∧ (d.sys.mgmtReset = true → d.twt.cmd.isSome = true → e.twt.cmd = none ∧ e.twt.seq = d.twt.seq + 1
          ∧ e.twt.lastSt = if d.twt.cmdBad then d.twt.lastSt else 0))
    ∧ (d.isReady = true → exec .startupReady s = .next s)

/-- The life cycle (R410 to R412): a request for a later state is pending, one for the present state is EARG, one for an earlier state EPERM;
its confirmation mutes and starts the transition, and any other confirmation withdraws the request with EARG; while a confirmed transition
waits, nothing changes it (a further request is EBUSY, the model's choice, log 18); a request lapses after 1,000 ms; the transition programs the state's fuses and makes a system reset that wipes every array. -/
def Obligations.LifeCycleSteps : Prop :=
  ∀ (s : State),
    let d := s.dev
    let y := d.sys
    (∀ src (t : BitVec 2),
      (d.Takes src F.sysLcReqTarget.addr (BitVec.ofNat 32 t.toNat) →
        (y.lcGo = none → y.lc.toNat < t.toNat → Leaves (.sysLcReq src t false) s fun e =>
          e.sys = { y with lcPend := some t, lcSince := d.now } ∧ e.out.status = [.ok] ∧ d.KeepsRegs e [] ∧ e.mem = d.mem)
        ∧ (t.toNat ≤ y.lc.toNat → Leaves (.sysLcReq src t false) s fun e =>
          e.out.status = [if t = y.lc then .earg else .eperm] ∧ e.sys = y ∧ d.KeepsRegs e [F.twtErrAddr.addr] ∧ e.mem = d.mem))
      ∧ (d.Takes src F.sysLcReqTarget.addr (BitVec.ofNat 32 (t.toNat + 0x80)) →
        (y.lcGo.isSome = true → Leaves (.sysLcReq src t true) s fun e => e.sys = y ∧ e.mem = d.mem ∧ d.KeepsRegs e [F.twtErrAddr.addr]
          ∧ e.out.status = [if t.toNat < y.lc.toNat then .eperm else if t = y.lc then .earg else .ebusy])
        ∧ (y.lcGo = none →
        let fits := y.lcPend = some t ∧ d.now ≤ y.lcSince + 1000 * blockTk
        (fits → Leaves (.sysLcReq src t true) s fun e =>
          e.sys = { y with lcGo := some t, lcSince := d.now } ∧ e.on F.outMuteMute = true ∧ e.out.status = [.ok]
          ∧ d.KeepsRegs e [F.outMuteMute.addr] ∧ e.mem = d.mem)
        ∧ (¬ fits → Leaves (.sysLcReq src t true) s fun e =>
          e.out.status = [.earg] ∧ e.sys = { y with lcPend := none } ∧ d.KeepsRegs e [F.twtErrAddr.addr] ∧ e.mem = d.mem))))
    ∧ (y.lcPend.isSome = true → y.lcGo = none →
        let r := d.reach (y.lcSince + 1000 * blockTk)
        exec .lcRequestLapse s = .next { s with dev := { r with sys := { y with lcPend := none } } }
        ∧ r.time.ht = BitVec.ofNat 64 (max d.now (y.lcSince + 1000 * blockTk)))
    ∧ (y.lcPend = none ∨ y.lcGo.isSome = true → exec .lcRequestLapse s = .next s)
    ∧ (∀ t, y.lcGo = some t → d.mem.flash.page = none →
        (d.portsSilent = true ∨ y.lcSince + 64 * d.period ≤ d.now → Leaves .lcTransition s fun e =>
          e.sys.lc = t ∧ e.sys.lcPend = none ∧ e.sys.lcGo = none ∧ e.sys.wiped = y.wiped ∧ e.sys.phase = .awaitXi ∧ e.now = 0
          ∧ e.mem.wiping = 0x1FFF ∧ e.reg F.sysRstCausePor.addr = d.reg F.sysRstCausePor.addr ||| (1#32 <<< 7)
          ∧ ∀ a, a ≠ F.sysRstCausePor.addr → a ≠ F.memStatusWiping.addr → e.reg a = regReset a)
        ∧ (d.portsSilent = false → d.now < y.lcSince + 64 * d.period → exec .lcTransition s = .next s))
    ∧ (y.lcGo = none → exec .lcTransition s = .next s)

/-! ### Field update (chapter 13) -/

/-- The bodies of the update steps (R430 to R433, R436, R442): a body runs while its step is open, and ends it with a reason of Table 13.11.
SCAN refuses a package by its header or programs its block 0; STAGE programs every block whose CRC matches and stops at the first that does
not; VERIFY checks blocks, naming the part that holds a bad one, compatibility and signature in that order; ACTIVATE arms the next reset; CANCEL discards; SAVE leaves the newer
settings copy as it is; EJECT deactivates the card. -/
def Obligations.UpdateSteps : Prop :=
  ∀ (s : State), s.dev.coreOn = true → s.dev.halted = false →
    let d := s.dev
    let h := d.pkgHead
    let open' (code : Nat) : Prop := d.upd.step = some code ∧ d.upd.outcome = none
    let shut (code : Nat) : Prop := d.upd.step ≠ some code ∨ d.upd.outcome.isSome = true
    let ended (e : Dev) (r part blk : Nat) : Prop :=
      e.upd.outcome = some (reasonStatus r, r, part, blk) ∧ e.upd.step = d.upd.step ∧ e.upd.trial = d.upd.trial ∧ e.cue = d.cue ∧ e.sys = d.sys
    let parted (e : Dev) (r i : Nat) : Prop := ∃ p, ended e r p i
      ∧ let holds (k : Nat) : Prop := k < min 4 (hU h 6 1) ∧ (partOf h k).off / 4096 ≤ i ∧ 4096 * i < (partOf h k).off + (partOf h k).len
        (holds p ∧ ∀ k, k < p → ¬ holds k) ∨ (p = 0 ∧ ∀ k, ¬ holds k)
    let quiet (c : Instr) (r part blk : Nat) : Prop := Leaves c s fun e => ended e r part blk ∧ e.regs = d.regs ∧ e.mem = d.mem
    let kept (e : Dev) (at' n : Nat) : Prop := (∀ x, x < flashBase → e.byte x = d.byte x)
      ∧ (∀ x, x < at' ∨ at' + n ≤ x → e.flashBytes x 1 = d.flashBytes x 1) ∧ d.KeepsRegs e []
    let good := d.classOkay (hU h 7 1) = true
    let crc (e : Dev) : Prop := e.get F.updCntCrcerr = min (2 ^ 32 - 1) (d.get F.updCntCrcerr + 1)
    (open' 0x60 → Leaves .eject s fun e => ended e 0 0 0 ∧ d.KeepsRegs e [F.ua1StatusState.addr] ∧ e.mem = d.mem
        ∧ e.card = if d.card = Card.off then Card.off else Card.deactivating)
    ∧ (open' 0x40 → Leaves .cancel s fun e => ended e 0 0 0 ∧ e.marked mkDiscard = true ∧ kept e mkDiscard 4)
    ∧ (open' 0x30 → (d.armPending = true → quiet .activate 0 0 0)
        ∧ (d.armPending = false → ¬ good → quiet .activate 5 0 0)
        ∧ (∀ r, d.armPending = false → good → d.compat = some r → quiet .activate r 0 0)
        ∧ (d.armPending = false → good → d.compat = none →
            let m := if d.tried 1 = true then mkArm2 else mkArm1
            Leaves .activate s fun e => ended e 0 0 0 ∧ e.marked m = true ∧ e.upd.wantReset = d.on F.updCfgActReset ∧ kept e m 4))
    ∧ (∀ b, open' 0x20 → (¬ good → quiet (.verify b) 5 0 0)
        ∧ (good → d.marked mkSig = true →
          (∀ i, d.badBlock = some i → Leaves (.verify b) s fun e => parted e 8 i ∧ crc e ∧ d.KeepsRegs e [F.updCntCrcerr.addr] ∧ e.mem = d.mem)
          ∧ (d.badBlock = none → (d.compat = some 12 → quiet (.verify b) 12 0 0)
            ∧ (d.compat ≠ some 12 → d.signatureOk = false → quiet (.verify b) 13 0 0)
            ∧ (d.compat = some 11 → d.signatureOk = true → quiet (.verify b) 11 0 0)
            ∧ (d.compat = none → d.signatureOk = true → Leaves (.verify b) s fun e =>
                ended e 0 0 0 ∧ e.marked mkVerified = true ∧ kept e mkVerified 4))))
    ∧ (open' 0x01 → d.card = Card.ready →
        (∀ l, l.length = 0x500 → (d.scanReason l ≠ 0 → Leaves (.scan (.bytes l)) s fun e => ended e (d.scanReason l) 0 0 ∧ e.mem = d.mem)
          ∧ (d.scanReason l = 0 → headId l ≠ d.pkgId → Leaves (.scan (.bytes l)) s fun e => ended e 0 0 0 ∧ e.pkgHead = l))
        ∧ (∀ why, 2 ≤ why.val → Leaves (.scan (.failure why)) s fun e => ended e 1 0 0 ∧ e.card = Card.deactivating ∧ e.mem = d.mem
            ∧ e.get F.ua1StatusFail = why.val)
        ∧ (∀ n sw1 sw2 k, n < 7 → ¬ (sw1 = 0x90 ∧ sw2 = 0) → Leaves (.scan (.badStatus n sw1 sw2 k)) s fun e => ended e 2 0 0 ∧ e.card = Card.ready ∧ e.mem = d.mem
            ∧ e.get F.ua1ResultSw1 = sw1.toNat ∧ e.get F.ua1ResultSw2 = sw2.toNat))
    ∧ (∀ k bs, k < 4 → open' (0x10 + k) →
        let p := partOf h k
        let n := (p.len + 4095) / 4096
        let b := p.off / 4096
        (¬ good → quiet (.stage bs) 5 k 0)
        ∧ (good → d.marked (mkStaged k) = true → quiet (.stage bs) 0 k 0)
        ∧ (good → d.marked (mkStaged k) = false → d.card = Card.ready → 1 ≤ b → b + n ≤ 256 → d.mem.flash.erasing = none →
          ((∀ i, i < n → ∃ l, bs[i]? = some ⟨.bytes l, true⟩ ∧ l.length = 4096 ∧ (crc32c l).toNat = d.checkEntry (b + i)) →
            Leaves (.stage bs) s fun e => ended e 0 k 0 ∧ e.marked (mkStaged k) = true ∧ e.get F.updProgressDone = n
              ∧ ∀ i l, i < n → bs[i]? = some ⟨.bytes l, true⟩ → e.flashBytes (stagingBase + 4096 * (b + i)) 4096 = l)
          ∧ (∀ l rb t, bs = ⟨.bytes l, rb⟩ :: t → 0 < n → l.length = 4096 → (crc32c l).toNat ≠ d.checkEntry b →
            Leaves (.stage bs) s fun e => ended e 8 k b ∧ crc e ∧ e.mem = d.mem)))
    ∧ (∀ l, open' 0x50 → l.length ≤ 4092 → d.slotRec d.bootSlot ≤ 1 → d.mem.flash.erasing = none → Leaves (.save l) s fun e =>
        ended e 0 0 0 ∧ ∀ c, d.newest (d.slotRec d.bootSlot) = some c → ∀ i, i < 0x8000 → e.flashBytes (c + i) 1 = d.flashBytes (c + i) 1)
    ∧ (shut 0x60 → exec .eject s = .next s) ∧ (shut 0x40 → exec .cancel s = .next s) ∧ (shut 0x30 → exec .activate s = .next s)
    ∧ (∀ b, shut 0x20 → exec (.verify b) s = .next s) ∧ (∀ r, shut 0x01 → exec (.scan r) s = .next s)
    ∧ (∀ l, shut 0x50 → exec (.save l) s = .next s)
    ∧ (∀ bs, (∀ k, k < 4 → shut (0x10 + k)) → exec (.stage bs) s = .next s)

/-- The end of an update step (R430, R447): STATE leaves BUSY, LAST_ST and UPD_REASON take the outcome, STEP_DONE is set and the counters
count; an ACTIVATE with ACT_RESET then makes a CORE reset (R436).
Trials (R437 to R439): the side that MGMT_CONFIRM names confirms with the current token; a wrong token is EARG with reason 16 and counts, a
confirmation without self-test, in another state than TRIAL or too late is ESTATE, and one from the other side EPERM. An accepted one stops the deadline; once its
marker is programmed the trial has ended and the slot runs for every later start. A deadline that is reached makes a CORE reset. -/
def Obligations.UpdateEndsAndTrials : Prop :=
  (∀ (s : State), s.dev.coreOn = true → s.dev.halted = false →
    let d := s.dev
    (∀ code st r part blk, d.upd.step = some code → d.upd.outcome = some (st, r, part, blk) → r < 256 → part < 256 → blk < 65536 →
      (d.upd.wantReset = false → Leaves .updStepDone s fun e =>
        e.upd = { d.upd with step := none, outcome := none }
        ∧ e.get F.updStatusState = (if d.upd.trial = true then 2 else if d.runSlot = none then 3 else 0)
        ∧ e.get F.updStatusLastSt = st.code ∧ e.get F.updReasonCode = r ∧ e.get F.updReasonPart = part ∧ e.get F.updReasonBlock = blk
        ∧ e.on F.updEventStepDone = true ∧ e.on F.ua1StatusUpd = false ∧ e.get F.updStatusStep = d.get F.updStatusStep
        ∧ e.get F.updCntStep = min (2 ^ 32 - 1) (d.get F.updCntStep + if st = .ok then 1 else 0)
        ∧ e.get F.updCntCarderr = min (2 ^ 32 - 1) (d.get F.updCntCarderr + if r = 1 ∨ r = 2 then 1 else 0)
        ∧ e.get F.updCntSigfail = min (2 ^ 32 - 1) (d.get F.updCntSigfail + if r = 13 then 1 else 0)
        ∧ e.mem = d.mem ∧ e.cue = d.cue ∧ e.sys = d.sys)
      ∧ (d.upd.wantReset = true → Leaves .updStepDone s fun e =>
        e.reg F.sysRstCausePor.addr = d.reg F.sysRstCausePor.addr ||| (1#32 <<< 3) ∧ e.upd.step = none ∧ e.isReady = false
        ∧ e.sys.phase = .awaitPll ∧ e.time.ht = d.time.ht))
    ∧ (d.upd.step = none ∨ d.upd.outcome = none → exec .updStepDone s = .next s))
  ∧ (∀ (s : State),
    let d := s.dev
    let u := d.upd
    let b := d.bootSlot
    let hkp := d.coreOn = true ∧ d.halted = false
    let lib := (d.pkgPart 4).isSome = true ∧ d.idleHolds = true
    let tells (c : Instr) (st : Status) (P : Dev → Prop) : Prop := Leaves c s fun e => e.out.status = [st] ∧ e.mem = d.mem ∧ e.cue = d.cue
      ∧ d.KeepsRegs e [F.updStatusState.addr, F.updCntBadtoken.addr, F.updReasonCode.addr, F.twtErrAddr.addr] ∧ P e
    (∀ (byHkp : Bool) (src : Src) (token : Word) (selfTest : Bool),
      let c : Instr := .updConfirm byHkp src token selfTest
      let passed := d.on F.updStatusSelftestOk = true ∨ (selfTest = true ∧ u.trial = true)
      let ready := d.get F.updStatusState = 2 ∧ u.confirming = false ∧ d.now < u.deadline ∧ passed
      hkp → (byHkp = false → d.Takes src F.updConfirm.addr token) →
        (d.on F.updCfgMgmtConfirm = byHkp → tells c .eperm fun e => e.upd = u ∧ e.get F.updCntBadtoken = d.get F.updCntBadtoken)
        ∧ (d.on F.updCfgMgmtConfirm ≠ byHkp →
          (token = d.tokenNow → ready → tells c .ok fun e => e.upd = { u with confirming := true } ∧ (lib → e.on F.updStatusLibCommit = true)
            ∧ (¬ lib → e.on F.updStatusLibCommit = d.on F.updStatusLibCommit) ∧ e.on F.updStatusSelftestOk = true)
          ∧ (token ≠ d.tokenNow → tells c .earg fun e => e.upd = u ∧ e.get F.updReasonCode = 16
            ∧ e.get F.updCntBadtoken = min (2 ^ 32 - 1) (d.get F.updCntBadtoken + 1))
          ∧ (token = d.tokenNow → ¬ ready → tells c .estate fun e => e.upd = u ∧ e.get F.updCntBadtoken = d.get F.updCntBadtoken)))
    ∧ (u.confirming = true → Leaves .confirmedMarkerDone s fun e =>
        e.upd = { u with trial := false, confirming := false } ∧ e.get F.updToken = 0 ∧ e.on F.updEventConfirmed = true
        ∧ e.get F.updStatusState = (if u.step = none then 0 else 1) ∧ e.marked (mkConfirmed b) = true ∧ e.tokenNow = 0
        ∧ (∀ x, x < flashBase → e.byte x = d.byte x)
        ∧ (∀ x, x < mkConfirmed b ∨ mkConfirmed b + 4 ≤ x → e.flashBytes x 1 = d.flashBytes x 1)
        ∧ (d.slotValid b = true → ((d.slotValid (1 - b) && d.marked (mkConfirmed (1 - b))) = true → d.slotGen (1 - b) < d.slotGen b) →
            e.runSlot = some b))
    ∧ (u.confirming = false → exec .confirmedMarkerDone s = .next s)
    ∧ (u.trial = true → u.confirming = false → Leaves .trialDeadline s fun e =>
        e.reg F.sysRstCausePor.addr = d.reg F.sysRstCausePor.addr ||| (1#32 <<< 5) ∧ e.isReady = false ∧ e.upd.trial = false
        ∧ e.time.ht = BitVec.ofNat 64 (max d.now u.deadline) ∧ e.upd.token = u.token)
    ∧ (u.trial = false ∨ u.confirming = true → exec .trialDeadline s = .next s))

/-! ### Faults and integrity (chapter 14) -/

/-- Clearing classes (R461): each class named loses its history, has WCNT 0 and is TRANSIENT, with a log entry if it was LASTING; its
count, and every other class, stay. The write is refused whole while class 6 or class 9 may not be cleared. A read of the log takes its
oldest entry (R455); a write of PORT empties the history of signatures and a signature is compared with the newest one of its block number (R456); HEALTH falls half a block
after its edge (R459). -/
def Obligations.FaultRegisters : Prop :=
  ∀ (s : State) (src : Src),
    let d := s.dev
    let still (e : Dev) : Prop := e.mem = d.mem ∧ e.cue = d.cue ∧ e.sys = d.sys ∧ e.time = d.time
    (∀ (classes : BitVec 10), d.TakesField src F.fltClear classes.toNat → Leaves (.fltClear src classes) s fun e =>
      (∀ x, x < 10 → (classes.getLsbD x = true → e.hist x = [] ∧ e.get (F.fltStatWcnt x) = 0 ∧ e.lasting x = false)
        ∧ (classes.getLsbD x = false → e.hist x = d.hist x ∧ e.get (F.fltStatWcnt x) = d.get (F.fltStatWcnt x) ∧ e.lasting x = d.lasting x)
        ∧ e.get (F.fltCnt x) = d.get (F.fltCnt x))
      ∧ (d.flt.log.length ≤ 32 →
          let gone := (List.range 10).filter fun x => classes.getLsbD x && d.lasting x
          let all := d.flt.log ++ gone.map fun x => ⟨x, Kind.transient, 0, BitVec.ofNat 64 d.blockIx, 0⟩
          e.flt.log = all.drop (all.length - 32))
      ∧ e.out.status = [.ok] ∧ still e ∧ e.loop = d.loop ∧ d.KeepsRegs e [])
    ∧ (∀ (classes : BitVec 10), src.path = .mgmt → d.reaches .mgmt F.fltClear.addr = true →
        (classes.getLsbD 6 = true ∧ d.on F.dacStatusOt = true) ∨ (classes.getLsbD 9 = true ∧ d.anyFuseErr = true) →
        Leaves (.fltClear src classes) s fun e => e.out.status = [.estate] ∧ e.flt = d.flt ∧ still e
          ∧ (∀ x, x < 10 → e.lasting x = d.lasting x ∧ e.get (F.fltStatWcnt x) = d.get (F.fltStatWcnt x)) ∧ d.KeepsRegs e [F.twtErrAddr.addr])
    ∧ (∀ p, d.reaches p F.fltLogInfoValid.addr = true →
        (d.flt.log = [] → Leaves (.fltLogRead p) s fun e => e.out.data = [0] ∧ e.flt.log = [] ∧ e.regs = d.regs ∧ still e
          ∧ Tab.get (fun _ => (0, 0)) e.flt.latch p.rank = (0, 0))
        ∧ (∀ x l, d.flt.log = x :: l → Leaves (.fltLogRead p) s fun e => e.out.data = [x.info] ∧ e.flt.log = l ∧ e.regs = d.regs ∧ still e
          ∧ Tab.get (fun _ => (0, 0)) e.flt.latch p.rank = (x.blk.truncate 32, x.detail)
          ∧ ∀ q : Path, q.rank ≠ p.rank → Tab.get (fun _ => (0, 0)) e.flt.latch q.rank = Tab.get (fun _ => (0, 0)) d.flt.latch q.rank))
    ∧ (∀ port : BitVec 3, d.TakesField src F.fltPeerCfg port.toNat → d.MaySet src F.fltPeerCfg → Leaves (.fltPeerCfgWrite src port) s fun e =>
        e.flt = { d.flt with peer := [] } ∧ e.get F.fltPeerCfg = port.toNat ∧ still e ∧ d.KeepsRegs e [])
    ∧ (∀ sig, d.Takes src F.fltPeerSig.addr sig →
        let held := d.flt.peer.reverse.find? fun x => x.1 == d.reg F.fltPeerBlk.addr
        let shows (code : Nat) (f : Fld) : Prop := d.MaySet src F.fltPeerSig → Leaves (.peerCompare src sig) s fun e =>
          e.get F.fltPeerStat = code ∧ e.get f = min (2 ^ 32 - 1) (d.get f + 1) ∧ e.flt.peer = d.flt.peer ∧ still e ∧ d.KeepsRegs e []
        ((∃ b, held = some (b, sig, false)) → shows 1 F.fltPeerCntMatch)
        ∧ ((∃ b own, own ≠ sig ∧ held = some (b, own, false)) → shows 2 F.fltPeerCntMismatch)
        ∧ (held = none ∨ (∃ b own, held = some (b, own, true)) → shows 3 F.fltPeerCntUnknown))
    ∧ (d.time.counting = true → d.flt.healthPin = true →
        let at' := blockTk * (d.now / blockTk) + 1572864
        let r := d.reach at'
        exec .healthHalfBlock s = .next { s with dev := { r with flt := { d.flt with healthPin := false } } }
        ∧ r.time.ht = BitVec.ofNat 64 (max d.now at'))
    ∧ (d.flt.healthPin = false → exec .healthHalfBlock s = .next s)

/-! ### JTAG and debug halt (chapter 15) -/

/-- The instructions of the TAP (R485 to R487): each is selected with what its data register captures, and the core runs on; IDCODE shows the
part and its maker; a TAP reset selects IDCODE and leaves debug halt as it is (R489). DBG_REG writes and reads as the management path in
MANUFACTURE and acts as BYPASS in every other state. -/
def Obligations.TapInstructions : Prop :=
  ∀ (s : State),
    let d := s.dev
    let selects (c : Instr) (i : Tap) (capture : Word64) : Prop :=
      exec c s = .next { s with dev := { d with dbg := { d.dbg with ir := i, capture := capture } } }
    let free (c : Instr) (i : Tap) : Prop := ∃ w cells, exec c s = .next { s with dev := { d with
      fresh := d.fresh + 1, dbg := { d.dbg with ir := i, cells := cells, capture := w } } }
    (∃ id : Word, idcode = id ∧ id.truncate 28 = 0x00128B47#28 ∧ (id >>> 28).toNat = Config.revision.toNat % 16
      ∧ selects .idcode .idcode (id.zeroExtend 64) ∧ selects .tapReset .idcode (id.zeroExtend 64))
    ∧ selects .bypass .bypass 0 ∧ selects .clamp .clamp 0 ∧ selects .highz .highz 0
    ∧ free .extest .extest
    ∧ (∀ cells, free (.samplePreload cells) .samplePreload
        ∧ Leaves (.samplePreload cells) s fun e => e.dbg.cells = cells)
    ∧ (∀ w data, d.sys.lc ≠ 0 → selects (.dbgReg w data) .bypass 0)
    ∧ (∀ f v, f ∈ [F.htSetLo, F.htSetHi] → d.sys.lc = 0 → d.Takes ⟨.mgmt, false⟩ f.addr v → d.MaySet ⟨.mgmt, false⟩ f →
        (Leaves (.dbgReg true (BitVec.ofNat 64 (f.addr * 2 ^ 32 + v.toNat))) s fun e =>
          e.reg f.addr = v ∧ e.dbg.ir = .dbgReg ∧ (e.dbg.capture >>> 24).toNat % 256 = Status.ok.code ∧ d.KeepsRegs e [f.addr] ∧ e.mem = d.mem)
        ∧ Leaves (.dbgReg false (BitVec.ofNat 64 (f.addr * 2 ^ 32 + v.toNat))) s fun e =>
          e.out.data = [d.reg f.addr] ∧ e.dbg.ir = .dbgReg ∧ e.dbg.capture.truncate 32 = d.reg f.addr ∧ e.regs = d.regs ∧ e.mem = d.mem)

/-- Debug halt (R488, R489, R491): DBG_HALT and DBG_CTRL.HALT begin it and wake a sleeping part; DBG_RELEASE and DBG_CTRL.RELEASE end it;
DBG_CTRL.RESET makes a CORE reset. The data path, and every path in FIELD and SCRAP, is refused with EPERM; there the TAP instructions act
as BYPASS. -/
def Obligations.DebugHalt : Prop :=
  ∀ (s : State) (src : Src),
    let d := s.dev
    let by' (tap : Bool) (e : Dev) : Prop := e.halted = true ∧ e.on F.dbgStatusByTap = (tap || d.on F.dbgStatusByTap)
      ∧ e.on F.dbgStatusByMgmt = (!tap || d.on F.dbgStatusByMgmt) ∧ e.mem = d.mem ∧ e.cue = d.cue ∧ e.time = d.time
      ∧ d.KeepsRegs e [F.dbgStatusHalted.addr, F.pwrStatusState.addr, F.pwrLastWake.addr]
      ∧ (d.power ≠ 0 → d.on F.pwrStatusWaking = false → e.on F.pwrStatusWaking = true ∧ e.get F.pwrLastWake = WakeCode.debug)
    let ended (e : Dev) : Prop := e.halted = false ∧ e.mem = d.mem ∧ e.cue = d.cue ∧ e.time = d.time
      ∧ (d.halted = true → e.on F.dbgStatusByTap = false ∧ e.on F.dbgStatusByMgmt = false)
    let bypass (c : Instr) : Prop := Leaves c s fun e =>
      e = { d with fresh := d.fresh + 1, dbg := { d.dbg with ir := .bypass, capture := 0 } }
    let rows : List (Instr × Fld) := [(.dbgCtrlHalt src, F.dbgCtrlHalt), (.dbgCtrlRelease src, F.dbgCtrlRelease), (.dbgCtrlReset src, F.dbgCtrlReset)]
    (d.sys.lc.toNat ≤ 1 → (Leaves .dbgHalt s fun e => by' true e ∧ e.dbg.ir = .dbgHalt)
      ∧ Leaves .dbgRelease s fun e => ended e ∧ e.dbg.ir = .dbgRelease)
    ∧ (2 ≤ d.sys.lc.toNat → bypass .dbgHalt ∧ bypass .dbgRelease)
    ∧ (d.TakesField src F.dbgCtrlHalt 1 → Leaves (.dbgCtrlHalt src) s fun e => by' false e ∧ e.out.status = [.ok])
    ∧ (d.TakesField src F.dbgCtrlRelease 1 → Leaves (.dbgCtrlRelease src) s fun e => ended e ∧ e.out.status = [.ok])
    ∧ (d.TakesField src F.dbgCtrlReset 1 → Leaves (.dbgCtrlReset src) s fun e => e.out.status = [.ok] ∧ e.halted = false ∧ e.isReady = false
        ∧ e.reg F.sysRstCausePor.addr = d.reg F.sysRstCausePor.addr ||| (1#32 <<< 6) ∧ e.time.ht = d.time.ht)
    ∧ (∀ x ∈ rows, src.path = .host ∨ src.path = .mgmt → d.reaches src.path x.2.addr = true → src.path = .host ∨ 2 ≤ d.sys.lc.toNat →
        Leaves x.1 s fun e => e.out.status = [.eperm] ∧ e.halted = d.halted ∧ e.sys = d.sys ∧ e.cue = d.cue ∧ e.mem = d.mem
          ∧ d.KeepsRegs e [F.twtErrAddr.addr])
    ∧ (∀ x ∈ rows, src.path = .mgmt → d.reaches .mgmt x.2.addr = true → d.sys.lc.toNat ≤ 1 → d.TakesField src x.2 1)
end

