-- ==== Sys2Proof/Laws/Tab.lean ====
section
/-! SUPPORT. The laws of sparse tables: a read after a write, and the canonical form. -/

namespace Sys2Proof.Machine

variable {α : Type}

theorem Tab.find_nil (k : Nat) : Tab.find ([] : Tab α) k = none := rfl

theorem Tab.find_put_same (t : Tab α) (k : Nat) (v : α) : Tab.find (Tab.put t k v) k = some v := by
  induction t with
  | nil => simp [Tab.put, Tab.find]
  | cons x t ih =>
    obtain ⟨k', v'⟩ := x
    by_cases h : k = k'
    · simp [Tab.put, Tab.find, h]
    · by_cases h2 : k < k'
      · simp [Tab.put, Tab.find, h, h2]
      · simp [Tab.put, Tab.find, h, h2, ih]

/-- Keys of a table are strictly rising and start above `b`. -/
def Tab.rising (b : Option Nat) : Tab α → Prop
  | [] => True
  | (k, _) :: t => (∀ x, b = some x → x < k) ∧ Tab.rising (some k) t

theorem Tab.rising_mono {b c : Option Nat} {t : Tab α} (h : Tab.rising b t)
    (hc : ∀ x, c = some x → ∃ y, b = some y ∧ x ≤ y) : Tab.rising c t := by
  cases t with
  | nil => trivial
  | cons x t =>
    obtain ⟨k, v⟩ := x
    refine ⟨fun x hx => ?_, h.2⟩
    obtain ⟨y, hy, hxy⟩ := hc x hx
    exact Nat.lt_of_le_of_lt hxy (h.1 y hy)

theorem Tab.rising_none {b : Option Nat} {t : Tab α} (h : Tab.rising b t) : Tab.rising none t :=
  Tab.rising_mono h (by simp)

theorem Tab.find_put_other (t : Tab α) {j k : Nat} (v : α) (h : j ≠ k) : Tab.find (Tab.put t k v) j = Tab.find t j := by
  induction t with
  | nil => simp [Tab.put, Tab.find, h]
  | cons x t ih =>
    obtain ⟨k', v'⟩ := x
    by_cases h1 : k = k'
    · subst h1; simp [Tab.put, Tab.find, h]
    · by_cases h2 : k < k'
      · simp [Tab.put, h1, h2, Tab.find, h]
      · simp only [Tab.put, h1, h2, if_false, Tab.find, ih]

theorem Tab.find_del_same (t : Tab α) (k : Nat) : Tab.find (Tab.del t k) k = none := by
  induction t with
  | nil => rfl
  | cons x t ih =>
    obtain ⟨k', v'⟩ := x
    by_cases h : k' = k
    · simpa [Tab.del, h] using ih
    · have h' : k ≠ k' := fun e => h e.symm
      simpa [Tab.del, h, Tab.find, h'] using ih

theorem Tab.find_del_other (t : Tab α) {j k : Nat} (hne : j ≠ k) : Tab.find (Tab.del t k) j = Tab.find t j := by
  induction t with
  | nil => rfl
  | cons x t ih =>
    obtain ⟨k', v'⟩ := x
    by_cases h : k' = k
    · subst h; simpa [Tab.del, Tab.find, hne] using ih
    · have e : Tab.del ((k', v') :: t) k = (k', v') :: Tab.del t k := by simp [Tab.del, h]
      rw [e]; simp only [Tab.find, ih]

theorem Tab.rising_put {b : Option Nat} {t : Tab α} (h : Tab.rising b t) {k : Nat} (v : α) (hb : ∀ x, b = some x → x < k) :
    Tab.rising b (Tab.put t k v) := by
  induction t generalizing b with
  | nil => exact ⟨hb, trivial⟩
  | cons x t ih =>
    obtain ⟨k', v'⟩ := x
    by_cases h1 : k = k'
    · subst h1; simpa [Tab.put] using ⟨hb, h.2⟩
    · by_cases h2 : k < k'
      · simp only [Tab.put, h1, h2, if_true, if_false]
        exact ⟨hb, fun x hx => by cases hx; exact h2, h.2⟩
      · simp only [Tab.put, h1, h2, if_false]
        exact ⟨h.1, ih h.2 (fun x hx => by cases hx; omega)⟩

theorem Tab.rising_filter {b : Option Nat} {t : Tab α} (h : Tab.rising b t) (p : Nat × α → Bool) :
    Tab.rising b (t.filter p) := by
  induction t generalizing b with
  | nil => trivial
  | cons x t ih =>
    obtain ⟨k, v⟩ := x
    simp only [List.filter]
    split
    · exact ⟨h.1, ih h.2⟩
    · exact ih (Tab.rising_mono h.2 fun x hx => ⟨k, rfl, Nat.le_of_lt (h.1 x hx)⟩)

theorem Tab.mem_put {t : Tab α} {k : Nat} {v : α} {x : Nat × α} (h : x ∈ Tab.put t k v) : x = (k, v) ∨ x ∈ t := by
  induction t with
  | nil => simpa [Tab.put] using h
  | cons y t ih =>
    obtain ⟨k', v'⟩ := y
    by_cases h1 : k = k'
    · simp only [Tab.put, h1, if_true, List.mem_cons] at h
      rcases h with h | h <;> simp [h, h1]
    · by_cases h2 : k < k'
      · simp only [Tab.put, h1, h2, if_true, if_false, List.mem_cons] at h
        rcases h with h | h | h <;> simp [h]
      · simp only [Tab.put, h1, h2, if_false, List.mem_cons] at h
        rcases h with h | h
        · simp [h]
        · rcases ih h with h | h <;> simp [h]

/-! ### The canonical form -/

variable [DecidableEq α]

theorem Tab.wf_rising {d : Nat → α} {t : Tab α} (h : Tab.wf d t = true) : Tab.rising none t := by
  suffices ∀ b, (∀ x, b = some x → Tab.above x t = true) → Tab.rising b t from this none (by simp)
  induction t with
  | nil => intro _ _; trivial
  | cons x t ih =>
    obtain ⟨k, v⟩ := x
    simp only [Tab.wf, Bool.and_eq_true] at h
    intro b hb
    refine ⟨fun x hx => by simpa [Tab.above] using hb x hx, ih h.2 (some k) ?_⟩
    intro x hx
    cases hx
    exact h.1.2

theorem Tab.wf_iff {d : Nat → α} {t : Tab α} :
    Tab.wf d t = true ↔ Tab.rising none t ∧ ∀ x ∈ t, x.2 ≠ d x.1 := by
  refine ⟨fun h => ⟨Tab.wf_rising h, ?_⟩, ?_⟩
  · induction t with
    | nil => simp
    | cons x t ih =>
      obtain ⟨k, v⟩ := x
      simp only [Tab.wf, Bool.and_eq_true, decide_eq_true_eq] at h
      simpa using ⟨h.1.1, by simpa using ih h.2⟩
  · induction t with
    | nil => intro _; rfl
    | cons x t ih =>
      obtain ⟨k, v⟩ := x
      rintro ⟨⟨_, hr⟩, hd⟩
      simp only [Tab.wf, Bool.and_eq_true, decide_eq_true_eq]
      refine ⟨⟨hd (k, v) (by simp), ?_⟩, ih ⟨Tab.rising_none hr, fun x hx => hd x (by simp [hx])⟩⟩
      cases t with
      | nil => rfl
      | cons y t => simpa [Tab.above] using hr.1 k rfl

/-- Dropping entries keeps the canonical form. -/
theorem Tab.wf_filter {d : Nat → α} {t : Tab α} (h : Tab.wf d t = true) (p : Nat × α → Bool) :
    Tab.wf d (t.filter p) = true := by
  obtain ⟨hr, hd⟩ := Tab.wf_iff.1 h
  exact Tab.wf_iff.2 ⟨Tab.rising_filter hr p, fun x hx => hd x (List.mem_of_mem_filter hx)⟩

/-- A write keeps the canonical form. -/
theorem Tab.wf_set {d : Nat → α} {t : Tab α} (h : Tab.wf d t = true) (k : Nat) (v : α) :
    Tab.wf d (Tab.set d t k v) = true := by
  unfold Tab.set
  split
  · exact Tab.wf_filter h _
  · next hv =>
    obtain ⟨hr, hd⟩ := Tab.wf_iff.1 h
    refine Tab.wf_iff.2 ⟨Tab.rising_put hr v (by simp), fun x hx => ?_⟩
    rcases Tab.mem_put hx with rfl | hx
    · exact hv
    · exact hd x hx

/-- A read after a write to the same key gives the value written. -/
@[simp] theorem Tab.get_set_same (d : Nat → α) (t : Tab α) (k : Nat) (v : α) : Tab.get d (Tab.set d t k v) k = v := by
  unfold Tab.set Tab.get
  split
  · next hv => simp [Tab.find_del_same, hv]
  · simp [Tab.find_put_same]

/-- A write leaves every other key alone. -/
theorem Tab.get_set_other (d : Nat → α) (t : Tab α) {j k : Nat} (v : α) (hne : j ≠ k) :
    Tab.get d (Tab.set d t k v) j = Tab.get d t j := by
  unfold Tab.set Tab.get
  split
  · rw [Tab.find_del_other _ hne]
  · rw [Tab.find_put_other _ _ hne]

theorem Tab.get_set (d : Nat → α) (t : Tab α) (j k : Nat) (v : α) :
    Tab.get d (Tab.set d t k v) j = if j = k then v else Tab.get d t j := by
  split
  · next h => subst h; simp
  · next h => exact Tab.get_set_other d t v h

end Sys2Proof.Machine
end

