-- ==== Sys2Proof/Laws/State.lean ====
section
/-! SUPPORT. What each update of the device leaves alone: one lemma per field per update. -/

namespace Sys2Proof.Machine

variable (d : Dev)

@[simp] theorem Dev.answer_fresh (st : List Status) (da : List Word) (ak : List Bool) : (d.answer st da ak).fresh = d.fresh := rfl
@[simp] theorem Dev.answer_regs (st : List Status) (da : List Word) (ak : List Bool) : (d.answer st da ak).regs = d.regs := rfl
@[simp] theorem Dev.answer_applied (st : List Status) (da : List Word) (ak : List Bool) : (d.answer st da ak).applied = d.applied := rfl
@[simp] theorem Dev.answer_setters (st : List Status) (da : List Word) (ak : List Bool) : (d.answer st da ak).setters = d.setters := rfl
@[simp] theorem Dev.answer_held (st : List Status) (da : List Word) (ak : List Bool) : (d.answer st da ak).held = d.held := rfl
@[simp] theorem Dev.answer_time (st : List Status) (da : List Word) (ak : List Bool) : (d.answer st da ak).time = d.time := rfl
@[simp] theorem Dev.answer_ref (st : List Status) (da : List Word) (ak : List Bool) : (d.answer st da ak).ref = d.ref := rfl
@[simp] theorem Dev.answer_swm (st : List Status) (da : List Word) (ak : List Bool) : (d.answer st da ak).swm = d.swm := rfl
@[simp] theorem Dev.answer_alc (st : List Status) (da : List Word) (ak : List Bool) : (d.answer st da ak).alc = d.alc := rfl
@[simp] theorem Dev.answer_cue (st : List Status) (da : List Word) (ak : List Bool) : (d.answer st da ak).cue = d.cue := rfl
@[simp] theorem Dev.answer_hcp (st : List Status) (da : List Word) (ak : List Bool) : (d.answer st da ak).hcp = d.hcp := rfl
@[simp] theorem Dev.answer_mem (st : List Status) (da : List Word) (ak : List Bool) : (d.answer st da ak).mem = d.mem := rfl
@[simp] theorem Dev.answer_outp (st : List Status) (da : List Word) (ak : List Bool) : (d.answer st da ak).outp = d.outp := rfl
@[simp] theorem Dev.answer_tcu (st : List Status) (da : List Word) (ak : List Bool) : (d.answer st da ak).tcu = d.tcu := rfl
@[simp] theorem Dev.answer_twt (st : List Status) (da : List Word) (ak : List Bool) : (d.answer st da ak).twt = d.twt := rfl
@[simp] theorem Dev.answer_twc (st : List Status) (da : List Word) (ak : List Bool) : (d.answer st da ak).twc = d.twc := rfl
@[simp] theorem Dev.answer_ua0 (st : List Status) (da : List Word) (ak : List Bool) : (d.answer st da ak).ua0 = d.ua0 := rfl
@[simp] theorem Dev.answer_ua1 (st : List Status) (da : List Word) (ak : List Bool) : (d.answer st da ak).ua1 = d.ua1 := rfl
@[simp] theorem Dev.answer_pwr (st : List Status) (da : List Word) (ak : List Bool) : (d.answer st da ak).pwr = d.pwr := rfl
@[simp] theorem Dev.answer_sys (st : List Status) (da : List Word) (ak : List Bool) : (d.answer st da ak).sys = d.sys := rfl
@[simp] theorem Dev.answer_upd (st : List Status) (da : List Word) (ak : List Bool) : (d.answer st da ak).upd = d.upd := rfl
@[simp] theorem Dev.answer_flt (st : List Status) (da : List Word) (ak : List Bool) : (d.answer st da ak).flt = d.flt := rfl
@[simp] theorem Dev.answer_dbg (st : List Status) (da : List Word) (ak : List Bool) : (d.answer st da ak).dbg = d.dbg := rfl

@[simp] theorem Dev.setReg_out (a : Nat) (w : Word) : (d.setReg a w).out = d.out := rfl
@[simp] theorem Dev.setReg_fresh (a : Nat) (w : Word) : (d.setReg a w).fresh = d.fresh := rfl
@[simp] theorem Dev.setReg_applied (a : Nat) (w : Word) : (d.setReg a w).applied = d.applied := rfl
@[simp] theorem Dev.setReg_setters (a : Nat) (w : Word) : (d.setReg a w).setters = d.setters := rfl
@[simp] theorem Dev.setReg_held (a : Nat) (w : Word) : (d.setReg a w).held = d.held := rfl
@[simp] theorem Dev.setReg_time (a : Nat) (w : Word) : (d.setReg a w).time = d.time := rfl
@[simp] theorem Dev.setReg_ref (a : Nat) (w : Word) : (d.setReg a w).ref = d.ref := rfl
@[simp] theorem Dev.setReg_swm (a : Nat) (w : Word) : (d.setReg a w).swm = d.swm := rfl
@[simp] theorem Dev.setReg_alc (a : Nat) (w : Word) : (d.setReg a w).alc = d.alc := rfl
@[simp] theorem Dev.setReg_cue (a : Nat) (w : Word) : (d.setReg a w).cue = d.cue := rfl
@[simp] theorem Dev.setReg_hcp (a : Nat) (w : Word) : (d.setReg a w).hcp = d.hcp := rfl
@[simp] theorem Dev.setReg_mem (a : Nat) (w : Word) : (d.setReg a w).mem = d.mem := rfl
@[simp] theorem Dev.setReg_outp (a : Nat) (w : Word) : (d.setReg a w).outp = d.outp := rfl
@[simp] theorem Dev.setReg_tcu (a : Nat) (w : Word) : (d.setReg a w).tcu = d.tcu := rfl
@[simp] theorem Dev.setReg_twt (a : Nat) (w : Word) : (d.setReg a w).twt = d.twt := rfl
@[simp] theorem Dev.setReg_twc (a : Nat) (w : Word) : (d.setReg a w).twc = d.twc := rfl
@[simp] theorem Dev.setReg_ua0 (a : Nat) (w : Word) : (d.setReg a w).ua0 = d.ua0 := rfl
@[simp] theorem Dev.setReg_ua1 (a : Nat) (w : Word) : (d.setReg a w).ua1 = d.ua1 := rfl
@[simp] theorem Dev.setReg_pwr (a : Nat) (w : Word) : (d.setReg a w).pwr = d.pwr := rfl
@[simp] theorem Dev.setReg_sys (a : Nat) (w : Word) : (d.setReg a w).sys = d.sys := rfl
@[simp] theorem Dev.setReg_upd (a : Nat) (w : Word) : (d.setReg a w).upd = d.upd := rfl
@[simp] theorem Dev.setReg_flt (a : Nat) (w : Word) : (d.setReg a w).flt = d.flt := rfl
@[simp] theorem Dev.setReg_dbg (a : Nat) (w : Word) : (d.setReg a w).dbg = d.dbg := rfl

@[simp] theorem Dev.put_out (f : Fld) (v : Nat) : (d.put f v).out = d.out := rfl
@[simp] theorem Dev.put_fresh (f : Fld) (v : Nat) : (d.put f v).fresh = d.fresh := rfl
@[simp] theorem Dev.put_applied (f : Fld) (v : Nat) : (d.put f v).applied = d.applied := rfl
@[simp] theorem Dev.put_setters (f : Fld) (v : Nat) : (d.put f v).setters = d.setters := rfl
@[simp] theorem Dev.put_held (f : Fld) (v : Nat) : (d.put f v).held = d.held := rfl
@[simp] theorem Dev.put_time (f : Fld) (v : Nat) : (d.put f v).time = d.time := rfl
@[simp] theorem Dev.put_ref (f : Fld) (v : Nat) : (d.put f v).ref = d.ref := rfl
@[simp] theorem Dev.put_swm (f : Fld) (v : Nat) : (d.put f v).swm = d.swm := rfl
@[simp] theorem Dev.put_alc (f : Fld) (v : Nat) : (d.put f v).alc = d.alc := rfl
@[simp] theorem Dev.put_cue (f : Fld) (v : Nat) : (d.put f v).cue = d.cue := rfl
@[simp] theorem Dev.put_hcp (f : Fld) (v : Nat) : (d.put f v).hcp = d.hcp := rfl
@[simp] theorem Dev.put_mem (f : Fld) (v : Nat) : (d.put f v).mem = d.mem := rfl
@[simp] theorem Dev.put_outp (f : Fld) (v : Nat) : (d.put f v).outp = d.outp := rfl
@[simp] theorem Dev.put_tcu (f : Fld) (v : Nat) : (d.put f v).tcu = d.tcu := rfl
@[simp] theorem Dev.put_twt (f : Fld) (v : Nat) : (d.put f v).twt = d.twt := rfl
@[simp] theorem Dev.put_twc (f : Fld) (v : Nat) : (d.put f v).twc = d.twc := rfl
@[simp] theorem Dev.put_ua0 (f : Fld) (v : Nat) : (d.put f v).ua0 = d.ua0 := rfl
@[simp] theorem Dev.put_ua1 (f : Fld) (v : Nat) : (d.put f v).ua1 = d.ua1 := rfl
@[simp] theorem Dev.put_pwr (f : Fld) (v : Nat) : (d.put f v).pwr = d.pwr := rfl
@[simp] theorem Dev.put_sys (f : Fld) (v : Nat) : (d.put f v).sys = d.sys := rfl
@[simp] theorem Dev.put_upd (f : Fld) (v : Nat) : (d.put f v).upd = d.upd := rfl
@[simp] theorem Dev.put_flt (f : Fld) (v : Nat) : (d.put f v).flt = d.flt := rfl
@[simp] theorem Dev.put_dbg (f : Fld) (v : Nat) : (d.put f v).dbg = d.dbg := rfl

@[simp] theorem Dev.put64_out (lo hi : Fld) (v : Nat) : (d.put64 lo hi v).out = d.out := rfl
@[simp] theorem Dev.put64_fresh (lo hi : Fld) (v : Nat) : (d.put64 lo hi v).fresh = d.fresh := rfl
@[simp] theorem Dev.put64_applied (lo hi : Fld) (v : Nat) : (d.put64 lo hi v).applied = d.applied := rfl
@[simp] theorem Dev.put64_setters (lo hi : Fld) (v : Nat) : (d.put64 lo hi v).setters = d.setters := rfl
@[simp] theorem Dev.put64_held (lo hi : Fld) (v : Nat) : (d.put64 lo hi v).held = d.held := rfl
@[simp] theorem Dev.put64_time (lo hi : Fld) (v : Nat) : (d.put64 lo hi v).time = d.time := rfl
@[simp] theorem Dev.put64_ref (lo hi : Fld) (v : Nat) : (d.put64 lo hi v).ref = d.ref := rfl
@[simp] theorem Dev.put64_swm (lo hi : Fld) (v : Nat) : (d.put64 lo hi v).swm = d.swm := rfl
@[simp] theorem Dev.put64_alc (lo hi : Fld) (v : Nat) : (d.put64 lo hi v).alc = d.alc := rfl
@[simp] theorem Dev.put64_cue (lo hi : Fld) (v : Nat) : (d.put64 lo hi v).cue = d.cue := rfl
@[simp] theorem Dev.put64_hcp (lo hi : Fld) (v : Nat) : (d.put64 lo hi v).hcp = d.hcp := rfl
@[simp] theorem Dev.put64_mem (lo hi : Fld) (v : Nat) : (d.put64 lo hi v).mem = d.mem := rfl
@[simp] theorem Dev.put64_outp (lo hi : Fld) (v : Nat) : (d.put64 lo hi v).outp = d.outp := rfl
@[simp] theorem Dev.put64_tcu (lo hi : Fld) (v : Nat) : (d.put64 lo hi v).tcu = d.tcu := rfl
@[simp] theorem Dev.put64_twt (lo hi : Fld) (v : Nat) : (d.put64 lo hi v).twt = d.twt := rfl
@[simp] theorem Dev.put64_twc (lo hi : Fld) (v : Nat) : (d.put64 lo hi v).twc = d.twc := rfl
@[simp] theorem Dev.put64_ua0 (lo hi : Fld) (v : Nat) : (d.put64 lo hi v).ua0 = d.ua0 := rfl
@[simp] theorem Dev.put64_ua1 (lo hi : Fld) (v : Nat) : (d.put64 lo hi v).ua1 = d.ua1 := rfl
@[simp] theorem Dev.put64_pwr (lo hi : Fld) (v : Nat) : (d.put64 lo hi v).pwr = d.pwr := rfl
@[simp] theorem Dev.put64_sys (lo hi : Fld) (v : Nat) : (d.put64 lo hi v).sys = d.sys := rfl
@[simp] theorem Dev.put64_upd (lo hi : Fld) (v : Nat) : (d.put64 lo hi v).upd = d.upd := rfl
@[simp] theorem Dev.put64_flt (lo hi : Fld) (v : Nat) : (d.put64 lo hi v).flt = d.flt := rfl
@[simp] theorem Dev.put64_dbg (lo hi : Fld) (v : Nat) : (d.put64 lo hi v).dbg = d.dbg := rfl

@[simp] theorem Dev.bumpBy_out (f : Fld) (n : Nat) : (d.bumpBy f n).out = d.out := rfl
@[simp] theorem Dev.bumpBy_fresh (f : Fld) (n : Nat) : (d.bumpBy f n).fresh = d.fresh := rfl
@[simp] theorem Dev.bumpBy_applied (f : Fld) (n : Nat) : (d.bumpBy f n).applied = d.applied := rfl
@[simp] theorem Dev.bumpBy_setters (f : Fld) (n : Nat) : (d.bumpBy f n).setters = d.setters := rfl
@[simp] theorem Dev.bumpBy_held (f : Fld) (n : Nat) : (d.bumpBy f n).held = d.held := rfl
@[simp] theorem Dev.bumpBy_time (f : Fld) (n : Nat) : (d.bumpBy f n).time = d.time := rfl
@[simp] theorem Dev.bumpBy_ref (f : Fld) (n : Nat) : (d.bumpBy f n).ref = d.ref := rfl
@[simp] theorem Dev.bumpBy_swm (f : Fld) (n : Nat) : (d.bumpBy f n).swm = d.swm := rfl
@[simp] theorem Dev.bumpBy_alc (f : Fld) (n : Nat) : (d.bumpBy f n).alc = d.alc := rfl
@[simp] theorem Dev.bumpBy_cue (f : Fld) (n : Nat) : (d.bumpBy f n).cue = d.cue := rfl
@[simp] theorem Dev.bumpBy_hcp (f : Fld) (n : Nat) : (d.bumpBy f n).hcp = d.hcp := rfl
@[simp] theorem Dev.bumpBy_mem (f : Fld) (n : Nat) : (d.bumpBy f n).mem = d.mem := rfl
@[simp] theorem Dev.bumpBy_outp (f : Fld) (n : Nat) : (d.bumpBy f n).outp = d.outp := rfl
@[simp] theorem Dev.bumpBy_tcu (f : Fld) (n : Nat) : (d.bumpBy f n).tcu = d.tcu := rfl
@[simp] theorem Dev.bumpBy_twt (f : Fld) (n : Nat) : (d.bumpBy f n).twt = d.twt := rfl
@[simp] theorem Dev.bumpBy_twc (f : Fld) (n : Nat) : (d.bumpBy f n).twc = d.twc := rfl
@[simp] theorem Dev.bumpBy_ua0 (f : Fld) (n : Nat) : (d.bumpBy f n).ua0 = d.ua0 := rfl
@[simp] theorem Dev.bumpBy_ua1 (f : Fld) (n : Nat) : (d.bumpBy f n).ua1 = d.ua1 := rfl
@[simp] theorem Dev.bumpBy_pwr (f : Fld) (n : Nat) : (d.bumpBy f n).pwr = d.pwr := rfl
@[simp] theorem Dev.bumpBy_sys (f : Fld) (n : Nat) : (d.bumpBy f n).sys = d.sys := rfl
@[simp] theorem Dev.bumpBy_upd (f : Fld) (n : Nat) : (d.bumpBy f n).upd = d.upd := rfl
@[simp] theorem Dev.bumpBy_flt (f : Fld) (n : Nat) : (d.bumpBy f n).flt = d.flt := rfl
@[simp] theorem Dev.bumpBy_dbg (f : Fld) (n : Nat) : (d.bumpBy f n).dbg = d.dbg := rfl

@[simp] theorem Dev.bump_out (f : Fld) : (d.bump f).out = d.out := rfl
@[simp] theorem Dev.bump_fresh (f : Fld) : (d.bump f).fresh = d.fresh := rfl
@[simp] theorem Dev.bump_applied (f : Fld) : (d.bump f).applied = d.applied := rfl
@[simp] theorem Dev.bump_setters (f : Fld) : (d.bump f).setters = d.setters := rfl
@[simp] theorem Dev.bump_held (f : Fld) : (d.bump f).held = d.held := rfl
@[simp] theorem Dev.bump_time (f : Fld) : (d.bump f).time = d.time := rfl
@[simp] theorem Dev.bump_ref (f : Fld) : (d.bump f).ref = d.ref := rfl
@[simp] theorem Dev.bump_swm (f : Fld) : (d.bump f).swm = d.swm := rfl
@[simp] theorem Dev.bump_alc (f : Fld) : (d.bump f).alc = d.alc := rfl
@[simp] theorem Dev.bump_cue (f : Fld) : (d.bump f).cue = d.cue := rfl
@[simp] theorem Dev.bump_hcp (f : Fld) : (d.bump f).hcp = d.hcp := rfl
@[simp] theorem Dev.bump_mem (f : Fld) : (d.bump f).mem = d.mem := rfl
@[simp] theorem Dev.bump_outp (f : Fld) : (d.bump f).outp = d.outp := rfl
@[simp] theorem Dev.bump_tcu (f : Fld) : (d.bump f).tcu = d.tcu := rfl
@[simp] theorem Dev.bump_twt (f : Fld) : (d.bump f).twt = d.twt := rfl
@[simp] theorem Dev.bump_twc (f : Fld) : (d.bump f).twc = d.twc := rfl
@[simp] theorem Dev.bump_ua0 (f : Fld) : (d.bump f).ua0 = d.ua0 := rfl
@[simp] theorem Dev.bump_ua1 (f : Fld) : (d.bump f).ua1 = d.ua1 := rfl
@[simp] theorem Dev.bump_pwr (f : Fld) : (d.bump f).pwr = d.pwr := rfl
@[simp] theorem Dev.bump_sys (f : Fld) : (d.bump f).sys = d.sys := rfl
@[simp] theorem Dev.bump_upd (f : Fld) : (d.bump f).upd = d.upd := rfl
@[simp] theorem Dev.bump_flt (f : Fld) : (d.bump f).flt = d.flt := rfl
@[simp] theorem Dev.bump_dbg (f : Fld) : (d.bump f).dbg = d.dbg := rfl

@[simp] theorem Dev.putAp_out (f : Fld) (v : Nat) : (d.putAp f v).out = d.out := rfl
@[simp] theorem Dev.putAp_fresh (f : Fld) (v : Nat) : (d.putAp f v).fresh = d.fresh := rfl
@[simp] theorem Dev.putAp_regs (f : Fld) (v : Nat) : (d.putAp f v).regs = d.regs := rfl
@[simp] theorem Dev.putAp_setters (f : Fld) (v : Nat) : (d.putAp f v).setters = d.setters := rfl
@[simp] theorem Dev.putAp_held (f : Fld) (v : Nat) : (d.putAp f v).held = d.held := rfl
@[simp] theorem Dev.putAp_time (f : Fld) (v : Nat) : (d.putAp f v).time = d.time := rfl
@[simp] theorem Dev.putAp_ref (f : Fld) (v : Nat) : (d.putAp f v).ref = d.ref := rfl
@[simp] theorem Dev.putAp_swm (f : Fld) (v : Nat) : (d.putAp f v).swm = d.swm := rfl
@[simp] theorem Dev.putAp_alc (f : Fld) (v : Nat) : (d.putAp f v).alc = d.alc := rfl
@[simp] theorem Dev.putAp_cue (f : Fld) (v : Nat) : (d.putAp f v).cue = d.cue := rfl
@[simp] theorem Dev.putAp_hcp (f : Fld) (v : Nat) : (d.putAp f v).hcp = d.hcp := rfl
@[simp] theorem Dev.putAp_mem (f : Fld) (v : Nat) : (d.putAp f v).mem = d.mem := rfl
@[simp] theorem Dev.putAp_outp (f : Fld) (v : Nat) : (d.putAp f v).outp = d.outp := rfl
@[simp] theorem Dev.putAp_tcu (f : Fld) (v : Nat) : (d.putAp f v).tcu = d.tcu := rfl
@[simp] theorem Dev.putAp_twt (f : Fld) (v : Nat) : (d.putAp f v).twt = d.twt := rfl
@[simp] theorem Dev.putAp_twc (f : Fld) (v : Nat) : (d.putAp f v).twc = d.twc := rfl
@[simp] theorem Dev.putAp_ua0 (f : Fld) (v : Nat) : (d.putAp f v).ua0 = d.ua0 := rfl
@[simp] theorem Dev.putAp_ua1 (f : Fld) (v : Nat) : (d.putAp f v).ua1 = d.ua1 := rfl
@[simp] theorem Dev.putAp_pwr (f : Fld) (v : Nat) : (d.putAp f v).pwr = d.pwr := rfl
@[simp] theorem Dev.putAp_sys (f : Fld) (v : Nat) : (d.putAp f v).sys = d.sys := rfl
@[simp] theorem Dev.putAp_upd (f : Fld) (v : Nat) : (d.putAp f v).upd = d.upd := rfl
@[simp] theorem Dev.putAp_flt (f : Fld) (v : Nat) : (d.putAp f v).flt = d.flt := rfl
@[simp] theorem Dev.putAp_dbg (f : Fld) (v : Nat) : (d.putAp f v).dbg = d.dbg := rfl

/-- What counting and the steering of HT_INCR never touch. -/
def Dev.aside : Dev :=
  { d with fresh := 0, regs := [], time := TimeS.reset, ref := RefS.reset, tcu := TcuS.reset }

theorem Dev.each_aside {α : Type} (l : List α) (f : α → Dev → Dev) (h : ∀ a d, (f a d).aside = d.aside) :
    (d.each l f).aside = d.aside := by
  unfold Dev.each
  induction l generalizing d with
  | nil => rfl
  | cons a l ih => simp only [List.foldl_cons, ih, h]

theorem Dev.put_aside (f : Fld) (v : Nat) : (d.put f v).aside = d.aside := rfl
theorem Dev.setChan_aside (n : Nat) (c : Channel) : (d.setChan n c).aside = d.aside := rfl
theorem Dev.setLevel_aside (n : Nat) (f : Bool → Bool) : (d.setLevel n f).aside = d.aside := rfl

theorem Dev.fire_aside (n : Nat) (o a b : Bool) : (d.fire n o a b).aside = d.aside := by
  cases o <;> cases a <;> cases b <;> simp [Dev.fire, Dev.setLevel_aside, Dev.put_aside]

theorem Dev.stepChan_aside (n e : Nat) : (d.stepChan n e).aside = d.aside := by
  simp only [Dev.stepChan]
  split
  · rfl
  · split <;> simp only [Dev.fire_aside, Dev.setChan_aside, Dev.put_aside]

theorem Dev.sourceEvent_aside (k : Nat) : (d.sourceEvent k).aside = d.aside :=
  d.each_aside _ _ fun n d => by split <;> simp only [Dev.stepChan_aside]

theorem Dev.eclkRun_aside (k : Nat) : (d.eclkRun k).aside = d.aside := by
  unfold Dev.eclkRun
  split
  · induction k with
    | zero => rfl
    | succ k ih => exact (Dev.sourceEvent_aside _ _).trans ih
  · rfl

theorem Dev.xiWrite_aside : d.xiWrite.aside = d.aside := by
  unfold Dev.xiWrite Dev.steer Dev.setIncr
  split
  · dsimp only
    split <;> rfl
  · rfl

theorem Dev.reach_aside (t : Nat) : (d.reach t).aside = d.aside := by
  unfold Dev.reach
  split
  · rfl
  · rw [Dev.eclkRun_aside, Dev.xiWrite_aside]
    rfl

@[simp] theorem Dev.reach_out (t : Nat) : (d.reach t).out = d.out := (congrArg Dev.out (d.reach_aside t) :)
@[simp] theorem Dev.reach_applied (t : Nat) : (d.reach t).applied = d.applied := (congrArg Dev.applied (d.reach_aside t) :)
@[simp] theorem Dev.reach_setters (t : Nat) : (d.reach t).setters = d.setters := (congrArg Dev.setters (d.reach_aside t) :)
@[simp] theorem Dev.reach_held (t : Nat) : (d.reach t).held = d.held := (congrArg Dev.held (d.reach_aside t) :)
@[simp] theorem Dev.reach_swm (t : Nat) : (d.reach t).swm = d.swm := (congrArg Dev.swm (d.reach_aside t) :)
@[simp] theorem Dev.reach_alc (t : Nat) : (d.reach t).alc = d.alc := (congrArg Dev.alc (d.reach_aside t) :)
@[simp] theorem Dev.reach_cue (t : Nat) : (d.reach t).cue = d.cue := (congrArg Dev.cue (d.reach_aside t) :)
@[simp] theorem Dev.reach_hcp (t : Nat) : (d.reach t).hcp = d.hcp := (congrArg Dev.hcp (d.reach_aside t) :)
@[simp] theorem Dev.reach_mem (t : Nat) : (d.reach t).mem = d.mem := (congrArg Dev.mem (d.reach_aside t) :)
@[simp] theorem Dev.reach_outp (t : Nat) : (d.reach t).outp = d.outp := (congrArg Dev.outp (d.reach_aside t) :)
@[simp] theorem Dev.reach_twt (t : Nat) : (d.reach t).twt = d.twt := (congrArg Dev.twt (d.reach_aside t) :)
@[simp] theorem Dev.reach_twc (t : Nat) : (d.reach t).twc = d.twc := (congrArg Dev.twc (d.reach_aside t) :)
@[simp] theorem Dev.reach_ua0 (t : Nat) : (d.reach t).ua0 = d.ua0 := (congrArg Dev.ua0 (d.reach_aside t) :)
@[simp] theorem Dev.reach_ua1 (t : Nat) : (d.reach t).ua1 = d.ua1 := (congrArg Dev.ua1 (d.reach_aside t) :)
@[simp] theorem Dev.reach_pwr (t : Nat) : (d.reach t).pwr = d.pwr := (congrArg Dev.pwr (d.reach_aside t) :)
@[simp] theorem Dev.reach_sys (t : Nat) : (d.reach t).sys = d.sys := (congrArg Dev.sys (d.reach_aside t) :)
@[simp] theorem Dev.reach_upd (t : Nat) : (d.reach t).upd = d.upd := (congrArg Dev.upd (d.reach_aside t) :)
@[simp] theorem Dev.reach_flt (t : Nat) : (d.reach t).flt = d.flt := (congrArg Dev.flt (d.reach_aside t) :)
@[simp] theorem Dev.reach_dbg (t : Nat) : (d.reach t).dbg = d.dbg := (congrArg Dev.dbg (d.reach_aside t) :)

@[simp] theorem Dev.takeSnap_out (p : Path) : (d.takeSnap p).out = d.out := rfl
@[simp] theorem Dev.takeSnap_fresh (p : Path) : (d.takeSnap p).fresh = d.fresh := rfl
@[simp] theorem Dev.takeSnap_regs (p : Path) : (d.takeSnap p).regs = d.regs := rfl
@[simp] theorem Dev.takeSnap_applied (p : Path) : (d.takeSnap p).applied = d.applied := rfl
@[simp] theorem Dev.takeSnap_setters (p : Path) : (d.takeSnap p).setters = d.setters := rfl
@[simp] theorem Dev.takeSnap_held (p : Path) : (d.takeSnap p).held = d.held := rfl
@[simp] theorem Dev.takeSnap_ref (p : Path) : (d.takeSnap p).ref = d.ref := rfl
@[simp] theorem Dev.takeSnap_swm (p : Path) : (d.takeSnap p).swm = d.swm := rfl
@[simp] theorem Dev.takeSnap_alc (p : Path) : (d.takeSnap p).alc = d.alc := rfl
@[simp] theorem Dev.takeSnap_cue (p : Path) : (d.takeSnap p).cue = d.cue := rfl
@[simp] theorem Dev.takeSnap_hcp (p : Path) : (d.takeSnap p).hcp = d.hcp := rfl
@[simp] theorem Dev.takeSnap_mem (p : Path) : (d.takeSnap p).mem = d.mem := rfl
@[simp] theorem Dev.takeSnap_outp (p : Path) : (d.takeSnap p).outp = d.outp := rfl
@[simp] theorem Dev.takeSnap_tcu (p : Path) : (d.takeSnap p).tcu = d.tcu := rfl
@[simp] theorem Dev.takeSnap_twt (p : Path) : (d.takeSnap p).twt = d.twt := rfl
@[simp] theorem Dev.takeSnap_twc (p : Path) : (d.takeSnap p).twc = d.twc := rfl
@[simp] theorem Dev.takeSnap_ua0 (p : Path) : (d.takeSnap p).ua0 = d.ua0 := rfl
@[simp] theorem Dev.takeSnap_ua1 (p : Path) : (d.takeSnap p).ua1 = d.ua1 := rfl
@[simp] theorem Dev.takeSnap_pwr (p : Path) : (d.takeSnap p).pwr = d.pwr := rfl
@[simp] theorem Dev.takeSnap_sys (p : Path) : (d.takeSnap p).sys = d.sys := rfl
@[simp] theorem Dev.takeSnap_upd (p : Path) : (d.takeSnap p).upd = d.upd := rfl
@[simp] theorem Dev.takeSnap_flt (p : Path) : (d.takeSnap p).flt = d.flt := rfl
@[simp] theorem Dev.takeSnap_dbg (p : Path) : (d.takeSnap p).dbg = d.dbg := rfl

@[simp] theorem Dev.setGpLevel_out (n : Nat) (l : Bool) : (d.setGpLevel n l).out = d.out := rfl
@[simp] theorem Dev.setGpLevel_fresh (n : Nat) (l : Bool) : (d.setGpLevel n l).fresh = d.fresh := rfl
@[simp] theorem Dev.setGpLevel_regs (n : Nat) (l : Bool) : (d.setGpLevel n l).regs = d.regs := rfl
@[simp] theorem Dev.setGpLevel_applied (n : Nat) (l : Bool) : (d.setGpLevel n l).applied = d.applied := rfl
@[simp] theorem Dev.setGpLevel_setters (n : Nat) (l : Bool) : (d.setGpLevel n l).setters = d.setters := rfl
@[simp] theorem Dev.setGpLevel_held (n : Nat) (l : Bool) : (d.setGpLevel n l).held = d.held := rfl
@[simp] theorem Dev.setGpLevel_ref (n : Nat) (l : Bool) : (d.setGpLevel n l).ref = d.ref := rfl
@[simp] theorem Dev.setGpLevel_swm (n : Nat) (l : Bool) : (d.setGpLevel n l).swm = d.swm := rfl
@[simp] theorem Dev.setGpLevel_alc (n : Nat) (l : Bool) : (d.setGpLevel n l).alc = d.alc := rfl
@[simp] theorem Dev.setGpLevel_cue (n : Nat) (l : Bool) : (d.setGpLevel n l).cue = d.cue := rfl
@[simp] theorem Dev.setGpLevel_hcp (n : Nat) (l : Bool) : (d.setGpLevel n l).hcp = d.hcp := rfl
@[simp] theorem Dev.setGpLevel_mem (n : Nat) (l : Bool) : (d.setGpLevel n l).mem = d.mem := rfl
@[simp] theorem Dev.setGpLevel_outp (n : Nat) (l : Bool) : (d.setGpLevel n l).outp = d.outp := rfl
@[simp] theorem Dev.setGpLevel_tcu (n : Nat) (l : Bool) : (d.setGpLevel n l).tcu = d.tcu := rfl
@[simp] theorem Dev.setGpLevel_twt (n : Nat) (l : Bool) : (d.setGpLevel n l).twt = d.twt := rfl
@[simp] theorem Dev.setGpLevel_twc (n : Nat) (l : Bool) : (d.setGpLevel n l).twc = d.twc := rfl
@[simp] theorem Dev.setGpLevel_ua0 (n : Nat) (l : Bool) : (d.setGpLevel n l).ua0 = d.ua0 := rfl
@[simp] theorem Dev.setGpLevel_ua1 (n : Nat) (l : Bool) : (d.setGpLevel n l).ua1 = d.ua1 := rfl
@[simp] theorem Dev.setGpLevel_pwr (n : Nat) (l : Bool) : (d.setGpLevel n l).pwr = d.pwr := rfl
@[simp] theorem Dev.setGpLevel_sys (n : Nat) (l : Bool) : (d.setGpLevel n l).sys = d.sys := rfl
@[simp] theorem Dev.setGpLevel_upd (n : Nat) (l : Bool) : (d.setGpLevel n l).upd = d.upd := rfl
@[simp] theorem Dev.setGpLevel_flt (n : Nat) (l : Bool) : (d.setGpLevel n l).flt = d.flt := rfl
@[simp] theorem Dev.setGpLevel_dbg (n : Nat) (l : Bool) : (d.setGpLevel n l).dbg = d.dbg := rfl

@[simp] theorem Dev.cause_out (n : Nat) : (d.cause n).out = d.out := rfl
@[simp] theorem Dev.cause_fresh (n : Nat) : (d.cause n).fresh = d.fresh := rfl
@[simp] theorem Dev.cause_applied (n : Nat) : (d.cause n).applied = d.applied := rfl
@[simp] theorem Dev.cause_setters (n : Nat) : (d.cause n).setters = d.setters := rfl
@[simp] theorem Dev.cause_held (n : Nat) : (d.cause n).held = d.held := rfl
@[simp] theorem Dev.cause_time (n : Nat) : (d.cause n).time = d.time := rfl
@[simp] theorem Dev.cause_ref (n : Nat) : (d.cause n).ref = d.ref := rfl
@[simp] theorem Dev.cause_swm (n : Nat) : (d.cause n).swm = d.swm := rfl
@[simp] theorem Dev.cause_alc (n : Nat) : (d.cause n).alc = d.alc := rfl
@[simp] theorem Dev.cause_cue (n : Nat) : (d.cause n).cue = d.cue := rfl
@[simp] theorem Dev.cause_hcp (n : Nat) : (d.cause n).hcp = d.hcp := rfl
@[simp] theorem Dev.cause_mem (n : Nat) : (d.cause n).mem = d.mem := rfl
@[simp] theorem Dev.cause_outp (n : Nat) : (d.cause n).outp = d.outp := rfl
@[simp] theorem Dev.cause_tcu (n : Nat) : (d.cause n).tcu = d.tcu := rfl
@[simp] theorem Dev.cause_twt (n : Nat) : (d.cause n).twt = d.twt := rfl
@[simp] theorem Dev.cause_twc (n : Nat) : (d.cause n).twc = d.twc := rfl
@[simp] theorem Dev.cause_ua0 (n : Nat) : (d.cause n).ua0 = d.ua0 := rfl
@[simp] theorem Dev.cause_ua1 (n : Nat) : (d.cause n).ua1 = d.ua1 := rfl
@[simp] theorem Dev.cause_pwr (n : Nat) : (d.cause n).pwr = d.pwr := rfl
@[simp] theorem Dev.cause_sys (n : Nat) : (d.cause n).sys = d.sys := rfl
@[simp] theorem Dev.cause_upd (n : Nat) : (d.cause n).upd = d.upd := rfl
@[simp] theorem Dev.cause_flt (n : Nat) : (d.cause n).flt = d.flt := rfl
@[simp] theorem Dev.cause_dbg (n : Nat) : (d.cause n).dbg = d.dbg := rfl

@[simp] theorem Dev.loser_out (a : Nat) (p : Path) : (d.loser a p).out = d.out := rfl
@[simp] theorem Dev.loser_fresh (a : Nat) (p : Path) : (d.loser a p).fresh = d.fresh := rfl
@[simp] theorem Dev.loser_applied (a : Nat) (p : Path) : (d.loser a p).applied = d.applied := rfl
@[simp] theorem Dev.loser_setters (a : Nat) (p : Path) : (d.loser a p).setters = d.setters := rfl
@[simp] theorem Dev.loser_held (a : Nat) (p : Path) : (d.loser a p).held = d.held := rfl
@[simp] theorem Dev.loser_time (a : Nat) (p : Path) : (d.loser a p).time = d.time := rfl
@[simp] theorem Dev.loser_ref (a : Nat) (p : Path) : (d.loser a p).ref = d.ref := rfl
@[simp] theorem Dev.loser_swm (a : Nat) (p : Path) : (d.loser a p).swm = d.swm := rfl
@[simp] theorem Dev.loser_alc (a : Nat) (p : Path) : (d.loser a p).alc = d.alc := rfl
@[simp] theorem Dev.loser_cue (a : Nat) (p : Path) : (d.loser a p).cue = d.cue := rfl
@[simp] theorem Dev.loser_hcp (a : Nat) (p : Path) : (d.loser a p).hcp = d.hcp := rfl
@[simp] theorem Dev.loser_mem (a : Nat) (p : Path) : (d.loser a p).mem = d.mem := rfl
@[simp] theorem Dev.loser_outp (a : Nat) (p : Path) : (d.loser a p).outp = d.outp := rfl
@[simp] theorem Dev.loser_tcu (a : Nat) (p : Path) : (d.loser a p).tcu = d.tcu := rfl
@[simp] theorem Dev.loser_twt (a : Nat) (p : Path) : (d.loser a p).twt = d.twt := rfl
@[simp] theorem Dev.loser_twc (a : Nat) (p : Path) : (d.loser a p).twc = d.twc := rfl
@[simp] theorem Dev.loser_ua0 (a : Nat) (p : Path) : (d.loser a p).ua0 = d.ua0 := rfl
@[simp] theorem Dev.loser_ua1 (a : Nat) (p : Path) : (d.loser a p).ua1 = d.ua1 := rfl
@[simp] theorem Dev.loser_pwr (a : Nat) (p : Path) : (d.loser a p).pwr = d.pwr := rfl
@[simp] theorem Dev.loser_sys (a : Nat) (p : Path) : (d.loser a p).sys = d.sys := rfl
@[simp] theorem Dev.loser_upd (a : Nat) (p : Path) : (d.loser a p).upd = d.upd := rfl
@[simp] theorem Dev.loser_flt (a : Nat) (p : Path) : (d.loser a p).flt = d.flt := rfl
@[simp] theorem Dev.loser_dbg (a : Nat) (p : Path) : (d.loser a p).dbg = d.dbg := rfl

@[simp] theorem Dev.setLasting_out (x : Nat) (b : Bool) : (d.setLasting x b).out = d.out := rfl
@[simp] theorem Dev.setLasting_fresh (x : Nat) (b : Bool) : (d.setLasting x b).fresh = d.fresh := rfl
@[simp] theorem Dev.setLasting_applied (x : Nat) (b : Bool) : (d.setLasting x b).applied = d.applied := rfl
@[simp] theorem Dev.setLasting_setters (x : Nat) (b : Bool) : (d.setLasting x b).setters = d.setters := rfl
@[simp] theorem Dev.setLasting_held (x : Nat) (b : Bool) : (d.setLasting x b).held = d.held := rfl
@[simp] theorem Dev.setLasting_time (x : Nat) (b : Bool) : (d.setLasting x b).time = d.time := rfl
@[simp] theorem Dev.setLasting_ref (x : Nat) (b : Bool) : (d.setLasting x b).ref = d.ref := rfl
@[simp] theorem Dev.setLasting_swm (x : Nat) (b : Bool) : (d.setLasting x b).swm = d.swm := rfl
@[simp] theorem Dev.setLasting_alc (x : Nat) (b : Bool) : (d.setLasting x b).alc = d.alc := rfl
@[simp] theorem Dev.setLasting_cue (x : Nat) (b : Bool) : (d.setLasting x b).cue = d.cue := rfl
@[simp] theorem Dev.setLasting_hcp (x : Nat) (b : Bool) : (d.setLasting x b).hcp = d.hcp := rfl
@[simp] theorem Dev.setLasting_mem (x : Nat) (b : Bool) : (d.setLasting x b).mem = d.mem := rfl
@[simp] theorem Dev.setLasting_outp (x : Nat) (b : Bool) : (d.setLasting x b).outp = d.outp := rfl
@[simp] theorem Dev.setLasting_tcu (x : Nat) (b : Bool) : (d.setLasting x b).tcu = d.tcu := rfl
@[simp] theorem Dev.setLasting_twt (x : Nat) (b : Bool) : (d.setLasting x b).twt = d.twt := rfl
@[simp] theorem Dev.setLasting_twc (x : Nat) (b : Bool) : (d.setLasting x b).twc = d.twc := rfl
@[simp] theorem Dev.setLasting_ua0 (x : Nat) (b : Bool) : (d.setLasting x b).ua0 = d.ua0 := rfl
@[simp] theorem Dev.setLasting_ua1 (x : Nat) (b : Bool) : (d.setLasting x b).ua1 = d.ua1 := rfl
@[simp] theorem Dev.setLasting_pwr (x : Nat) (b : Bool) : (d.setLasting x b).pwr = d.pwr := rfl
@[simp] theorem Dev.setLasting_sys (x : Nat) (b : Bool) : (d.setLasting x b).sys = d.sys := rfl
@[simp] theorem Dev.setLasting_upd (x : Nat) (b : Bool) : (d.setLasting x b).upd = d.upd := rfl
@[simp] theorem Dev.setLasting_flt (x : Nat) (b : Bool) : (d.setLasting x b).flt = d.flt := rfl
@[simp] theorem Dev.setLasting_dbg (x : Nat) (b : Bool) : (d.setLasting x b).dbg = d.dbg := rfl

@[simp] theorem Dev.setSetter_out (k : Nat) (p : Path) : (d.setSetter k p).out = d.out := rfl
@[simp] theorem Dev.setSetter_fresh (k : Nat) (p : Path) : (d.setSetter k p).fresh = d.fresh := rfl
@[simp] theorem Dev.setSetter_regs (k : Nat) (p : Path) : (d.setSetter k p).regs = d.regs := rfl
@[simp] theorem Dev.setSetter_applied (k : Nat) (p : Path) : (d.setSetter k p).applied = d.applied := rfl
@[simp] theorem Dev.setSetter_held (k : Nat) (p : Path) : (d.setSetter k p).held = d.held := rfl
@[simp] theorem Dev.setSetter_time (k : Nat) (p : Path) : (d.setSetter k p).time = d.time := rfl
@[simp] theorem Dev.setSetter_ref (k : Nat) (p : Path) : (d.setSetter k p).ref = d.ref := rfl
@[simp] theorem Dev.setSetter_swm (k : Nat) (p : Path) : (d.setSetter k p).swm = d.swm := rfl
@[simp] theorem Dev.setSetter_alc (k : Nat) (p : Path) : (d.setSetter k p).alc = d.alc := rfl
@[simp] theorem Dev.setSetter_cue (k : Nat) (p : Path) : (d.setSetter k p).cue = d.cue := rfl
@[simp] theorem Dev.setSetter_hcp (k : Nat) (p : Path) : (d.setSetter k p).hcp = d.hcp := rfl
@[simp] theorem Dev.setSetter_mem (k : Nat) (p : Path) : (d.setSetter k p).mem = d.mem := rfl
@[simp] theorem Dev.setSetter_outp (k : Nat) (p : Path) : (d.setSetter k p).outp = d.outp := rfl
@[simp] theorem Dev.setSetter_tcu (k : Nat) (p : Path) : (d.setSetter k p).tcu = d.tcu := rfl
@[simp] theorem Dev.setSetter_twt (k : Nat) (p : Path) : (d.setSetter k p).twt = d.twt := rfl
@[simp] theorem Dev.setSetter_twc (k : Nat) (p : Path) : (d.setSetter k p).twc = d.twc := rfl
@[simp] theorem Dev.setSetter_ua0 (k : Nat) (p : Path) : (d.setSetter k p).ua0 = d.ua0 := rfl
@[simp] theorem Dev.setSetter_ua1 (k : Nat) (p : Path) : (d.setSetter k p).ua1 = d.ua1 := rfl
@[simp] theorem Dev.setSetter_pwr (k : Nat) (p : Path) : (d.setSetter k p).pwr = d.pwr := rfl
@[simp] theorem Dev.setSetter_sys (k : Nat) (p : Path) : (d.setSetter k p).sys = d.sys := rfl
@[simp] theorem Dev.setSetter_upd (k : Nat) (p : Path) : (d.setSetter k p).upd = d.upd := rfl
@[simp] theorem Dev.setSetter_flt (k : Nat) (p : Path) : (d.setSetter k p).flt = d.flt := rfl
@[simp] theorem Dev.setSetter_dbg (k : Nat) (p : Path) : (d.setSetter k p).dbg = d.dbg := rfl

@[simp] theorem Dev.setHeld_out (a : Nat) (x : Option Word) : (d.setHeld a x).out = d.out := rfl
@[simp] theorem Dev.setHeld_fresh (a : Nat) (x : Option Word) : (d.setHeld a x).fresh = d.fresh := rfl
@[simp] theorem Dev.setHeld_regs (a : Nat) (x : Option Word) : (d.setHeld a x).regs = d.regs := rfl
@[simp] theorem Dev.setHeld_applied (a : Nat) (x : Option Word) : (d.setHeld a x).applied = d.applied := rfl
@[simp] theorem Dev.setHeld_setters (a : Nat) (x : Option Word) : (d.setHeld a x).setters = d.setters := rfl
@[simp] theorem Dev.setHeld_time (a : Nat) (x : Option Word) : (d.setHeld a x).time = d.time := rfl
@[simp] theorem Dev.setHeld_ref (a : Nat) (x : Option Word) : (d.setHeld a x).ref = d.ref := rfl
@[simp] theorem Dev.setHeld_swm (a : Nat) (x : Option Word) : (d.setHeld a x).swm = d.swm := rfl
@[simp] theorem Dev.setHeld_alc (a : Nat) (x : Option Word) : (d.setHeld a x).alc = d.alc := rfl
@[simp] theorem Dev.setHeld_cue (a : Nat) (x : Option Word) : (d.setHeld a x).cue = d.cue := rfl
@[simp] theorem Dev.setHeld_hcp (a : Nat) (x : Option Word) : (d.setHeld a x).hcp = d.hcp := rfl
@[simp] theorem Dev.setHeld_mem (a : Nat) (x : Option Word) : (d.setHeld a x).mem = d.mem := rfl
@[simp] theorem Dev.setHeld_outp (a : Nat) (x : Option Word) : (d.setHeld a x).outp = d.outp := rfl
@[simp] theorem Dev.setHeld_tcu (a : Nat) (x : Option Word) : (d.setHeld a x).tcu = d.tcu := rfl
@[simp] theorem Dev.setHeld_twt (a : Nat) (x : Option Word) : (d.setHeld a x).twt = d.twt := rfl
@[simp] theorem Dev.setHeld_twc (a : Nat) (x : Option Word) : (d.setHeld a x).twc = d.twc := rfl
@[simp] theorem Dev.setHeld_ua0 (a : Nat) (x : Option Word) : (d.setHeld a x).ua0 = d.ua0 := rfl
@[simp] theorem Dev.setHeld_ua1 (a : Nat) (x : Option Word) : (d.setHeld a x).ua1 = d.ua1 := rfl
@[simp] theorem Dev.setHeld_pwr (a : Nat) (x : Option Word) : (d.setHeld a x).pwr = d.pwr := rfl
@[simp] theorem Dev.setHeld_sys (a : Nat) (x : Option Word) : (d.setHeld a x).sys = d.sys := rfl
@[simp] theorem Dev.setHeld_upd (a : Nat) (x : Option Word) : (d.setHeld a x).upd = d.upd := rfl
@[simp] theorem Dev.setHeld_flt (a : Nat) (x : Option Word) : (d.setHeld a x).flt = d.flt := rfl
@[simp] theorem Dev.setHeld_dbg (a : Nat) (x : Option Word) : (d.setHeld a x).dbg = d.dbg := rfl

@[simp] theorem Dev.setByte_out (a : Nat) (b : Byte) : (d.setByte a b).out = d.out := rfl
@[simp] theorem Dev.setByte_fresh (a : Nat) (b : Byte) : (d.setByte a b).fresh = d.fresh := rfl
@[simp] theorem Dev.setByte_regs (a : Nat) (b : Byte) : (d.setByte a b).regs = d.regs := rfl
@[simp] theorem Dev.setByte_applied (a : Nat) (b : Byte) : (d.setByte a b).applied = d.applied := rfl
@[simp] theorem Dev.setByte_setters (a : Nat) (b : Byte) : (d.setByte a b).setters = d.setters := rfl
@[simp] theorem Dev.setByte_held (a : Nat) (b : Byte) : (d.setByte a b).held = d.held := rfl
@[simp] theorem Dev.setByte_time (a : Nat) (b : Byte) : (d.setByte a b).time = d.time := rfl
@[simp] theorem Dev.setByte_ref (a : Nat) (b : Byte) : (d.setByte a b).ref = d.ref := rfl
@[simp] theorem Dev.setByte_swm (a : Nat) (b : Byte) : (d.setByte a b).swm = d.swm := rfl
@[simp] theorem Dev.setByte_alc (a : Nat) (b : Byte) : (d.setByte a b).alc = d.alc := rfl
@[simp] theorem Dev.setByte_cue (a : Nat) (b : Byte) : (d.setByte a b).cue = d.cue := rfl
@[simp] theorem Dev.setByte_hcp (a : Nat) (b : Byte) : (d.setByte a b).hcp = d.hcp := rfl
@[simp] theorem Dev.setByte_outp (a : Nat) (b : Byte) : (d.setByte a b).outp = d.outp := rfl
@[simp] theorem Dev.setByte_tcu (a : Nat) (b : Byte) : (d.setByte a b).tcu = d.tcu := rfl
@[simp] theorem Dev.setByte_twt (a : Nat) (b : Byte) : (d.setByte a b).twt = d.twt := rfl
@[simp] theorem Dev.setByte_twc (a : Nat) (b : Byte) : (d.setByte a b).twc = d.twc := rfl
@[simp] theorem Dev.setByte_ua0 (a : Nat) (b : Byte) : (d.setByte a b).ua0 = d.ua0 := rfl
@[simp] theorem Dev.setByte_ua1 (a : Nat) (b : Byte) : (d.setByte a b).ua1 = d.ua1 := rfl
@[simp] theorem Dev.setByte_pwr (a : Nat) (b : Byte) : (d.setByte a b).pwr = d.pwr := rfl
@[simp] theorem Dev.setByte_sys (a : Nat) (b : Byte) : (d.setByte a b).sys = d.sys := rfl
@[simp] theorem Dev.setByte_upd (a : Nat) (b : Byte) : (d.setByte a b).upd = d.upd := rfl
@[simp] theorem Dev.setByte_flt (a : Nat) (b : Byte) : (d.setByte a b).flt = d.flt := rfl
@[simp] theorem Dev.setByte_dbg (a : Nat) (b : Byte) : (d.setByte a b).dbg = d.dbg := rfl

@[simp] theorem Dev.setTag_out (l : Nat) (t : LineTag) : (d.setTag l t).out = d.out := rfl
@[simp] theorem Dev.setTag_fresh (l : Nat) (t : LineTag) : (d.setTag l t).fresh = d.fresh := rfl
@[simp] theorem Dev.setTag_regs (l : Nat) (t : LineTag) : (d.setTag l t).regs = d.regs := rfl
@[simp] theorem Dev.setTag_applied (l : Nat) (t : LineTag) : (d.setTag l t).applied = d.applied := rfl
@[simp] theorem Dev.setTag_setters (l : Nat) (t : LineTag) : (d.setTag l t).setters = d.setters := rfl
@[simp] theorem Dev.setTag_held (l : Nat) (t : LineTag) : (d.setTag l t).held = d.held := rfl
@[simp] theorem Dev.setTag_time (l : Nat) (t : LineTag) : (d.setTag l t).time = d.time := rfl
@[simp] theorem Dev.setTag_ref (l : Nat) (t : LineTag) : (d.setTag l t).ref = d.ref := rfl
@[simp] theorem Dev.setTag_swm (l : Nat) (t : LineTag) : (d.setTag l t).swm = d.swm := rfl
@[simp] theorem Dev.setTag_alc (l : Nat) (t : LineTag) : (d.setTag l t).alc = d.alc := rfl
@[simp] theorem Dev.setTag_cue (l : Nat) (t : LineTag) : (d.setTag l t).cue = d.cue := rfl
@[simp] theorem Dev.setTag_hcp (l : Nat) (t : LineTag) : (d.setTag l t).hcp = d.hcp := rfl
@[simp] theorem Dev.setTag_outp (l : Nat) (t : LineTag) : (d.setTag l t).outp = d.outp := rfl
@[simp] theorem Dev.setTag_tcu (l : Nat) (t : LineTag) : (d.setTag l t).tcu = d.tcu := rfl
@[simp] theorem Dev.setTag_twt (l : Nat) (t : LineTag) : (d.setTag l t).twt = d.twt := rfl
@[simp] theorem Dev.setTag_twc (l : Nat) (t : LineTag) : (d.setTag l t).twc = d.twc := rfl
@[simp] theorem Dev.setTag_ua0 (l : Nat) (t : LineTag) : (d.setTag l t).ua0 = d.ua0 := rfl
@[simp] theorem Dev.setTag_ua1 (l : Nat) (t : LineTag) : (d.setTag l t).ua1 = d.ua1 := rfl
@[simp] theorem Dev.setTag_pwr (l : Nat) (t : LineTag) : (d.setTag l t).pwr = d.pwr := rfl
@[simp] theorem Dev.setTag_sys (l : Nat) (t : LineTag) : (d.setTag l t).sys = d.sys := rfl
@[simp] theorem Dev.setTag_upd (l : Nat) (t : LineTag) : (d.setTag l t).upd = d.upd := rfl
@[simp] theorem Dev.setTag_flt (l : Nat) (t : LineTag) : (d.setTag l t).flt = d.flt := rfl
@[simp] theorem Dev.setTag_dbg (l : Nat) (t : LineTag) : (d.setTag l t).dbg = d.dbg := rfl

@[simp] theorem Dev.queueCe_out (l : Nat) : (d.queueCe l).out = d.out := rfl
@[simp] theorem Dev.queueCe_fresh (l : Nat) : (d.queueCe l).fresh = d.fresh := rfl
@[simp] theorem Dev.queueCe_regs (l : Nat) : (d.queueCe l).regs = d.regs := rfl
@[simp] theorem Dev.queueCe_applied (l : Nat) : (d.queueCe l).applied = d.applied := rfl
@[simp] theorem Dev.queueCe_setters (l : Nat) : (d.queueCe l).setters = d.setters := rfl
@[simp] theorem Dev.queueCe_held (l : Nat) : (d.queueCe l).held = d.held := rfl
@[simp] theorem Dev.queueCe_time (l : Nat) : (d.queueCe l).time = d.time := rfl
@[simp] theorem Dev.queueCe_ref (l : Nat) : (d.queueCe l).ref = d.ref := rfl
@[simp] theorem Dev.queueCe_swm (l : Nat) : (d.queueCe l).swm = d.swm := rfl
@[simp] theorem Dev.queueCe_alc (l : Nat) : (d.queueCe l).alc = d.alc := rfl
@[simp] theorem Dev.queueCe_cue (l : Nat) : (d.queueCe l).cue = d.cue := rfl
@[simp] theorem Dev.queueCe_hcp (l : Nat) : (d.queueCe l).hcp = d.hcp := rfl
@[simp] theorem Dev.queueCe_outp (l : Nat) : (d.queueCe l).outp = d.outp := rfl
@[simp] theorem Dev.queueCe_tcu (l : Nat) : (d.queueCe l).tcu = d.tcu := rfl
@[simp] theorem Dev.queueCe_twt (l : Nat) : (d.queueCe l).twt = d.twt := rfl
@[simp] theorem Dev.queueCe_twc (l : Nat) : (d.queueCe l).twc = d.twc := rfl
@[simp] theorem Dev.queueCe_ua0 (l : Nat) : (d.queueCe l).ua0 = d.ua0 := rfl
@[simp] theorem Dev.queueCe_ua1 (l : Nat) : (d.queueCe l).ua1 = d.ua1 := rfl
@[simp] theorem Dev.queueCe_pwr (l : Nat) : (d.queueCe l).pwr = d.pwr := rfl
@[simp] theorem Dev.queueCe_sys (l : Nat) : (d.queueCe l).sys = d.sys := rfl
@[simp] theorem Dev.queueCe_upd (l : Nat) : (d.queueCe l).upd = d.upd := rfl
@[simp] theorem Dev.queueCe_flt (l : Nat) : (d.queueCe l).flt = d.flt := rfl
@[simp] theorem Dev.queueCe_dbg (l : Nat) : (d.queueCe l).dbg = d.dbg := rfl

@[simp] theorem Dev.queueUe_out (l : Nat) : (d.queueUe l).out = d.out := rfl
@[simp] theorem Dev.queueUe_fresh (l : Nat) : (d.queueUe l).fresh = d.fresh := rfl
@[simp] theorem Dev.queueUe_regs (l : Nat) : (d.queueUe l).regs = d.regs := rfl
@[simp] theorem Dev.queueUe_applied (l : Nat) : (d.queueUe l).applied = d.applied := rfl
@[simp] theorem Dev.queueUe_setters (l : Nat) : (d.queueUe l).setters = d.setters := rfl
@[simp] theorem Dev.queueUe_held (l : Nat) : (d.queueUe l).held = d.held := rfl
@[simp] theorem Dev.queueUe_time (l : Nat) : (d.queueUe l).time = d.time := rfl
@[simp] theorem Dev.queueUe_ref (l : Nat) : (d.queueUe l).ref = d.ref := rfl
@[simp] theorem Dev.queueUe_swm (l : Nat) : (d.queueUe l).swm = d.swm := rfl
@[simp] theorem Dev.queueUe_alc (l : Nat) : (d.queueUe l).alc = d.alc := rfl
@[simp] theorem Dev.queueUe_cue (l : Nat) : (d.queueUe l).cue = d.cue := rfl
@[simp] theorem Dev.queueUe_hcp (l : Nat) : (d.queueUe l).hcp = d.hcp := rfl
@[simp] theorem Dev.queueUe_outp (l : Nat) : (d.queueUe l).outp = d.outp := rfl
@[simp] theorem Dev.queueUe_tcu (l : Nat) : (d.queueUe l).tcu = d.tcu := rfl
@[simp] theorem Dev.queueUe_twt (l : Nat) : (d.queueUe l).twt = d.twt := rfl
@[simp] theorem Dev.queueUe_twc (l : Nat) : (d.queueUe l).twc = d.twc := rfl
@[simp] theorem Dev.queueUe_ua0 (l : Nat) : (d.queueUe l).ua0 = d.ua0 := rfl
@[simp] theorem Dev.queueUe_ua1 (l : Nat) : (d.queueUe l).ua1 = d.ua1 := rfl
@[simp] theorem Dev.queueUe_pwr (l : Nat) : (d.queueUe l).pwr = d.pwr := rfl
@[simp] theorem Dev.queueUe_sys (l : Nat) : (d.queueUe l).sys = d.sys := rfl
@[simp] theorem Dev.queueUe_upd (l : Nat) : (d.queueUe l).upd = d.upd := rfl
@[simp] theorem Dev.queueUe_flt (l : Nat) : (d.queueUe l).flt = d.flt := rfl
@[simp] theorem Dev.queueUe_dbg (l : Nat) : (d.queueUe l).dbg = d.dbg := rfl

@[simp] theorem Dev.unqueue_out (l : Nat) : (d.unqueue l).out = d.out := rfl
@[simp] theorem Dev.unqueue_fresh (l : Nat) : (d.unqueue l).fresh = d.fresh := rfl
@[simp] theorem Dev.unqueue_regs (l : Nat) : (d.unqueue l).regs = d.regs := rfl
@[simp] theorem Dev.unqueue_applied (l : Nat) : (d.unqueue l).applied = d.applied := rfl
@[simp] theorem Dev.unqueue_setters (l : Nat) : (d.unqueue l).setters = d.setters := rfl
@[simp] theorem Dev.unqueue_held (l : Nat) : (d.unqueue l).held = d.held := rfl
@[simp] theorem Dev.unqueue_time (l : Nat) : (d.unqueue l).time = d.time := rfl
@[simp] theorem Dev.unqueue_ref (l : Nat) : (d.unqueue l).ref = d.ref := rfl
@[simp] theorem Dev.unqueue_swm (l : Nat) : (d.unqueue l).swm = d.swm := rfl
@[simp] theorem Dev.unqueue_alc (l : Nat) : (d.unqueue l).alc = d.alc := rfl
@[simp] theorem Dev.unqueue_cue (l : Nat) : (d.unqueue l).cue = d.cue := rfl
@[simp] theorem Dev.unqueue_hcp (l : Nat) : (d.unqueue l).hcp = d.hcp := rfl
@[simp] theorem Dev.unqueue_outp (l : Nat) : (d.unqueue l).outp = d.outp := rfl
@[simp] theorem Dev.unqueue_tcu (l : Nat) : (d.unqueue l).tcu = d.tcu := rfl
@[simp] theorem Dev.unqueue_twt (l : Nat) : (d.unqueue l).twt = d.twt := rfl
@[simp] theorem Dev.unqueue_twc (l : Nat) : (d.unqueue l).twc = d.twc := rfl
@[simp] theorem Dev.unqueue_ua0 (l : Nat) : (d.unqueue l).ua0 = d.ua0 := rfl
@[simp] theorem Dev.unqueue_ua1 (l : Nat) : (d.unqueue l).ua1 = d.ua1 := rfl
@[simp] theorem Dev.unqueue_pwr (l : Nat) : (d.unqueue l).pwr = d.pwr := rfl
@[simp] theorem Dev.unqueue_sys (l : Nat) : (d.unqueue l).sys = d.sys := rfl
@[simp] theorem Dev.unqueue_upd (l : Nat) : (d.unqueue l).upd = d.upd := rfl
@[simp] theorem Dev.unqueue_flt (l : Nat) : (d.unqueue l).flt = d.flt := rfl
@[simp] theorem Dev.unqueue_dbg (l : Nat) : (d.unqueue l).dbg = d.dbg := rfl

@[simp] theorem Dev.wipe_out (b : BitVec 13) : (d.wipe b).out = d.out := rfl
@[simp] theorem Dev.wipe_fresh (b : BitVec 13) : (d.wipe b).fresh = d.fresh := rfl
@[simp] theorem Dev.wipe_regs (b : BitVec 13) : (d.wipe b).regs = d.regs := rfl
@[simp] theorem Dev.wipe_applied (b : BitVec 13) : (d.wipe b).applied = d.applied := rfl
@[simp] theorem Dev.wipe_setters (b : BitVec 13) : (d.wipe b).setters = d.setters := rfl
@[simp] theorem Dev.wipe_held (b : BitVec 13) : (d.wipe b).held = d.held := rfl
@[simp] theorem Dev.wipe_time (b : BitVec 13) : (d.wipe b).time = d.time := rfl
@[simp] theorem Dev.wipe_ref (b : BitVec 13) : (d.wipe b).ref = d.ref := rfl
@[simp] theorem Dev.wipe_swm (b : BitVec 13) : (d.wipe b).swm = d.swm := rfl
@[simp] theorem Dev.wipe_alc (b : BitVec 13) : (d.wipe b).alc = d.alc := rfl
@[simp] theorem Dev.wipe_cue (b : BitVec 13) : (d.wipe b).cue = d.cue := rfl
@[simp] theorem Dev.wipe_hcp (b : BitVec 13) : (d.wipe b).hcp = d.hcp := rfl
@[simp] theorem Dev.wipe_outp (b : BitVec 13) : (d.wipe b).outp = d.outp := rfl
@[simp] theorem Dev.wipe_tcu (b : BitVec 13) : (d.wipe b).tcu = d.tcu := rfl
@[simp] theorem Dev.wipe_twt (b : BitVec 13) : (d.wipe b).twt = d.twt := rfl
@[simp] theorem Dev.wipe_twc (b : BitVec 13) : (d.wipe b).twc = d.twc := rfl
@[simp] theorem Dev.wipe_ua0 (b : BitVec 13) : (d.wipe b).ua0 = d.ua0 := rfl
@[simp] theorem Dev.wipe_ua1 (b : BitVec 13) : (d.wipe b).ua1 = d.ua1 := rfl
@[simp] theorem Dev.wipe_pwr (b : BitVec 13) : (d.wipe b).pwr = d.pwr := rfl
@[simp] theorem Dev.wipe_sys (b : BitVec 13) : (d.wipe b).sys = d.sys := rfl
@[simp] theorem Dev.wipe_upd (b : BitVec 13) : (d.wipe b).upd = d.upd := rfl
@[simp] theorem Dev.wipe_flt (b : BitVec 13) : (d.wipe b).flt = d.flt := rfl
@[simp] theorem Dev.wipe_dbg (b : BitVec 13) : (d.wipe b).dbg = d.dbg := rfl

@[simp] theorem Dev.flashErase_out (n : Nat) : (d.flashErase n).out = d.out := rfl
@[simp] theorem Dev.flashErase_fresh (n : Nat) : (d.flashErase n).fresh = d.fresh := rfl
@[simp] theorem Dev.flashErase_regs (n : Nat) : (d.flashErase n).regs = d.regs := rfl
@[simp] theorem Dev.flashErase_applied (n : Nat) : (d.flashErase n).applied = d.applied := rfl
@[simp] theorem Dev.flashErase_setters (n : Nat) : (d.flashErase n).setters = d.setters := rfl
@[simp] theorem Dev.flashErase_held (n : Nat) : (d.flashErase n).held = d.held := rfl
@[simp] theorem Dev.flashErase_time (n : Nat) : (d.flashErase n).time = d.time := rfl
@[simp] theorem Dev.flashErase_ref (n : Nat) : (d.flashErase n).ref = d.ref := rfl
@[simp] theorem Dev.flashErase_swm (n : Nat) : (d.flashErase n).swm = d.swm := rfl
@[simp] theorem Dev.flashErase_alc (n : Nat) : (d.flashErase n).alc = d.alc := rfl
@[simp] theorem Dev.flashErase_cue (n : Nat) : (d.flashErase n).cue = d.cue := rfl
@[simp] theorem Dev.flashErase_hcp (n : Nat) : (d.flashErase n).hcp = d.hcp := rfl
@[simp] theorem Dev.flashErase_outp (n : Nat) : (d.flashErase n).outp = d.outp := rfl
@[simp] theorem Dev.flashErase_tcu (n : Nat) : (d.flashErase n).tcu = d.tcu := rfl
@[simp] theorem Dev.flashErase_twt (n : Nat) : (d.flashErase n).twt = d.twt := rfl
@[simp] theorem Dev.flashErase_twc (n : Nat) : (d.flashErase n).twc = d.twc := rfl
@[simp] theorem Dev.flashErase_ua0 (n : Nat) : (d.flashErase n).ua0 = d.ua0 := rfl
@[simp] theorem Dev.flashErase_ua1 (n : Nat) : (d.flashErase n).ua1 = d.ua1 := rfl
@[simp] theorem Dev.flashErase_pwr (n : Nat) : (d.flashErase n).pwr = d.pwr := rfl
@[simp] theorem Dev.flashErase_sys (n : Nat) : (d.flashErase n).sys = d.sys := rfl
@[simp] theorem Dev.flashErase_upd (n : Nat) : (d.flashErase n).upd = d.upd := rfl
@[simp] theorem Dev.flashErase_flt (n : Nat) : (d.flashErase n).flt = d.flt := rfl
@[simp] theorem Dev.flashErase_dbg (n : Nat) : (d.flashErase n).dbg = d.dbg := rfl

@[simp] theorem Dev.setVoice_out (v : Nat) (x : Voice) : (d.setVoice v x).out = d.out := rfl
@[simp] theorem Dev.setVoice_fresh (v : Nat) (x : Voice) : (d.setVoice v x).fresh = d.fresh := rfl
@[simp] theorem Dev.setVoice_regs (v : Nat) (x : Voice) : (d.setVoice v x).regs = d.regs := rfl
@[simp] theorem Dev.setVoice_applied (v : Nat) (x : Voice) : (d.setVoice v x).applied = d.applied := rfl
@[simp] theorem Dev.setVoice_setters (v : Nat) (x : Voice) : (d.setVoice v x).setters = d.setters := rfl
@[simp] theorem Dev.setVoice_held (v : Nat) (x : Voice) : (d.setVoice v x).held = d.held := rfl
@[simp] theorem Dev.setVoice_time (v : Nat) (x : Voice) : (d.setVoice v x).time = d.time := rfl
@[simp] theorem Dev.setVoice_ref (v : Nat) (x : Voice) : (d.setVoice v x).ref = d.ref := rfl
@[simp] theorem Dev.setVoice_alc (v : Nat) (x : Voice) : (d.setVoice v x).alc = d.alc := rfl
@[simp] theorem Dev.setVoice_cue (v : Nat) (x : Voice) : (d.setVoice v x).cue = d.cue := rfl
@[simp] theorem Dev.setVoice_hcp (v : Nat) (x : Voice) : (d.setVoice v x).hcp = d.hcp := rfl
@[simp] theorem Dev.setVoice_mem (v : Nat) (x : Voice) : (d.setVoice v x).mem = d.mem := rfl
@[simp] theorem Dev.setVoice_outp (v : Nat) (x : Voice) : (d.setVoice v x).outp = d.outp := rfl
@[simp] theorem Dev.setVoice_tcu (v : Nat) (x : Voice) : (d.setVoice v x).tcu = d.tcu := rfl
@[simp] theorem Dev.setVoice_twt (v : Nat) (x : Voice) : (d.setVoice v x).twt = d.twt := rfl
@[simp] theorem Dev.setVoice_twc (v : Nat) (x : Voice) : (d.setVoice v x).twc = d.twc := rfl
@[simp] theorem Dev.setVoice_ua0 (v : Nat) (x : Voice) : (d.setVoice v x).ua0 = d.ua0 := rfl
@[simp] theorem Dev.setVoice_ua1 (v : Nat) (x : Voice) : (d.setVoice v x).ua1 = d.ua1 := rfl
@[simp] theorem Dev.setVoice_pwr (v : Nat) (x : Voice) : (d.setVoice v x).pwr = d.pwr := rfl
@[simp] theorem Dev.setVoice_sys (v : Nat) (x : Voice) : (d.setVoice v x).sys = d.sys := rfl
@[simp] theorem Dev.setVoice_upd (v : Nat) (x : Voice) : (d.setVoice v x).upd = d.upd := rfl
@[simp] theorem Dev.setVoice_flt (v : Nat) (x : Voice) : (d.setVoice v x).flt = d.flt := rfl
@[simp] theorem Dev.setVoice_dbg (v : Nat) (x : Voice) : (d.setVoice v x).dbg = d.dbg := rfl

@[simp] theorem Dev.setSen_out (x : Sentinel) : (d.setSen x).out = d.out := rfl
@[simp] theorem Dev.setSen_fresh (x : Sentinel) : (d.setSen x).fresh = d.fresh := rfl
@[simp] theorem Dev.setSen_regs (x : Sentinel) : (d.setSen x).regs = d.regs := rfl
@[simp] theorem Dev.setSen_applied (x : Sentinel) : (d.setSen x).applied = d.applied := rfl
@[simp] theorem Dev.setSen_setters (x : Sentinel) : (d.setSen x).setters = d.setters := rfl
@[simp] theorem Dev.setSen_held (x : Sentinel) : (d.setSen x).held = d.held := rfl
@[simp] theorem Dev.setSen_time (x : Sentinel) : (d.setSen x).time = d.time := rfl
@[simp] theorem Dev.setSen_ref (x : Sentinel) : (d.setSen x).ref = d.ref := rfl
@[simp] theorem Dev.setSen_alc (x : Sentinel) : (d.setSen x).alc = d.alc := rfl
@[simp] theorem Dev.setSen_cue (x : Sentinel) : (d.setSen x).cue = d.cue := rfl
@[simp] theorem Dev.setSen_hcp (x : Sentinel) : (d.setSen x).hcp = d.hcp := rfl
@[simp] theorem Dev.setSen_mem (x : Sentinel) : (d.setSen x).mem = d.mem := rfl
@[simp] theorem Dev.setSen_outp (x : Sentinel) : (d.setSen x).outp = d.outp := rfl
@[simp] theorem Dev.setSen_tcu (x : Sentinel) : (d.setSen x).tcu = d.tcu := rfl
@[simp] theorem Dev.setSen_twt (x : Sentinel) : (d.setSen x).twt = d.twt := rfl
@[simp] theorem Dev.setSen_twc (x : Sentinel) : (d.setSen x).twc = d.twc := rfl
@[simp] theorem Dev.setSen_ua0 (x : Sentinel) : (d.setSen x).ua0 = d.ua0 := rfl
@[simp] theorem Dev.setSen_ua1 (x : Sentinel) : (d.setSen x).ua1 = d.ua1 := rfl
@[simp] theorem Dev.setSen_pwr (x : Sentinel) : (d.setSen x).pwr = d.pwr := rfl
@[simp] theorem Dev.setSen_sys (x : Sentinel) : (d.setSen x).sys = d.sys := rfl
@[simp] theorem Dev.setSen_upd (x : Sentinel) : (d.setSen x).upd = d.upd := rfl
@[simp] theorem Dev.setSen_flt (x : Sentinel) : (d.setSen x).flt = d.flt := rfl
@[simp] theorem Dev.setSen_dbg (x : Sentinel) : (d.setSen x).dbg = d.dbg := rfl

@[simp] theorem Dev.setHusk_out (h : Nat) (x : Husk) : (d.setHusk h x).out = d.out := rfl
@[simp] theorem Dev.setHusk_fresh (h : Nat) (x : Husk) : (d.setHusk h x).fresh = d.fresh := rfl
@[simp] theorem Dev.setHusk_regs (h : Nat) (x : Husk) : (d.setHusk h x).regs = d.regs := rfl
@[simp] theorem Dev.setHusk_applied (h : Nat) (x : Husk) : (d.setHusk h x).applied = d.applied := rfl
@[simp] theorem Dev.setHusk_setters (h : Nat) (x : Husk) : (d.setHusk h x).setters = d.setters := rfl
@[simp] theorem Dev.setHusk_held (h : Nat) (x : Husk) : (d.setHusk h x).held = d.held := rfl
@[simp] theorem Dev.setHusk_time (h : Nat) (x : Husk) : (d.setHusk h x).time = d.time := rfl
@[simp] theorem Dev.setHusk_ref (h : Nat) (x : Husk) : (d.setHusk h x).ref = d.ref := rfl
@[simp] theorem Dev.setHusk_alc (h : Nat) (x : Husk) : (d.setHusk h x).alc = d.alc := rfl
@[simp] theorem Dev.setHusk_cue (h : Nat) (x : Husk) : (d.setHusk h x).cue = d.cue := rfl
@[simp] theorem Dev.setHusk_hcp (h : Nat) (x : Husk) : (d.setHusk h x).hcp = d.hcp := rfl
@[simp] theorem Dev.setHusk_mem (h : Nat) (x : Husk) : (d.setHusk h x).mem = d.mem := rfl
@[simp] theorem Dev.setHusk_outp (h : Nat) (x : Husk) : (d.setHusk h x).outp = d.outp := rfl
@[simp] theorem Dev.setHusk_tcu (h : Nat) (x : Husk) : (d.setHusk h x).tcu = d.tcu := rfl
@[simp] theorem Dev.setHusk_twt (h : Nat) (x : Husk) : (d.setHusk h x).twt = d.twt := rfl
@[simp] theorem Dev.setHusk_twc (h : Nat) (x : Husk) : (d.setHusk h x).twc = d.twc := rfl
@[simp] theorem Dev.setHusk_ua0 (h : Nat) (x : Husk) : (d.setHusk h x).ua0 = d.ua0 := rfl
@[simp] theorem Dev.setHusk_ua1 (h : Nat) (x : Husk) : (d.setHusk h x).ua1 = d.ua1 := rfl
@[simp] theorem Dev.setHusk_pwr (h : Nat) (x : Husk) : (d.setHusk h x).pwr = d.pwr := rfl
@[simp] theorem Dev.setHusk_sys (h : Nat) (x : Husk) : (d.setHusk h x).sys = d.sys := rfl
@[simp] theorem Dev.setHusk_upd (h : Nat) (x : Husk) : (d.setHusk h x).upd = d.upd := rfl
@[simp] theorem Dev.setHusk_flt (h : Nat) (x : Husk) : (d.setHusk h x).flt = d.flt := rfl
@[simp] theorem Dev.setHusk_dbg (h : Nat) (x : Husk) : (d.setHusk h x).dbg = d.dbg := rfl

@[simp] theorem Dev.busAdd_out (b : Nat) (x : Int) : (d.busAdd b x).out = d.out := rfl
@[simp] theorem Dev.busAdd_fresh (b : Nat) (x : Int) : (d.busAdd b x).fresh = d.fresh := rfl
@[simp] theorem Dev.busAdd_regs (b : Nat) (x : Int) : (d.busAdd b x).regs = d.regs := rfl
@[simp] theorem Dev.busAdd_applied (b : Nat) (x : Int) : (d.busAdd b x).applied = d.applied := rfl
@[simp] theorem Dev.busAdd_setters (b : Nat) (x : Int) : (d.busAdd b x).setters = d.setters := rfl
@[simp] theorem Dev.busAdd_held (b : Nat) (x : Int) : (d.busAdd b x).held = d.held := rfl
@[simp] theorem Dev.busAdd_time (b : Nat) (x : Int) : (d.busAdd b x).time = d.time := rfl
@[simp] theorem Dev.busAdd_ref (b : Nat) (x : Int) : (d.busAdd b x).ref = d.ref := rfl
@[simp] theorem Dev.busAdd_alc (b : Nat) (x : Int) : (d.busAdd b x).alc = d.alc := rfl
@[simp] theorem Dev.busAdd_cue (b : Nat) (x : Int) : (d.busAdd b x).cue = d.cue := rfl
@[simp] theorem Dev.busAdd_hcp (b : Nat) (x : Int) : (d.busAdd b x).hcp = d.hcp := rfl
@[simp] theorem Dev.busAdd_mem (b : Nat) (x : Int) : (d.busAdd b x).mem = d.mem := rfl
@[simp] theorem Dev.busAdd_outp (b : Nat) (x : Int) : (d.busAdd b x).outp = d.outp := rfl
@[simp] theorem Dev.busAdd_tcu (b : Nat) (x : Int) : (d.busAdd b x).tcu = d.tcu := rfl
@[simp] theorem Dev.busAdd_twt (b : Nat) (x : Int) : (d.busAdd b x).twt = d.twt := rfl
@[simp] theorem Dev.busAdd_twc (b : Nat) (x : Int) : (d.busAdd b x).twc = d.twc := rfl
@[simp] theorem Dev.busAdd_ua0 (b : Nat) (x : Int) : (d.busAdd b x).ua0 = d.ua0 := rfl
@[simp] theorem Dev.busAdd_ua1 (b : Nat) (x : Int) : (d.busAdd b x).ua1 = d.ua1 := rfl
@[simp] theorem Dev.busAdd_pwr (b : Nat) (x : Int) : (d.busAdd b x).pwr = d.pwr := rfl
@[simp] theorem Dev.busAdd_sys (b : Nat) (x : Int) : (d.busAdd b x).sys = d.sys := rfl
@[simp] theorem Dev.busAdd_upd (b : Nat) (x : Int) : (d.busAdd b x).upd = d.upd := rfl
@[simp] theorem Dev.busAdd_flt (b : Nat) (x : Int) : (d.busAdd b x).flt = d.flt := rfl
@[simp] theorem Dev.busAdd_dbg (b : Nat) (x : Int) : (d.busAdd b x).dbg = d.dbg := rfl

@[simp] theorem Dev.setVentry_out (v : Nat) (x : VEntry) : (d.setVentry v x).out = d.out := rfl
@[simp] theorem Dev.setVentry_fresh (v : Nat) (x : VEntry) : (d.setVentry v x).fresh = d.fresh := rfl
@[simp] theorem Dev.setVentry_regs (v : Nat) (x : VEntry) : (d.setVentry v x).regs = d.regs := rfl
@[simp] theorem Dev.setVentry_applied (v : Nat) (x : VEntry) : (d.setVentry v x).applied = d.applied := rfl
@[simp] theorem Dev.setVentry_setters (v : Nat) (x : VEntry) : (d.setVentry v x).setters = d.setters := rfl
@[simp] theorem Dev.setVentry_held (v : Nat) (x : VEntry) : (d.setVentry v x).held = d.held := rfl
@[simp] theorem Dev.setVentry_time (v : Nat) (x : VEntry) : (d.setVentry v x).time = d.time := rfl
@[simp] theorem Dev.setVentry_ref (v : Nat) (x : VEntry) : (d.setVentry v x).ref = d.ref := rfl
@[simp] theorem Dev.setVentry_swm (v : Nat) (x : VEntry) : (d.setVentry v x).swm = d.swm := rfl
@[simp] theorem Dev.setVentry_cue (v : Nat) (x : VEntry) : (d.setVentry v x).cue = d.cue := rfl
@[simp] theorem Dev.setVentry_hcp (v : Nat) (x : VEntry) : (d.setVentry v x).hcp = d.hcp := rfl
@[simp] theorem Dev.setVentry_mem (v : Nat) (x : VEntry) : (d.setVentry v x).mem = d.mem := rfl
@[simp] theorem Dev.setVentry_outp (v : Nat) (x : VEntry) : (d.setVentry v x).outp = d.outp := rfl
@[simp] theorem Dev.setVentry_tcu (v : Nat) (x : VEntry) : (d.setVentry v x).tcu = d.tcu := rfl
@[simp] theorem Dev.setVentry_twt (v : Nat) (x : VEntry) : (d.setVentry v x).twt = d.twt := rfl
@[simp] theorem Dev.setVentry_twc (v : Nat) (x : VEntry) : (d.setVentry v x).twc = d.twc := rfl
@[simp] theorem Dev.setVentry_ua0 (v : Nat) (x : VEntry) : (d.setVentry v x).ua0 = d.ua0 := rfl
@[simp] theorem Dev.setVentry_ua1 (v : Nat) (x : VEntry) : (d.setVentry v x).ua1 = d.ua1 := rfl
@[simp] theorem Dev.setVentry_pwr (v : Nat) (x : VEntry) : (d.setVentry v x).pwr = d.pwr := rfl
@[simp] theorem Dev.setVentry_sys (v : Nat) (x : VEntry) : (d.setVentry v x).sys = d.sys := rfl
@[simp] theorem Dev.setVentry_upd (v : Nat) (x : VEntry) : (d.setVentry v x).upd = d.upd := rfl
@[simp] theorem Dev.setVentry_flt (v : Nat) (x : VEntry) : (d.setVentry v x).flt = d.flt := rfl
@[simp] theorem Dev.setVentry_dbg (v : Nat) (x : VEntry) : (d.setVentry v x).dbg = d.dbg := rfl

@[simp] theorem Dev.setThread_out (n : Nat) (x : Thread) : (d.setThread n x).out = d.out := rfl
@[simp] theorem Dev.setThread_fresh (n : Nat) (x : Thread) : (d.setThread n x).fresh = d.fresh := rfl
@[simp] theorem Dev.setThread_regs (n : Nat) (x : Thread) : (d.setThread n x).regs = d.regs := rfl
@[simp] theorem Dev.setThread_applied (n : Nat) (x : Thread) : (d.setThread n x).applied = d.applied := rfl
@[simp] theorem Dev.setThread_setters (n : Nat) (x : Thread) : (d.setThread n x).setters = d.setters := rfl
@[simp] theorem Dev.setThread_held (n : Nat) (x : Thread) : (d.setThread n x).held = d.held := rfl
@[simp] theorem Dev.setThread_time (n : Nat) (x : Thread) : (d.setThread n x).time = d.time := rfl
@[simp] theorem Dev.setThread_ref (n : Nat) (x : Thread) : (d.setThread n x).ref = d.ref := rfl
@[simp] theorem Dev.setThread_swm (n : Nat) (x : Thread) : (d.setThread n x).swm = d.swm := rfl
@[simp] theorem Dev.setThread_alc (n : Nat) (x : Thread) : (d.setThread n x).alc = d.alc := rfl
@[simp] theorem Dev.setThread_hcp (n : Nat) (x : Thread) : (d.setThread n x).hcp = d.hcp := rfl
@[simp] theorem Dev.setThread_mem (n : Nat) (x : Thread) : (d.setThread n x).mem = d.mem := rfl
@[simp] theorem Dev.setThread_outp (n : Nat) (x : Thread) : (d.setThread n x).outp = d.outp := rfl
@[simp] theorem Dev.setThread_tcu (n : Nat) (x : Thread) : (d.setThread n x).tcu = d.tcu := rfl
@[simp] theorem Dev.setThread_twt (n : Nat) (x : Thread) : (d.setThread n x).twt = d.twt := rfl
@[simp] theorem Dev.setThread_twc (n : Nat) (x : Thread) : (d.setThread n x).twc = d.twc := rfl
@[simp] theorem Dev.setThread_ua0 (n : Nat) (x : Thread) : (d.setThread n x).ua0 = d.ua0 := rfl
@[simp] theorem Dev.setThread_ua1 (n : Nat) (x : Thread) : (d.setThread n x).ua1 = d.ua1 := rfl
@[simp] theorem Dev.setThread_pwr (n : Nat) (x : Thread) : (d.setThread n x).pwr = d.pwr := rfl
@[simp] theorem Dev.setThread_sys (n : Nat) (x : Thread) : (d.setThread n x).sys = d.sys := rfl
@[simp] theorem Dev.setThread_upd (n : Nat) (x : Thread) : (d.setThread n x).upd = d.upd := rfl
@[simp] theorem Dev.setThread_flt (n : Nat) (x : Thread) : (d.setThread n x).flt = d.flt := rfl
@[simp] theorem Dev.setThread_dbg (n : Nat) (x : Thread) : (d.setThread n x).dbg = d.dbg := rfl

@[simp] theorem Dev.modThread_out (n : Nat) (f : Thread → Thread) : (d.modThread n f).out = d.out := rfl
@[simp] theorem Dev.modThread_fresh (n : Nat) (f : Thread → Thread) : (d.modThread n f).fresh = d.fresh := rfl
@[simp] theorem Dev.modThread_regs (n : Nat) (f : Thread → Thread) : (d.modThread n f).regs = d.regs := rfl
@[simp] theorem Dev.modThread_applied (n : Nat) (f : Thread → Thread) : (d.modThread n f).applied = d.applied := rfl
@[simp] theorem Dev.modThread_setters (n : Nat) (f : Thread → Thread) : (d.modThread n f).setters = d.setters := rfl
@[simp] theorem Dev.modThread_held (n : Nat) (f : Thread → Thread) : (d.modThread n f).held = d.held := rfl
@[simp] theorem Dev.modThread_time (n : Nat) (f : Thread → Thread) : (d.modThread n f).time = d.time := rfl
@[simp] theorem Dev.modThread_ref (n : Nat) (f : Thread → Thread) : (d.modThread n f).ref = d.ref := rfl
@[simp] theorem Dev.modThread_swm (n : Nat) (f : Thread → Thread) : (d.modThread n f).swm = d.swm := rfl
@[simp] theorem Dev.modThread_alc (n : Nat) (f : Thread → Thread) : (d.modThread n f).alc = d.alc := rfl
@[simp] theorem Dev.modThread_hcp (n : Nat) (f : Thread → Thread) : (d.modThread n f).hcp = d.hcp := rfl
@[simp] theorem Dev.modThread_mem (n : Nat) (f : Thread → Thread) : (d.modThread n f).mem = d.mem := rfl
@[simp] theorem Dev.modThread_outp (n : Nat) (f : Thread → Thread) : (d.modThread n f).outp = d.outp := rfl
@[simp] theorem Dev.modThread_tcu (n : Nat) (f : Thread → Thread) : (d.modThread n f).tcu = d.tcu := rfl
@[simp] theorem Dev.modThread_twt (n : Nat) (f : Thread → Thread) : (d.modThread n f).twt = d.twt := rfl
@[simp] theorem Dev.modThread_twc (n : Nat) (f : Thread → Thread) : (d.modThread n f).twc = d.twc := rfl
@[simp] theorem Dev.modThread_ua0 (n : Nat) (f : Thread → Thread) : (d.modThread n f).ua0 = d.ua0 := rfl
@[simp] theorem Dev.modThread_ua1 (n : Nat) (f : Thread → Thread) : (d.modThread n f).ua1 = d.ua1 := rfl
@[simp] theorem Dev.modThread_pwr (n : Nat) (f : Thread → Thread) : (d.modThread n f).pwr = d.pwr := rfl
@[simp] theorem Dev.modThread_sys (n : Nat) (f : Thread → Thread) : (d.modThread n f).sys = d.sys := rfl
@[simp] theorem Dev.modThread_upd (n : Nat) (f : Thread → Thread) : (d.modThread n f).upd = d.upd := rfl
@[simp] theorem Dev.modThread_flt (n : Nat) (f : Thread → Thread) : (d.modThread n f).flt = d.flt := rfl
@[simp] theorem Dev.modThread_dbg (n : Nat) (f : Thread → Thread) : (d.modThread n f).dbg = d.dbg := rfl

@[simp] theorem Dev.threadStop_out (n : Nat) : (d.threadStop n).out = d.out := rfl
@[simp] theorem Dev.threadStop_fresh (n : Nat) : (d.threadStop n).fresh = d.fresh := rfl
@[simp] theorem Dev.threadStop_regs (n : Nat) : (d.threadStop n).regs = d.regs := rfl
@[simp] theorem Dev.threadStop_applied (n : Nat) : (d.threadStop n).applied = d.applied := rfl
@[simp] theorem Dev.threadStop_setters (n : Nat) : (d.threadStop n).setters = d.setters := rfl
@[simp] theorem Dev.threadStop_held (n : Nat) : (d.threadStop n).held = d.held := rfl
@[simp] theorem Dev.threadStop_time (n : Nat) : (d.threadStop n).time = d.time := rfl
@[simp] theorem Dev.threadStop_ref (n : Nat) : (d.threadStop n).ref = d.ref := rfl
@[simp] theorem Dev.threadStop_swm (n : Nat) : (d.threadStop n).swm = d.swm := rfl
@[simp] theorem Dev.threadStop_alc (n : Nat) : (d.threadStop n).alc = d.alc := rfl
@[simp] theorem Dev.threadStop_hcp (n : Nat) : (d.threadStop n).hcp = d.hcp := rfl
@[simp] theorem Dev.threadStop_mem (n : Nat) : (d.threadStop n).mem = d.mem := rfl
@[simp] theorem Dev.threadStop_outp (n : Nat) : (d.threadStop n).outp = d.outp := rfl
@[simp] theorem Dev.threadStop_tcu (n : Nat) : (d.threadStop n).tcu = d.tcu := rfl
@[simp] theorem Dev.threadStop_twt (n : Nat) : (d.threadStop n).twt = d.twt := rfl
@[simp] theorem Dev.threadStop_twc (n : Nat) : (d.threadStop n).twc = d.twc := rfl
@[simp] theorem Dev.threadStop_ua0 (n : Nat) : (d.threadStop n).ua0 = d.ua0 := rfl
@[simp] theorem Dev.threadStop_ua1 (n : Nat) : (d.threadStop n).ua1 = d.ua1 := rfl
@[simp] theorem Dev.threadStop_pwr (n : Nat) : (d.threadStop n).pwr = d.pwr := rfl
@[simp] theorem Dev.threadStop_sys (n : Nat) : (d.threadStop n).sys = d.sys := rfl
@[simp] theorem Dev.threadStop_upd (n : Nat) : (d.threadStop n).upd = d.upd := rfl
@[simp] theorem Dev.threadStop_flt (n : Nat) : (d.threadStop n).flt = d.flt := rfl
@[simp] theorem Dev.threadStop_dbg (n : Nat) : (d.threadStop n).dbg = d.dbg := rfl

@[simp] theorem Dev.signal_out (n : Nat) (b : BitVec 16) : (d.signal n b).out = d.out := rfl
@[simp] theorem Dev.signal_fresh (n : Nat) (b : BitVec 16) : (d.signal n b).fresh = d.fresh := rfl
@[simp] theorem Dev.signal_regs (n : Nat) (b : BitVec 16) : (d.signal n b).regs = d.regs := rfl
@[simp] theorem Dev.signal_applied (n : Nat) (b : BitVec 16) : (d.signal n b).applied = d.applied := rfl
@[simp] theorem Dev.signal_setters (n : Nat) (b : BitVec 16) : (d.signal n b).setters = d.setters := rfl
@[simp] theorem Dev.signal_held (n : Nat) (b : BitVec 16) : (d.signal n b).held = d.held := rfl
@[simp] theorem Dev.signal_time (n : Nat) (b : BitVec 16) : (d.signal n b).time = d.time := rfl
@[simp] theorem Dev.signal_ref (n : Nat) (b : BitVec 16) : (d.signal n b).ref = d.ref := rfl
@[simp] theorem Dev.signal_swm (n : Nat) (b : BitVec 16) : (d.signal n b).swm = d.swm := rfl
@[simp] theorem Dev.signal_alc (n : Nat) (b : BitVec 16) : (d.signal n b).alc = d.alc := rfl
@[simp] theorem Dev.signal_hcp (n : Nat) (b : BitVec 16) : (d.signal n b).hcp = d.hcp := rfl
@[simp] theorem Dev.signal_mem (n : Nat) (b : BitVec 16) : (d.signal n b).mem = d.mem := rfl
@[simp] theorem Dev.signal_outp (n : Nat) (b : BitVec 16) : (d.signal n b).outp = d.outp := rfl
@[simp] theorem Dev.signal_tcu (n : Nat) (b : BitVec 16) : (d.signal n b).tcu = d.tcu := rfl
@[simp] theorem Dev.signal_twt (n : Nat) (b : BitVec 16) : (d.signal n b).twt = d.twt := rfl
@[simp] theorem Dev.signal_twc (n : Nat) (b : BitVec 16) : (d.signal n b).twc = d.twc := rfl
@[simp] theorem Dev.signal_ua0 (n : Nat) (b : BitVec 16) : (d.signal n b).ua0 = d.ua0 := rfl
@[simp] theorem Dev.signal_ua1 (n : Nat) (b : BitVec 16) : (d.signal n b).ua1 = d.ua1 := rfl
@[simp] theorem Dev.signal_pwr (n : Nat) (b : BitVec 16) : (d.signal n b).pwr = d.pwr := rfl
@[simp] theorem Dev.signal_sys (n : Nat) (b : BitVec 16) : (d.signal n b).sys = d.sys := rfl
@[simp] theorem Dev.signal_upd (n : Nat) (b : BitVec 16) : (d.signal n b).upd = d.upd := rfl
@[simp] theorem Dev.signal_flt (n : Nat) (b : BitVec 16) : (d.signal n b).flt = d.flt := rfl
@[simp] theorem Dev.signal_dbg (n : Nat) (b : BitVec 16) : (d.signal n b).dbg = d.dbg := rfl

@[simp] theorem Dev.finish_out (n : Nat) (f : Thread → Thread) : (d.finish n f).out = d.out := rfl
@[simp] theorem Dev.finish_fresh (n : Nat) (f : Thread → Thread) : (d.finish n f).fresh = d.fresh := rfl
@[simp] theorem Dev.finish_regs (n : Nat) (f : Thread → Thread) : (d.finish n f).regs = d.regs := rfl
@[simp] theorem Dev.finish_applied (n : Nat) (f : Thread → Thread) : (d.finish n f).applied = d.applied := rfl
@[simp] theorem Dev.finish_setters (n : Nat) (f : Thread → Thread) : (d.finish n f).setters = d.setters := rfl
@[simp] theorem Dev.finish_held (n : Nat) (f : Thread → Thread) : (d.finish n f).held = d.held := rfl
@[simp] theorem Dev.finish_time (n : Nat) (f : Thread → Thread) : (d.finish n f).time = d.time := rfl
@[simp] theorem Dev.finish_ref (n : Nat) (f : Thread → Thread) : (d.finish n f).ref = d.ref := rfl
@[simp] theorem Dev.finish_swm (n : Nat) (f : Thread → Thread) : (d.finish n f).swm = d.swm := rfl
@[simp] theorem Dev.finish_alc (n : Nat) (f : Thread → Thread) : (d.finish n f).alc = d.alc := rfl
@[simp] theorem Dev.finish_hcp (n : Nat) (f : Thread → Thread) : (d.finish n f).hcp = d.hcp := rfl
@[simp] theorem Dev.finish_mem (n : Nat) (f : Thread → Thread) : (d.finish n f).mem = d.mem := rfl
@[simp] theorem Dev.finish_outp (n : Nat) (f : Thread → Thread) : (d.finish n f).outp = d.outp := rfl
@[simp] theorem Dev.finish_tcu (n : Nat) (f : Thread → Thread) : (d.finish n f).tcu = d.tcu := rfl
@[simp] theorem Dev.finish_twt (n : Nat) (f : Thread → Thread) : (d.finish n f).twt = d.twt := rfl
@[simp] theorem Dev.finish_twc (n : Nat) (f : Thread → Thread) : (d.finish n f).twc = d.twc := rfl
@[simp] theorem Dev.finish_ua0 (n : Nat) (f : Thread → Thread) : (d.finish n f).ua0 = d.ua0 := rfl
@[simp] theorem Dev.finish_ua1 (n : Nat) (f : Thread → Thread) : (d.finish n f).ua1 = d.ua1 := rfl
@[simp] theorem Dev.finish_pwr (n : Nat) (f : Thread → Thread) : (d.finish n f).pwr = d.pwr := rfl
@[simp] theorem Dev.finish_sys (n : Nat) (f : Thread → Thread) : (d.finish n f).sys = d.sys := rfl
@[simp] theorem Dev.finish_upd (n : Nat) (f : Thread → Thread) : (d.finish n f).upd = d.upd := rfl
@[simp] theorem Dev.finish_flt (n : Nat) (f : Thread → Thread) : (d.finish n f).flt = d.flt := rfl
@[simp] theorem Dev.finish_dbg (n : Nat) (f : Thread → Thread) : (d.finish n f).dbg = d.dbg := rfl

@[simp] theorem Dev.setHcp_out (f : HcpS → HcpS) : (d.setHcp f).out = d.out := rfl
@[simp] theorem Dev.setHcp_fresh (f : HcpS → HcpS) : (d.setHcp f).fresh = d.fresh := rfl
@[simp] theorem Dev.setHcp_regs (f : HcpS → HcpS) : (d.setHcp f).regs = d.regs := rfl
@[simp] theorem Dev.setHcp_applied (f : HcpS → HcpS) : (d.setHcp f).applied = d.applied := rfl
@[simp] theorem Dev.setHcp_setters (f : HcpS → HcpS) : (d.setHcp f).setters = d.setters := rfl
@[simp] theorem Dev.setHcp_held (f : HcpS → HcpS) : (d.setHcp f).held = d.held := rfl
@[simp] theorem Dev.setHcp_time (f : HcpS → HcpS) : (d.setHcp f).time = d.time := rfl
@[simp] theorem Dev.setHcp_ref (f : HcpS → HcpS) : (d.setHcp f).ref = d.ref := rfl
@[simp] theorem Dev.setHcp_swm (f : HcpS → HcpS) : (d.setHcp f).swm = d.swm := rfl
@[simp] theorem Dev.setHcp_alc (f : HcpS → HcpS) : (d.setHcp f).alc = d.alc := rfl
@[simp] theorem Dev.setHcp_cue (f : HcpS → HcpS) : (d.setHcp f).cue = d.cue := rfl
@[simp] theorem Dev.setHcp_mem (f : HcpS → HcpS) : (d.setHcp f).mem = d.mem := rfl
@[simp] theorem Dev.setHcp_outp (f : HcpS → HcpS) : (d.setHcp f).outp = d.outp := rfl
@[simp] theorem Dev.setHcp_tcu (f : HcpS → HcpS) : (d.setHcp f).tcu = d.tcu := rfl
@[simp] theorem Dev.setHcp_twt (f : HcpS → HcpS) : (d.setHcp f).twt = d.twt := rfl
@[simp] theorem Dev.setHcp_twc (f : HcpS → HcpS) : (d.setHcp f).twc = d.twc := rfl
@[simp] theorem Dev.setHcp_ua0 (f : HcpS → HcpS) : (d.setHcp f).ua0 = d.ua0 := rfl
@[simp] theorem Dev.setHcp_ua1 (f : HcpS → HcpS) : (d.setHcp f).ua1 = d.ua1 := rfl
@[simp] theorem Dev.setHcp_pwr (f : HcpS → HcpS) : (d.setHcp f).pwr = d.pwr := rfl
@[simp] theorem Dev.setHcp_sys (f : HcpS → HcpS) : (d.setHcp f).sys = d.sys := rfl
@[simp] theorem Dev.setHcp_upd (f : HcpS → HcpS) : (d.setHcp f).upd = d.upd := rfl
@[simp] theorem Dev.setHcp_flt (f : HcpS → HcpS) : (d.setHcp f).flt = d.flt := rfl
@[simp] theorem Dev.setHcp_dbg (f : HcpS → HcpS) : (d.setHcp f).dbg = d.dbg := rfl

@[simp] theorem Dev.freeTag_out (t : Nat) : (d.freeTag t).out = d.out := rfl
@[simp] theorem Dev.freeTag_fresh (t : Nat) : (d.freeTag t).fresh = d.fresh := rfl
@[simp] theorem Dev.freeTag_regs (t : Nat) : (d.freeTag t).regs = d.regs := rfl
@[simp] theorem Dev.freeTag_applied (t : Nat) : (d.freeTag t).applied = d.applied := rfl
@[simp] theorem Dev.freeTag_setters (t : Nat) : (d.freeTag t).setters = d.setters := rfl
@[simp] theorem Dev.freeTag_held (t : Nat) : (d.freeTag t).held = d.held := rfl
@[simp] theorem Dev.freeTag_time (t : Nat) : (d.freeTag t).time = d.time := rfl
@[simp] theorem Dev.freeTag_ref (t : Nat) : (d.freeTag t).ref = d.ref := rfl
@[simp] theorem Dev.freeTag_swm (t : Nat) : (d.freeTag t).swm = d.swm := rfl
@[simp] theorem Dev.freeTag_alc (t : Nat) : (d.freeTag t).alc = d.alc := rfl
@[simp] theorem Dev.freeTag_cue (t : Nat) : (d.freeTag t).cue = d.cue := rfl
@[simp] theorem Dev.freeTag_mem (t : Nat) : (d.freeTag t).mem = d.mem := rfl
@[simp] theorem Dev.freeTag_outp (t : Nat) : (d.freeTag t).outp = d.outp := rfl
@[simp] theorem Dev.freeTag_tcu (t : Nat) : (d.freeTag t).tcu = d.tcu := rfl
@[simp] theorem Dev.freeTag_twt (t : Nat) : (d.freeTag t).twt = d.twt := rfl
@[simp] theorem Dev.freeTag_twc (t : Nat) : (d.freeTag t).twc = d.twc := rfl
@[simp] theorem Dev.freeTag_ua0 (t : Nat) : (d.freeTag t).ua0 = d.ua0 := rfl
@[simp] theorem Dev.freeTag_ua1 (t : Nat) : (d.freeTag t).ua1 = d.ua1 := rfl
@[simp] theorem Dev.freeTag_pwr (t : Nat) : (d.freeTag t).pwr = d.pwr := rfl
@[simp] theorem Dev.freeTag_sys (t : Nat) : (d.freeTag t).sys = d.sys := rfl
@[simp] theorem Dev.freeTag_upd (t : Nat) : (d.freeTag t).upd = d.upd := rfl
@[simp] theorem Dev.freeTag_flt (t : Nat) : (d.freeTag t).flt = d.flt := rfl
@[simp] theorem Dev.freeTag_dbg (t : Nat) : (d.freeTag t).dbg = d.dbg := rfl

@[simp] theorem Dev.setPort_out (p : Nat) (x : Port) : (d.setPort p x).out = d.out := rfl
@[simp] theorem Dev.setPort_fresh (p : Nat) (x : Port) : (d.setPort p x).fresh = d.fresh := rfl
@[simp] theorem Dev.setPort_regs (p : Nat) (x : Port) : (d.setPort p x).regs = d.regs := rfl
@[simp] theorem Dev.setPort_applied (p : Nat) (x : Port) : (d.setPort p x).applied = d.applied := rfl
@[simp] theorem Dev.setPort_setters (p : Nat) (x : Port) : (d.setPort p x).setters = d.setters := rfl
@[simp] theorem Dev.setPort_held (p : Nat) (x : Port) : (d.setPort p x).held = d.held := rfl
@[simp] theorem Dev.setPort_time (p : Nat) (x : Port) : (d.setPort p x).time = d.time := rfl
@[simp] theorem Dev.setPort_ref (p : Nat) (x : Port) : (d.setPort p x).ref = d.ref := rfl
@[simp] theorem Dev.setPort_swm (p : Nat) (x : Port) : (d.setPort p x).swm = d.swm := rfl
@[simp] theorem Dev.setPort_alc (p : Nat) (x : Port) : (d.setPort p x).alc = d.alc := rfl
@[simp] theorem Dev.setPort_cue (p : Nat) (x : Port) : (d.setPort p x).cue = d.cue := rfl
@[simp] theorem Dev.setPort_hcp (p : Nat) (x : Port) : (d.setPort p x).hcp = d.hcp := rfl
@[simp] theorem Dev.setPort_mem (p : Nat) (x : Port) : (d.setPort p x).mem = d.mem := rfl
@[simp] theorem Dev.setPort_tcu (p : Nat) (x : Port) : (d.setPort p x).tcu = d.tcu := rfl
@[simp] theorem Dev.setPort_twt (p : Nat) (x : Port) : (d.setPort p x).twt = d.twt := rfl
@[simp] theorem Dev.setPort_twc (p : Nat) (x : Port) : (d.setPort p x).twc = d.twc := rfl
@[simp] theorem Dev.setPort_ua0 (p : Nat) (x : Port) : (d.setPort p x).ua0 = d.ua0 := rfl
@[simp] theorem Dev.setPort_ua1 (p : Nat) (x : Port) : (d.setPort p x).ua1 = d.ua1 := rfl
@[simp] theorem Dev.setPort_pwr (p : Nat) (x : Port) : (d.setPort p x).pwr = d.pwr := rfl
@[simp] theorem Dev.setPort_sys (p : Nat) (x : Port) : (d.setPort p x).sys = d.sys := rfl
@[simp] theorem Dev.setPort_upd (p : Nat) (x : Port) : (d.setPort p x).upd = d.upd := rfl
@[simp] theorem Dev.setPort_flt (p : Nat) (x : Port) : (d.setPort p x).flt = d.flt := rfl
@[simp] theorem Dev.setPort_dbg (p : Nat) (x : Port) : (d.setPort p x).dbg = d.dbg := rfl

@[simp] theorem Dev.setDac_out (c : Nat) (x : DacCh) : (d.setDac c x).out = d.out := rfl
@[simp] theorem Dev.setDac_fresh (c : Nat) (x : DacCh) : (d.setDac c x).fresh = d.fresh := rfl
@[simp] theorem Dev.setDac_regs (c : Nat) (x : DacCh) : (d.setDac c x).regs = d.regs := rfl
@[simp] theorem Dev.setDac_applied (c : Nat) (x : DacCh) : (d.setDac c x).applied = d.applied := rfl
@[simp] theorem Dev.setDac_setters (c : Nat) (x : DacCh) : (d.setDac c x).setters = d.setters := rfl
@[simp] theorem Dev.setDac_held (c : Nat) (x : DacCh) : (d.setDac c x).held = d.held := rfl
@[simp] theorem Dev.setDac_time (c : Nat) (x : DacCh) : (d.setDac c x).time = d.time := rfl
@[simp] theorem Dev.setDac_ref (c : Nat) (x : DacCh) : (d.setDac c x).ref = d.ref := rfl
@[simp] theorem Dev.setDac_swm (c : Nat) (x : DacCh) : (d.setDac c x).swm = d.swm := rfl
@[simp] theorem Dev.setDac_alc (c : Nat) (x : DacCh) : (d.setDac c x).alc = d.alc := rfl
@[simp] theorem Dev.setDac_cue (c : Nat) (x : DacCh) : (d.setDac c x).cue = d.cue := rfl
@[simp] theorem Dev.setDac_hcp (c : Nat) (x : DacCh) : (d.setDac c x).hcp = d.hcp := rfl
@[simp] theorem Dev.setDac_mem (c : Nat) (x : DacCh) : (d.setDac c x).mem = d.mem := rfl
@[simp] theorem Dev.setDac_tcu (c : Nat) (x : DacCh) : (d.setDac c x).tcu = d.tcu := rfl
@[simp] theorem Dev.setDac_twt (c : Nat) (x : DacCh) : (d.setDac c x).twt = d.twt := rfl
@[simp] theorem Dev.setDac_twc (c : Nat) (x : DacCh) : (d.setDac c x).twc = d.twc := rfl
@[simp] theorem Dev.setDac_ua0 (c : Nat) (x : DacCh) : (d.setDac c x).ua0 = d.ua0 := rfl
@[simp] theorem Dev.setDac_ua1 (c : Nat) (x : DacCh) : (d.setDac c x).ua1 = d.ua1 := rfl
@[simp] theorem Dev.setDac_pwr (c : Nat) (x : DacCh) : (d.setDac c x).pwr = d.pwr := rfl
@[simp] theorem Dev.setDac_sys (c : Nat) (x : DacCh) : (d.setDac c x).sys = d.sys := rfl
@[simp] theorem Dev.setDac_upd (c : Nat) (x : DacCh) : (d.setDac c x).upd = d.upd := rfl
@[simp] theorem Dev.setDac_flt (c : Nat) (x : DacCh) : (d.setDac c x).flt = d.flt := rfl
@[simp] theorem Dev.setDac_dbg (c : Nat) (x : DacCh) : (d.setDac c x).dbg = d.dbg := rfl

@[simp] theorem Dev.setChan_out (n : Nat) (c : Channel) : (d.setChan n c).out = d.out := rfl
@[simp] theorem Dev.setChan_fresh (n : Nat) (c : Channel) : (d.setChan n c).fresh = d.fresh := rfl
@[simp] theorem Dev.setChan_regs (n : Nat) (c : Channel) : (d.setChan n c).regs = d.regs := rfl
@[simp] theorem Dev.setChan_applied (n : Nat) (c : Channel) : (d.setChan n c).applied = d.applied := rfl
@[simp] theorem Dev.setChan_setters (n : Nat) (c : Channel) : (d.setChan n c).setters = d.setters := rfl
@[simp] theorem Dev.setChan_held (n : Nat) (c : Channel) : (d.setChan n c).held = d.held := rfl
@[simp] theorem Dev.setChan_time (n : Nat) (c : Channel) : (d.setChan n c).time = d.time := rfl
@[simp] theorem Dev.setChan_ref (n : Nat) (c : Channel) : (d.setChan n c).ref = d.ref := rfl
@[simp] theorem Dev.setChan_swm (n : Nat) (c : Channel) : (d.setChan n c).swm = d.swm := rfl
@[simp] theorem Dev.setChan_alc (n : Nat) (c : Channel) : (d.setChan n c).alc = d.alc := rfl
@[simp] theorem Dev.setChan_cue (n : Nat) (c : Channel) : (d.setChan n c).cue = d.cue := rfl
@[simp] theorem Dev.setChan_hcp (n : Nat) (c : Channel) : (d.setChan n c).hcp = d.hcp := rfl
@[simp] theorem Dev.setChan_mem (n : Nat) (c : Channel) : (d.setChan n c).mem = d.mem := rfl
@[simp] theorem Dev.setChan_outp (n : Nat) (c : Channel) : (d.setChan n c).outp = d.outp := rfl
@[simp] theorem Dev.setChan_twt (n : Nat) (c : Channel) : (d.setChan n c).twt = d.twt := rfl
@[simp] theorem Dev.setChan_twc (n : Nat) (c : Channel) : (d.setChan n c).twc = d.twc := rfl
@[simp] theorem Dev.setChan_ua0 (n : Nat) (c : Channel) : (d.setChan n c).ua0 = d.ua0 := rfl
@[simp] theorem Dev.setChan_ua1 (n : Nat) (c : Channel) : (d.setChan n c).ua1 = d.ua1 := rfl
@[simp] theorem Dev.setChan_pwr (n : Nat) (c : Channel) : (d.setChan n c).pwr = d.pwr := rfl
@[simp] theorem Dev.setChan_sys (n : Nat) (c : Channel) : (d.setChan n c).sys = d.sys := rfl
@[simp] theorem Dev.setChan_upd (n : Nat) (c : Channel) : (d.setChan n c).upd = d.upd := rfl
@[simp] theorem Dev.setChan_flt (n : Nat) (c : Channel) : (d.setChan n c).flt = d.flt := rfl
@[simp] theorem Dev.setChan_dbg (n : Nat) (c : Channel) : (d.setChan n c).dbg = d.dbg := rfl

@[simp] theorem Dev.setLevel_out (n : Nat) (f : Bool → Bool) : (d.setLevel n f).out = d.out := rfl
@[simp] theorem Dev.setLevel_fresh (n : Nat) (f : Bool → Bool) : (d.setLevel n f).fresh = d.fresh := rfl
@[simp] theorem Dev.setLevel_regs (n : Nat) (f : Bool → Bool) : (d.setLevel n f).regs = d.regs := rfl
@[simp] theorem Dev.setLevel_applied (n : Nat) (f : Bool → Bool) : (d.setLevel n f).applied = d.applied := rfl
@[simp] theorem Dev.setLevel_setters (n : Nat) (f : Bool → Bool) : (d.setLevel n f).setters = d.setters := rfl
@[simp] theorem Dev.setLevel_held (n : Nat) (f : Bool → Bool) : (d.setLevel n f).held = d.held := rfl
@[simp] theorem Dev.setLevel_time (n : Nat) (f : Bool → Bool) : (d.setLevel n f).time = d.time := rfl
@[simp] theorem Dev.setLevel_ref (n : Nat) (f : Bool → Bool) : (d.setLevel n f).ref = d.ref := rfl
@[simp] theorem Dev.setLevel_swm (n : Nat) (f : Bool → Bool) : (d.setLevel n f).swm = d.swm := rfl
@[simp] theorem Dev.setLevel_alc (n : Nat) (f : Bool → Bool) : (d.setLevel n f).alc = d.alc := rfl
@[simp] theorem Dev.setLevel_cue (n : Nat) (f : Bool → Bool) : (d.setLevel n f).cue = d.cue := rfl
@[simp] theorem Dev.setLevel_hcp (n : Nat) (f : Bool → Bool) : (d.setLevel n f).hcp = d.hcp := rfl
@[simp] theorem Dev.setLevel_mem (n : Nat) (f : Bool → Bool) : (d.setLevel n f).mem = d.mem := rfl
@[simp] theorem Dev.setLevel_outp (n : Nat) (f : Bool → Bool) : (d.setLevel n f).outp = d.outp := rfl
@[simp] theorem Dev.setLevel_twt (n : Nat) (f : Bool → Bool) : (d.setLevel n f).twt = d.twt := rfl
@[simp] theorem Dev.setLevel_twc (n : Nat) (f : Bool → Bool) : (d.setLevel n f).twc = d.twc := rfl
@[simp] theorem Dev.setLevel_ua0 (n : Nat) (f : Bool → Bool) : (d.setLevel n f).ua0 = d.ua0 := rfl
@[simp] theorem Dev.setLevel_ua1 (n : Nat) (f : Bool → Bool) : (d.setLevel n f).ua1 = d.ua1 := rfl
@[simp] theorem Dev.setLevel_pwr (n : Nat) (f : Bool → Bool) : (d.setLevel n f).pwr = d.pwr := rfl
@[simp] theorem Dev.setLevel_sys (n : Nat) (f : Bool → Bool) : (d.setLevel n f).sys = d.sys := rfl
@[simp] theorem Dev.setLevel_upd (n : Nat) (f : Bool → Bool) : (d.setLevel n f).upd = d.upd := rfl
@[simp] theorem Dev.setLevel_flt (n : Nat) (f : Bool → Bool) : (d.setLevel n f).flt = d.flt := rfl
@[simp] theorem Dev.setLevel_dbg (n : Nat) (f : Bool → Bool) : (d.setLevel n f).dbg = d.dbg := rfl

@[simp] theorem Dev.setTwt_out (f : TwtS → TwtS) : (d.setTwt f).out = d.out := rfl
@[simp] theorem Dev.setTwt_fresh (f : TwtS → TwtS) : (d.setTwt f).fresh = d.fresh := rfl
@[simp] theorem Dev.setTwt_regs (f : TwtS → TwtS) : (d.setTwt f).regs = d.regs := rfl
@[simp] theorem Dev.setTwt_applied (f : TwtS → TwtS) : (d.setTwt f).applied = d.applied := rfl
@[simp] theorem Dev.setTwt_setters (f : TwtS → TwtS) : (d.setTwt f).setters = d.setters := rfl
@[simp] theorem Dev.setTwt_held (f : TwtS → TwtS) : (d.setTwt f).held = d.held := rfl
@[simp] theorem Dev.setTwt_time (f : TwtS → TwtS) : (d.setTwt f).time = d.time := rfl
@[simp] theorem Dev.setTwt_ref (f : TwtS → TwtS) : (d.setTwt f).ref = d.ref := rfl
@[simp] theorem Dev.setTwt_swm (f : TwtS → TwtS) : (d.setTwt f).swm = d.swm := rfl
@[simp] theorem Dev.setTwt_alc (f : TwtS → TwtS) : (d.setTwt f).alc = d.alc := rfl
@[simp] theorem Dev.setTwt_cue (f : TwtS → TwtS) : (d.setTwt f).cue = d.cue := rfl
@[simp] theorem Dev.setTwt_hcp (f : TwtS → TwtS) : (d.setTwt f).hcp = d.hcp := rfl
@[simp] theorem Dev.setTwt_mem (f : TwtS → TwtS) : (d.setTwt f).mem = d.mem := rfl
@[simp] theorem Dev.setTwt_outp (f : TwtS → TwtS) : (d.setTwt f).outp = d.outp := rfl
@[simp] theorem Dev.setTwt_tcu (f : TwtS → TwtS) : (d.setTwt f).tcu = d.tcu := rfl
@[simp] theorem Dev.setTwt_twc (f : TwtS → TwtS) : (d.setTwt f).twc = d.twc := rfl
@[simp] theorem Dev.setTwt_ua0 (f : TwtS → TwtS) : (d.setTwt f).ua0 = d.ua0 := rfl
@[simp] theorem Dev.setTwt_ua1 (f : TwtS → TwtS) : (d.setTwt f).ua1 = d.ua1 := rfl
@[simp] theorem Dev.setTwt_pwr (f : TwtS → TwtS) : (d.setTwt f).pwr = d.pwr := rfl
@[simp] theorem Dev.setTwt_sys (f : TwtS → TwtS) : (d.setTwt f).sys = d.sys := rfl
@[simp] theorem Dev.setTwt_upd (f : TwtS → TwtS) : (d.setTwt f).upd = d.upd := rfl
@[simp] theorem Dev.setTwt_flt (f : TwtS → TwtS) : (d.setTwt f).flt = d.flt := rfl
@[simp] theorem Dev.setTwt_dbg (f : TwtS → TwtS) : (d.setTwt f).dbg = d.dbg := rfl

@[simp] theorem Dev.setTwc_out (f : TwcS → TwcS) : (d.setTwc f).out = d.out := rfl
@[simp] theorem Dev.setTwc_fresh (f : TwcS → TwcS) : (d.setTwc f).fresh = d.fresh := rfl
@[simp] theorem Dev.setTwc_regs (f : TwcS → TwcS) : (d.setTwc f).regs = d.regs := rfl
@[simp] theorem Dev.setTwc_applied (f : TwcS → TwcS) : (d.setTwc f).applied = d.applied := rfl
@[simp] theorem Dev.setTwc_setters (f : TwcS → TwcS) : (d.setTwc f).setters = d.setters := rfl
@[simp] theorem Dev.setTwc_held (f : TwcS → TwcS) : (d.setTwc f).held = d.held := rfl
@[simp] theorem Dev.setTwc_time (f : TwcS → TwcS) : (d.setTwc f).time = d.time := rfl
@[simp] theorem Dev.setTwc_ref (f : TwcS → TwcS) : (d.setTwc f).ref = d.ref := rfl
@[simp] theorem Dev.setTwc_swm (f : TwcS → TwcS) : (d.setTwc f).swm = d.swm := rfl
@[simp] theorem Dev.setTwc_alc (f : TwcS → TwcS) : (d.setTwc f).alc = d.alc := rfl
@[simp] theorem Dev.setTwc_cue (f : TwcS → TwcS) : (d.setTwc f).cue = d.cue := rfl
@[simp] theorem Dev.setTwc_hcp (f : TwcS → TwcS) : (d.setTwc f).hcp = d.hcp := rfl
@[simp] theorem Dev.setTwc_mem (f : TwcS → TwcS) : (d.setTwc f).mem = d.mem := rfl
@[simp] theorem Dev.setTwc_outp (f : TwcS → TwcS) : (d.setTwc f).outp = d.outp := rfl
@[simp] theorem Dev.setTwc_tcu (f : TwcS → TwcS) : (d.setTwc f).tcu = d.tcu := rfl
@[simp] theorem Dev.setTwc_twt (f : TwcS → TwcS) : (d.setTwc f).twt = d.twt := rfl
@[simp] theorem Dev.setTwc_ua0 (f : TwcS → TwcS) : (d.setTwc f).ua0 = d.ua0 := rfl
@[simp] theorem Dev.setTwc_ua1 (f : TwcS → TwcS) : (d.setTwc f).ua1 = d.ua1 := rfl
@[simp] theorem Dev.setTwc_pwr (f : TwcS → TwcS) : (d.setTwc f).pwr = d.pwr := rfl
@[simp] theorem Dev.setTwc_sys (f : TwcS → TwcS) : (d.setTwc f).sys = d.sys := rfl
@[simp] theorem Dev.setTwc_upd (f : TwcS → TwcS) : (d.setTwc f).upd = d.upd := rfl
@[simp] theorem Dev.setTwc_flt (f : TwcS → TwcS) : (d.setTwc f).flt = d.flt := rfl
@[simp] theorem Dev.setTwc_dbg (f : TwcS → TwcS) : (d.setTwc f).dbg = d.dbg := rfl

@[simp] theorem Dev.setUa0_out (f : Ua0S → Ua0S) : (d.setUa0 f).out = d.out := rfl
@[simp] theorem Dev.setUa0_fresh (f : Ua0S → Ua0S) : (d.setUa0 f).fresh = d.fresh := rfl
@[simp] theorem Dev.setUa0_regs (f : Ua0S → Ua0S) : (d.setUa0 f).regs = d.regs := rfl
@[simp] theorem Dev.setUa0_applied (f : Ua0S → Ua0S) : (d.setUa0 f).applied = d.applied := rfl
@[simp] theorem Dev.setUa0_setters (f : Ua0S → Ua0S) : (d.setUa0 f).setters = d.setters := rfl
@[simp] theorem Dev.setUa0_held (f : Ua0S → Ua0S) : (d.setUa0 f).held = d.held := rfl
@[simp] theorem Dev.setUa0_time (f : Ua0S → Ua0S) : (d.setUa0 f).time = d.time := rfl
@[simp] theorem Dev.setUa0_ref (f : Ua0S → Ua0S) : (d.setUa0 f).ref = d.ref := rfl
@[simp] theorem Dev.setUa0_swm (f : Ua0S → Ua0S) : (d.setUa0 f).swm = d.swm := rfl
@[simp] theorem Dev.setUa0_alc (f : Ua0S → Ua0S) : (d.setUa0 f).alc = d.alc := rfl
@[simp] theorem Dev.setUa0_cue (f : Ua0S → Ua0S) : (d.setUa0 f).cue = d.cue := rfl
@[simp] theorem Dev.setUa0_hcp (f : Ua0S → Ua0S) : (d.setUa0 f).hcp = d.hcp := rfl
@[simp] theorem Dev.setUa0_mem (f : Ua0S → Ua0S) : (d.setUa0 f).mem = d.mem := rfl
@[simp] theorem Dev.setUa0_outp (f : Ua0S → Ua0S) : (d.setUa0 f).outp = d.outp := rfl
@[simp] theorem Dev.setUa0_tcu (f : Ua0S → Ua0S) : (d.setUa0 f).tcu = d.tcu := rfl
@[simp] theorem Dev.setUa0_twt (f : Ua0S → Ua0S) : (d.setUa0 f).twt = d.twt := rfl
@[simp] theorem Dev.setUa0_twc (f : Ua0S → Ua0S) : (d.setUa0 f).twc = d.twc := rfl
@[simp] theorem Dev.setUa0_ua1 (f : Ua0S → Ua0S) : (d.setUa0 f).ua1 = d.ua1 := rfl
@[simp] theorem Dev.setUa0_pwr (f : Ua0S → Ua0S) : (d.setUa0 f).pwr = d.pwr := rfl
@[simp] theorem Dev.setUa0_sys (f : Ua0S → Ua0S) : (d.setUa0 f).sys = d.sys := rfl
@[simp] theorem Dev.setUa0_upd (f : Ua0S → Ua0S) : (d.setUa0 f).upd = d.upd := rfl
@[simp] theorem Dev.setUa0_flt (f : Ua0S → Ua0S) : (d.setUa0 f).flt = d.flt := rfl
@[simp] theorem Dev.setUa0_dbg (f : Ua0S → Ua0S) : (d.setUa0 f).dbg = d.dbg := rfl

@[simp] theorem Dev.setUa1_out (f : Ua1S → Ua1S) : (d.setUa1 f).out = d.out := rfl
@[simp] theorem Dev.setUa1_fresh (f : Ua1S → Ua1S) : (d.setUa1 f).fresh = d.fresh := rfl
@[simp] theorem Dev.setUa1_regs (f : Ua1S → Ua1S) : (d.setUa1 f).regs = d.regs := rfl
@[simp] theorem Dev.setUa1_applied (f : Ua1S → Ua1S) : (d.setUa1 f).applied = d.applied := rfl
@[simp] theorem Dev.setUa1_setters (f : Ua1S → Ua1S) : (d.setUa1 f).setters = d.setters := rfl
@[simp] theorem Dev.setUa1_held (f : Ua1S → Ua1S) : (d.setUa1 f).held = d.held := rfl
@[simp] theorem Dev.setUa1_time (f : Ua1S → Ua1S) : (d.setUa1 f).time = d.time := rfl
@[simp] theorem Dev.setUa1_ref (f : Ua1S → Ua1S) : (d.setUa1 f).ref = d.ref := rfl
@[simp] theorem Dev.setUa1_swm (f : Ua1S → Ua1S) : (d.setUa1 f).swm = d.swm := rfl
@[simp] theorem Dev.setUa1_alc (f : Ua1S → Ua1S) : (d.setUa1 f).alc = d.alc := rfl
@[simp] theorem Dev.setUa1_cue (f : Ua1S → Ua1S) : (d.setUa1 f).cue = d.cue := rfl
@[simp] theorem Dev.setUa1_hcp (f : Ua1S → Ua1S) : (d.setUa1 f).hcp = d.hcp := rfl
@[simp] theorem Dev.setUa1_mem (f : Ua1S → Ua1S) : (d.setUa1 f).mem = d.mem := rfl
@[simp] theorem Dev.setUa1_outp (f : Ua1S → Ua1S) : (d.setUa1 f).outp = d.outp := rfl
@[simp] theorem Dev.setUa1_tcu (f : Ua1S → Ua1S) : (d.setUa1 f).tcu = d.tcu := rfl
@[simp] theorem Dev.setUa1_twt (f : Ua1S → Ua1S) : (d.setUa1 f).twt = d.twt := rfl
@[simp] theorem Dev.setUa1_twc (f : Ua1S → Ua1S) : (d.setUa1 f).twc = d.twc := rfl
@[simp] theorem Dev.setUa1_ua0 (f : Ua1S → Ua1S) : (d.setUa1 f).ua0 = d.ua0 := rfl
@[simp] theorem Dev.setUa1_pwr (f : Ua1S → Ua1S) : (d.setUa1 f).pwr = d.pwr := rfl
@[simp] theorem Dev.setUa1_sys (f : Ua1S → Ua1S) : (d.setUa1 f).sys = d.sys := rfl
@[simp] theorem Dev.setUa1_upd (f : Ua1S → Ua1S) : (d.setUa1 f).upd = d.upd := rfl
@[simp] theorem Dev.setUa1_flt (f : Ua1S → Ua1S) : (d.setUa1 f).flt = d.flt := rfl
@[simp] theorem Dev.setUa1_dbg (f : Ua1S → Ua1S) : (d.setUa1 f).dbg = d.dbg := rfl

@[simp] theorem Dev.setUpd_out (f : UpdS → UpdS) : (d.setUpd f).out = d.out := rfl
@[simp] theorem Dev.setUpd_fresh (f : UpdS → UpdS) : (d.setUpd f).fresh = d.fresh := rfl
@[simp] theorem Dev.setUpd_regs (f : UpdS → UpdS) : (d.setUpd f).regs = d.regs := rfl
@[simp] theorem Dev.setUpd_applied (f : UpdS → UpdS) : (d.setUpd f).applied = d.applied := rfl
@[simp] theorem Dev.setUpd_setters (f : UpdS → UpdS) : (d.setUpd f).setters = d.setters := rfl
@[simp] theorem Dev.setUpd_held (f : UpdS → UpdS) : (d.setUpd f).held = d.held := rfl
@[simp] theorem Dev.setUpd_time (f : UpdS → UpdS) : (d.setUpd f).time = d.time := rfl
@[simp] theorem Dev.setUpd_ref (f : UpdS → UpdS) : (d.setUpd f).ref = d.ref := rfl
@[simp] theorem Dev.setUpd_swm (f : UpdS → UpdS) : (d.setUpd f).swm = d.swm := rfl
@[simp] theorem Dev.setUpd_alc (f : UpdS → UpdS) : (d.setUpd f).alc = d.alc := rfl
@[simp] theorem Dev.setUpd_cue (f : UpdS → UpdS) : (d.setUpd f).cue = d.cue := rfl
@[simp] theorem Dev.setUpd_hcp (f : UpdS → UpdS) : (d.setUpd f).hcp = d.hcp := rfl
@[simp] theorem Dev.setUpd_mem (f : UpdS → UpdS) : (d.setUpd f).mem = d.mem := rfl
@[simp] theorem Dev.setUpd_outp (f : UpdS → UpdS) : (d.setUpd f).outp = d.outp := rfl
@[simp] theorem Dev.setUpd_tcu (f : UpdS → UpdS) : (d.setUpd f).tcu = d.tcu := rfl
@[simp] theorem Dev.setUpd_twt (f : UpdS → UpdS) : (d.setUpd f).twt = d.twt := rfl
@[simp] theorem Dev.setUpd_twc (f : UpdS → UpdS) : (d.setUpd f).twc = d.twc := rfl
@[simp] theorem Dev.setUpd_ua0 (f : UpdS → UpdS) : (d.setUpd f).ua0 = d.ua0 := rfl
@[simp] theorem Dev.setUpd_ua1 (f : UpdS → UpdS) : (d.setUpd f).ua1 = d.ua1 := rfl
@[simp] theorem Dev.setUpd_pwr (f : UpdS → UpdS) : (d.setUpd f).pwr = d.pwr := rfl
@[simp] theorem Dev.setUpd_sys (f : UpdS → UpdS) : (d.setUpd f).sys = d.sys := rfl
@[simp] theorem Dev.setUpd_flt (f : UpdS → UpdS) : (d.setUpd f).flt = d.flt := rfl
@[simp] theorem Dev.setUpd_dbg (f : UpdS → UpdS) : (d.setUpd f).dbg = d.dbg := rfl

/-! ### The field an update changes -/

@[simp] theorem Dev.answer_out (st : List Status) (da : List Word) (ak : List Bool) : (d.answer st da ak).out = ⟨st, da, ak⟩ := rfl
@[simp] theorem Dev.setTwt_twt (f : TwtS → TwtS) : (d.setTwt f).twt = f d.twt := rfl
@[simp] theorem Dev.setTwc_twc (f : TwcS → TwcS) : (d.setTwc f).twc = f d.twc := rfl
@[simp] theorem Dev.setUa0_ua0 (f : Ua0S → Ua0S) : (d.setUa0 f).ua0 = f d.ua0 := rfl
@[simp] theorem Dev.setUa1_ua1 (f : Ua1S → Ua1S) : (d.setUa1 f).ua1 = f d.ua1 := rfl
@[simp] theorem Dev.setUpd_upd (f : UpdS → UpdS) : (d.setUpd f).upd = f d.upd := rfl
@[simp] theorem Dev.setHcp_hcp (f : HcpS → HcpS) : (d.setHcp f).hcp = f d.hcp := rfl
@[simp] theorem Dev.setSen_sen (x : Sentinel) : (d.setSen x).swm.sen = x := rfl
@[simp] theorem Dev.thread_setThread_same (n : Nat) (x : Thread) : (d.setThread n x).thread n = x := by
  simp [Dev.thread, Dev.setThread]
theorem Dev.thread_setThread (n m : Nat) (x : Thread) : (d.setThread n x).thread m = if m = n then x else d.thread m := by
  simp [Dev.thread, Dev.setThread, Tab.get_set]
@[simp] theorem Dev.chan_setChan_same (n : Nat) (x : Channel) : (d.setChan n x).chan n = x := by simp [Dev.chan, Dev.setChan]
@[simp] theorem Dev.port_setPort_same (n : Nat) (x : Port) : (d.setPort n x).port n = x := by simp [Dev.port, Dev.setPort]
@[simp] theorem Dev.dac_setDac_same (n : Nat) (x : DacCh) : (d.setDac n x).dac n = x := by simp [Dev.dac, Dev.setDac]
@[simp] theorem Dev.voice_setVoice_same (n : Nat) (x : Voice) : (d.setVoice n x).voice n = x := by simp [Dev.voice, Dev.setVoice]
@[simp] theorem Dev.husk_setHusk_same (n : Nat) (x : Husk) : (d.setHusk n x).husk n = x := by simp [Dev.husk, Dev.setHusk]
@[simp] theorem Dev.ventry_setVentry_same (n : Nat) (x : VEntry) : (d.setVentry n x).ventry n = x := by
  simp [Dev.ventry, Dev.setVentry]
@[simp] theorem Dev.byte_setByte_same (a : Nat) (b : Byte) : (d.setByte a b).byte a = b := by simp [Dev.byte, Dev.setByte]
theorem Dev.byte_setByte (a c : Nat) (b : Byte) : (d.setByte a b).byte c = if c = a then b else d.byte c := by
  simp [Dev.byte, Dev.setByte, Tab.get_set]
@[simp] theorem Dev.tag_setTag_same (l : Nat) (t : LineTag) : (d.setTag l t).tag l = t := by simp [Dev.tag, Dev.setTag]
@[simp] theorem Dev.setter_setSetter_same (k : Nat) (p : Path) : (d.setSetter k p).setter k = p.rank + 1 := by
  simp [Dev.setter, Dev.setSetter]

end Sys2Proof.Machine
end

