-- ==== Sys2Proof/Laws/Registers.lean ====
section
/-! SUPPORT. Reading a register or a field after a write. -/

namespace Sys2Proof.Machine

/-- A bit of a field mask. -/
theorem getLsbD_fieldMask (lo n k : Nat) (h : k < 32) :
    (fieldMask lo n).getLsbD k = (decide (lo ≤ k) && decide (k < lo + n)) := by
  simp only [fieldMask, BitVec.getLsbD_shiftLeft, BitVec.getLsbD_ofNat, Nat.testBit_two_pow_sub_one, h, decide_true,
    Bool.true_and]
  by_cases h1 : k < lo
  · simp [h1]
  · have : k - lo < 32 := by omega
    simp only [h1, this, decide_true, decide_false, Bool.not_false, Bool.true_and]
    by_cases h2 : k < lo + n
    · have : k - lo < n := by omega
      have h3 : lo ≤ k := by omega
      simp [h2, this, h3]
    · have : ¬ k - lo < n := by omega
      simp [h2, this]

/-- A bit of a word whose field took a value. -/
theorem getLsbD_insBits (w : Word) (lo n v k : Nat) (h : k < 32) :
    (insBits w lo n v).getLsbD k = if lo ≤ k ∧ k < lo + n then v.testBit (k - lo) else w.getLsbD k := by
  simp only [insBits, BitVec.getLsbD_or, BitVec.getLsbD_and, BitVec.getLsbD_not, getLsbD_fieldMask _ _ _ h, h, decide_true,
    Bool.true_and, BitVec.getLsbD_shiftLeft, BitVec.getLsbD_ofNat, Nat.testBit_mod_two_pow]
  by_cases h1 : k < lo
  · have : ¬ lo ≤ k := by omega
    simp [h1, this]
  · have h2 : lo ≤ k := by omega
    have h3 : k - lo < 32 := by omega
    by_cases h4 : k < lo + n
    · have : k - lo < n := by omega
      simp [h1, h2, h3, h4, this]
    · have : ¬ k - lo < n := by omega
      simp [h1, h2, h3, h4, this]

/-- A bit of what a field shows. -/
theorem testBit_bitsOf (w : Word) (lo n i : Nat) : (bitsOf w lo n).testBit i = (decide (i < n) && w.getLsbD (lo + i)) := by
  simp only [bitsOf, Nat.testBit_mod_two_pow, BitVec.testBit_toNat, BitVec.getLsbD_ushiftRight]

/-- The bits a field shows after it took a value. -/
theorem bitsOf_insBits_same (w : Word) (lo n v : Nat) (h : lo + n ≤ 32) : bitsOf (insBits w lo n v) lo n = v % 2 ^ n := by
  apply Nat.eq_of_testBit_eq
  intro i
  rw [testBit_bitsOf, Nat.testBit_mod_two_pow]
  by_cases hi : i < n
  · rw [getLsbD_insBits _ _ _ _ _ (by omega), if_pos (by omega)]
    simp
  · simp [hi]

/-- The bits of a disjoint field. -/
theorem bitsOf_insBits_other (w : Word) (lo n v lo' n' : Nat) (h : lo' + n' ≤ lo ∨ lo + n ≤ lo') :
    bitsOf (insBits w lo n v) lo' n' = bitsOf w lo' n' := by
  apply Nat.eq_of_testBit_eq
  intro i
  rw [testBit_bitsOf, testBit_bitsOf]
  by_cases hi : i < n'
  · by_cases hl : lo' + i < 32
    · rw [getLsbD_insBits _ _ _ _ _ hl, if_neg (by omega)]
    · rw [BitVec.getLsbD_of_ge _ _ (by omega), BitVec.getLsbD_of_ge w _ (by omega)]
  · simp [hi]

@[simp] theorem Dev.reg_setReg_same (d : Dev) (a : Nat) (w : Word) : (d.setReg a w).reg a = w := by simp [Dev.reg, Dev.setReg]

theorem Dev.reg_setReg (d : Dev) (a b : Nat) (w : Word) : (d.setReg a w).reg b = if b = a then w else d.reg b := by
  simp [Dev.reg, Dev.setReg, Tab.get_set]

theorem Dev.reg_put_other (d : Dev) (f : Fld) (v b : Nat) (h : b ≠ f.addr) : (d.put f v).reg b = d.reg b := by
  simp [Dev.put, Dev.reg_setReg, h]

/-- A field reads the value it took. -/
theorem Dev.get_put_same (d : Dev) (f : Fld) (v : Nat) (h : f.lo + f.w ≤ 32) : (d.put f v).get f = v % 2 ^ f.w := by
  simp [Dev.get, Dev.put, bitsOf_insBits_same _ _ _ _ h]

/-- A field of another register keeps its value. -/
theorem Dev.get_put_other (d : Dev) (f g : Fld) (v : Nat) (h : g.addr ≠ f.addr) : (d.put f v).get g = d.get g := by
  simp [Dev.get, Dev.reg_put_other _ _ _ _ h]

/-- Another field of the same register keeps its value. -/
theorem Dev.get_put_beside (d : Dev) (f g : Fld) (v : Nat) (h : g.lo + g.w ≤ f.lo ∨ f.lo + f.w ≤ g.lo) :
    (d.put f v).get g = d.get g := by
  by_cases e : g.addr = f.addr
  · simp only [Dev.get, Dev.put, e, Dev.reg_setReg_same]
    exact bitsOf_insBits_other _ _ _ _ _ _ h
  · exact d.get_put_other f g v e

/-- What a view shows does not depend on what is not a register. -/
theorem Dev.reg_congr {d e : Dev} (h : e.regs = d.regs) (a : Nat) : e.reg a = d.reg a := by simp [Dev.reg, h]
theorem Dev.get_congr {d e : Dev} (h : e.regs = d.regs) (f : Fld) : e.get f = d.get f := by simp [Dev.get, Dev.reg, h]

end Sys2Proof.Machine
end

