-- ==== Sys2Proof/Laws/Faults.lean ====
section
/-! SUPPORT. What recording a fault event can change, said once: registers and the fault state; class 0 also the loop. -/

namespace Sys2Proof.Machine

/-- A change of such registers and of the fault state alone. -/
def Dev.FltOnly (d e : Dev) : Prop :=
  ∃ r f, e = { d with regs := r, flt := f } ∧ ∀ a, recReg a = false → Tab.get regReset r a = d.reg a

theorem Dev.FltOnly.refl (d : Dev) : d.FltOnly d := ⟨d.regs, d.flt, rfl, fun _ _ => rfl⟩
theorem Dev.FltOnly.trans {a b c : Dev} (h : a.FltOnly b) (h' : b.FltOnly c) : a.FltOnly c := by
  obtain ⟨r, f, rfl, hr⟩ := h
  obtain ⟨r', f', rfl, hr'⟩ := h'
  exact ⟨r', f', rfl, fun x hx => (hr' x hx).trans (hr x hx)⟩

theorem Dev.FltOnly.reg {d e : Dev} (h : d.FltOnly e) (a : Nat) (ha : recReg a = false) : e.reg a = d.reg a := by
  obtain ⟨r, f, rfl, hr⟩ := h
  exact hr a ha
theorem Dev.FltOnly.get {d e : Dev} (h : d.FltOnly e) (f : Fld) (ha : recReg f.addr = false) : e.get f = d.get f := by
  simp only [Dev.get, h.reg _ ha]

theorem Dev.fltOnly_setReg (d : Dev) (a : Nat) (w : Word) (h : recReg a = true) : d.FltOnly (d.setReg a w) :=
  ⟨_, d.flt, rfl, fun x hx => by
    have : x ≠ a := by intro e; rw [e, h] at hx; simp at hx
    exact Tab.get_set_other _ _ _ this⟩
theorem Dev.fltOnly_put (d : Dev) (f : Fld) (v : Nat) (h : recReg f.addr = true) : d.FltOnly (d.put f v) :=
  d.fltOnly_setReg _ _ h
theorem Dev.fltOnly_bump (d : Dev) (f : Fld) (h : recReg f.addr = true) : d.FltOnly (d.bump f) := d.fltOnly_put _ _ h
theorem Dev.fltOnly_cause (d : Dev) (n : Nat) : d.FltOnly (d.cause n) := d.fltOnly_put _ _ (by decide)
theorem recReg_sticky (a : Nat) (k : Nat) (h : k = 0x3F8) : recReg (blockBase a + k) = true := by
  have : (blockBase a + k) % 0x400 = 0x3F8 := by unfold blockBase; omega
  unfold recReg
  simp only [this, decide_true, Bool.or_true, Bool.true_or]
theorem recReg_confSrc (a : Nat) : recReg (F.stickyConfSrc (blockBase a)).addr = true := by
  have := recReg_sticky a 0x3F8 rfl
  simpa only [F.stickyConfSrc] using this
theorem recReg_confThread (a : Nat) : recReg (F.stickyConfThread (blockBase a)).addr = true := by
  have := recReg_sticky a 0x3F8 rfl
  simpa only [F.stickyConfThread] using this
theorem Dev.fltOnly_loser (d : Dev) (a : Nat) (p : Path) : d.FltOnly (d.loser a p) := by
  unfold Dev.loser
  exact (d.fltOnly_put _ _ (recReg_confSrc a)).trans (Dev.fltOnly_put _ _ _ (recReg_confThread a))
theorem recReg_flt (a : Nat) (h1 : 0x6800 ≤ a) (h2 : a < 0x7000) : recReg a = true := by simp [recReg, h1, h2]
theorem Dev.fltOnly_setLasting (d : Dev) (x : Nat) (hx : x < 10) (b : Bool) : d.FltOnly (d.setLasting x b) :=
  (d.fltOnly_put _ _ (recReg_flt _ (by simp [F.fltStatLasting]; omega) (by simp [F.fltStatLasting]; omega))).trans
    (Dev.fltOnly_setReg _ _ _ (by decide))
theorem Dev.fltOnly_flt (d : Dev) (f : FltS) : d.FltOnly { d with flt := f } := ⟨d.regs, f, rfl, fun _ _ => rfl⟩

theorem Dev.fltOnly_logPut (d : Dev) (e : LogEntry) : d.FltOnly (d.logPut e) := by
  unfold Dev.logPut
  split
  · split <;> exact d.fltOnly_flt _
  · split
    · exact d.fltOnly_flt _
    · exact (d.fltOnly_flt _).trans (Dev.fltOnly_bump _ _ (by decide))

theorem Dev.fltOnly_fltEvent (d : Dev) (n : Nat) : d.FltOnly (d.fltEvent n) := by
  unfold Dev.fltEvent
  split
  · exact d.fltOnly_flt _
  · exact d.fltOnly_setReg _ _ (by decide)

theorem Dev.fltOnly_direct (d : Dev) (n : Nat) : d.FltOnly (d.direct n) :=
  (d.fltOnly_fltEvent n).trans (Dev.fltOnly_logPut _ _)

theorem Dev.fltOnly_dropHealth (d : Dev) : d.FltOnly d.dropHealth := by
  unfold Dev.dropHealth
  split
  · exact .refl d
  · exact d.fltOnly_flt _

theorem Dev.fltOnly_goLasting (d : Dev) (x : Nat) (h : x ≠ 0) (hx : x < 10) (wc : Nat) (w : Word) : d.FltOnly (d.goLasting x wc w) := by
  unfold Dev.goLasting
  simp only [h, if_false]
  exact (((d.fltOnly_setLasting _ hx _).trans (Dev.fltOnly_fltEvent _ _)).trans (Dev.fltOnly_logPut _ _)).trans
    (Dev.fltOnly_dropHealth _)

/-- An event of a class other than 0 changes registers and the fault state alone. -/
theorem Dev.fltOnly_fault (d : Dev) (x : Nat) (h : x ≠ 0) (hx : x < 10) (w : Word) : d.FltOnly (d.fault x w) := by
  have e : ∀ d' : Dev, d.FltOnly d' → ∀ wc, d.FltOnly
      (if !d'.lasting x && decide (d'.clsThr x ≤ wc) then d'.goLasting x wc w else d') := by
    intro d' hd wc
    split
    · exact hd.trans (d'.fltOnly_goLasting x h hx wc w)
    · exact hd
  exact e _ ((((d.fltOnly_flt _).trans (Dev.fltOnly_bump _ _
    (recReg_flt _ (by simp [F.fltCnt]; omega) (by simp [F.fltCnt]; omega)))).trans (Dev.fltOnly_put _ _ _
    (recReg_flt _ (by simp [F.fltStatWcnt]; omega) (by simp [F.fltStatWcnt]; omega)))).trans
    (Dev.fltOnly_logPut _ _)) _

theorem Dev.fltOnly_faultUe (d : Dev) (l : Nat) : d.FltOnly (d.faultUe l) := by
  have e : ∀ c : Bool, d.FltOnly (if c then
      { d with flt := { d.flt with lastUe := some (l, d.blockIx) } }.fault 4 (BitVec.ofNat 32 l) else d) := by
    intro c
    split
    · exact (d.fltOnly_flt _).trans (Dev.fltOnly_fault _ 4 (by decide) (by decide) _)
    · exact .refl d
  exact e _

theorem Dev.fltOnly_goTransient (d : Dev) (x : Nat) (hx : x < 10) : d.FltOnly (d.goTransient x) :=
  (d.fltOnly_setLasting _ hx _).trans (Dev.fltOnly_logPut _ _)

theorem Dev.fltOnly_classEdge (d : Dev) (x : Nat) (hx : x < 10) : d.FltOnly (d.classEdge x) := by
  have e : ∀ d' : Dev, d.FltOnly d' → ∀ c : Bool, d.FltOnly (if c then d'.goTransient x else d') := by
    intro d' hd c
    split
    · exact hd.trans (d'.fltOnly_goTransient x hx)
    · exact hd
  exact e _ (d.fltOnly_put _ _ (recReg_flt _ (by simp [F.fltStatWcnt]; omega) (by simp [F.fltStatWcnt]; omega))) _

theorem Dev.fltOnly_classClear (d : Dev) (x : Nat) (hx : x < 10) : d.FltOnly (d.classClear x) := by
  have e : ∀ d' : Dev, d.FltOnly d' → ∀ c : Bool, d.FltOnly (if c then d'.goTransient x else d') := by
    intro d' hd c
    split
    · exact hd.trans (d'.fltOnly_goTransient x hx)
    · exact hd
  exact e _ ((d.fltOnly_flt _).trans (Dev.fltOnly_put _ _ _
    (recReg_flt _ (by simp [F.fltStatWcnt]; omega) (by simp [F.fltStatWcnt]; omega)))) _

/-- A list of such changes is one. -/
theorem Dev.fltOnly_each {α : Type} (f : α → Dev → Dev) (hf : ∀ a d, Dev.FltOnly d (f a d)) (d : Dev) (l : List α) :
    d.FltOnly (d.each l f) := by
  induction l generalizing d with
  | nil => exact .refl d
  | cons a l ih => exact (hf a d).trans (ih (f a d))

/-- A trap changes its thread, registers and the fault state. -/
theorem Dev.trap_says (d : Dev) (n cause code : Nat) :
    (d.setThread n { d.thread n with state := .trapped, wait := 0, cause := cause, code := code % 2 ^ 16 }).FltOnly
      (d.trap n cause code) :=
  ((Dev.fltOnly_bump _ _ (by decide)).trans (Dev.fltOnly_cause _ _)).trans (Dev.fltOnly_fault _ 8 (by decide) (by decide) _)

end Sys2Proof.Machine
end

