-- ==== Sys2Proof/Laws/Memory.lean ====
section
/-! SUPPORT. The on-chip memory: what a read can change, and that every memory operation keeps the canonical form. -/

namespace Sys2Proof.Machine

/-! ### Reads -/

/-- What a read records: registers, fault state, draws, scheduled writes, port turns. Data and tags stay, and every other register. -/
def Dev.Recorded (d e : Dev) : Prop :=
  ∃ r f n c u g, e = { d with regs := r, flt := f, fresh := n, mem := { d.mem with ceQueue := c, ueQueue := u, rr := g } }
    ∧ ∀ a, recReg a = false → Tab.get regReset r a = d.reg a

theorem Dev.Recorded.refl (d : Dev) : d.Recorded d :=
  ⟨d.regs, d.flt, d.fresh, d.mem.ceQueue, d.mem.ueQueue, d.mem.rr, rfl, fun _ _ => rfl⟩
theorem Dev.Recorded.trans {a b c : Dev} (h : a.Recorded b) (h' : b.Recorded c) : a.Recorded c := by
  obtain ⟨r, f, n, x, y, g, rfl, hr⟩ := h
  obtain ⟨r', f', n', x', y', g', rfl, hr'⟩ := h'
  exact ⟨r', f', n', x', y', g', rfl, fun x hx => (hr' x hx).trans (hr x hx)⟩
theorem Dev.FltOnly.recorded {a b : Dev} (h : a.FltOnly b) : a.Recorded b := by
  obtain ⟨r, f, rfl, hr⟩ := h
  exact ⟨r, f, a.fresh, a.mem.ceQueue, a.mem.ueQueue, a.mem.rr, rfl, hr⟩

theorem Dev.recorded_errLatch (d : Dev) (k m a w b : Nat) : d.FltOnly (d.errLatch k m a w b) := by
  unfold Dev.errLatch
  split
  · exact .refl d
  · exact (((((d.fltOnly_put _ _ (by decide)).trans (Dev.fltOnly_put _ _ _ (by decide))).trans
      (Dev.fltOnly_put _ _ _ (by decide))).trans (Dev.fltOnly_put _ _ _ (by decide))).trans
      (Dev.fltOnly_put _ _ _ (by decide))).trans (Dev.fltOnly_put _ _ _ (by decide))

theorem Dev.recorded_queueCe (d : Dev) (l : Nat) : d.Recorded (d.queueCe l) := 
  ⟨d.regs, d.flt, d.fresh, _, d.mem.ueQueue, d.mem.rr, rfl, fun _ _ => rfl⟩
theorem Dev.recorded_queueUe (d : Dev) (l : Nat) : d.Recorded (d.queueUe l) := 
  ⟨d.regs, d.flt, d.fresh, d.mem.ceQueue, _, d.mem.rr, rfl, fun _ _ => rfl⟩
theorem Dev.recorded_lineDraws (d : Dev) (l : Nat) : d.Recorded (d.lineDraws l) := by
  unfold Dev.lineDraws
  split
  · exact ⟨d.regs, d.flt, _, d.mem.ceQueue, d.mem.ueQueue, d.mem.rr, rfl, fun _ _ => rfl⟩
  · exact .refl d

theorem Dev.recorded_grant (d : Dev) (m a : Nat) : d.Recorded (d.grant m a) := by
  unfold Dev.grant
  split
  · exact ⟨d.regs, d.flt, d.fresh, d.mem.ceQueue, d.mem.ueQueue, _, rfl, fun _ _ => rfl⟩
  · exact .refl d
/-- A turn on a port shows in no line. -/
@[simp] theorem Dev.grant_lineView (d : Dev) (m a l : Nat) : (d.grant m a).lineView l = d.lineView l := by
  unfold Dev.grant
  split <;> rfl

theorem Dev.recorded_recordCe (d : Dev) (m l w b : Nat) : d.FltOnly (d.recordCe m l w b) :=
  (((d.fltOnly_put _ _ (by decide)).trans (Dev.fltOnly_bump _ _ (by decide))).trans (Dev.recorded_errLatch _ _ _ _ _ _)).trans
    (Dev.fltOnly_fault _ 5 (by decide) (by decide) _)
theorem Dev.recorded_recordUe (d : Dev) (m l w : Nat) : d.FltOnly (d.recordUe m l w) :=
  (((d.fltOnly_put _ _ (by decide)).trans (Dev.fltOnly_bump _ _ (by decide))).trans (Dev.recorded_errLatch _ _ _ _ _ _)).trans
    (Dev.fltOnly_faultUe _ _)
theorem Dev.recorded_recordPoison (d : Dev) (m l : Nat) : d.FltOnly (d.recordPoison m l) :=
  (((d.fltOnly_put _ _ (by decide)).trans (Dev.fltOnly_bump _ _ (by decide))).trans (Dev.recorded_errLatch _ _ _ _ _ _)).trans
    (Dev.fltOnly_faultUe _ _)
theorem Dev.recorded_recordVirgin (d : Dev) (m l : Nat) : d.FltOnly (d.recordVirgin m l) :=
  ((d.fltOnly_put _ _ (by decide)).trans (Dev.fltOnly_bump _ _ (by decide))).trans (Dev.recorded_errLatch _ _ _ _ _ _)

theorem Dev.recorded_recordRead (d : Dev) (m l : Nat) (s : Bool) (x : LineState) : d.Recorded (d.recordRead m l s x) := by
  cases x with
  | virgin => cases s <;> [exact (d.recorded_recordVirgin m l).recorded; exact .refl d]
  | clean => exact .refl d
  | corrected k b => exact (d.recorded_recordCe m l k b).recorded.trans (Dev.recorded_queueCe _ _)
  | bad k => exact (d.recorded_recordUe m l k).recorded.trans (Dev.recorded_queueUe _ _)
  | poison => exact (d.recorded_recordPoison m l).recorded

/-- A read of a line that is not being wiped gives what the line shows and changes no data. -/
theorem Dev.readLine_says (d : Dev) (m l : Nat) (s : Bool) (h : d.mem.wiping.getLsbD (bankOf l) = false) :
    (d.readLine m l s).1 = d.lineView l ∧ d.Recorded (d.readLine m l s).2 := by
  simp only [Dev.readLine, Dev.waitWipe, h]
  exact ⟨d.grant_lineView m l l,
    ((d.recorded_grant m l).trans (Dev.recorded_lineDraws _ l)).trans (Dev.recorded_recordRead _ _ _ _ _)⟩

/-! ### The canonical form -/

/-- The memory's list is canonical. -/
def Dev.MemOk (d : Dev) : Prop := Memory.wf d.mem.bytes = true

theorem Dev.memOk_of_bytes {d e : Dev} (h : e.mem.bytes = d.mem.bytes) (hd : d.MemOk) : e.MemOk := by
  unfold Dev.MemOk; rw [h]; exact hd

theorem Dev.FltOnly.memOk {d e : Dev} (h : d.FltOnly e) (hd : d.MemOk) : e.MemOk := by
  obtain ⟨r, f, rfl, -⟩ := h; exact hd
theorem Dev.Recorded.memOk {d e : Dev} (h : d.Recorded e) (hd : d.MemOk) : e.MemOk := by
  obtain ⟨r, f, n, c, u, g, rfl, -⟩ := h; exact hd

theorem Dev.memOk_setByte {d : Dev} (h : d.MemOk) (a : Nat) (b : Byte) : (d.setByte a b).MemOk := Tab.wf_set h a b
theorem Dev.memOk_setBytes {d : Dev} (h : d.MemOk) (a : Nat) (l : List Byte) : (d.setBytes a l).MemOk := by
  induction l generalizing d a with
  | nil => exact h
  | cons b l ih => exact ih (Dev.memOk_setByte h a b) (a + 1)
theorem Dev.memOk_setTag {d : Dev} (h : d.MemOk) (l : Nat) (t : LineTag) : (d.setTag l t).MemOk := h
theorem Dev.memOk_queueCe {d : Dev} (h : d.MemOk) (l : Nat) : (d.queueCe l).MemOk := h
theorem Dev.memOk_unqueue {d : Dev} (h : d.MemOk) (l : Nat) : (d.unqueue l).MemOk := h
theorem Dev.memOk_put {d : Dev} (h : d.MemOk) (f : Fld) (v : Nat) : (d.put f v).MemOk := h
theorem Dev.memOk_bump {d : Dev} (h : d.MemOk) (f : Fld) : (d.bump f).MemOk := h
theorem Dev.memOk_wipe {d : Dev} (h : d.MemOk) (b : BitVec 13) : (d.wipe b).MemOk := Tab.wf_filter h _
theorem Dev.memOk_endWipe {d : Dev} (h : d.MemOk) : d.endWipe.MemOk := Dev.memOk_wipe h _
theorem Dev.memOk_waitWipe {d : Dev} (h : d.MemOk) (a : Nat) : (d.waitWipe a).MemOk := by
  unfold Dev.waitWipe
  split
  · exact Dev.memOk_endWipe h
  · exact h
theorem Dev.memOk_readLine {d : Dev} (h : d.MemOk) (m l : Nat) (s : Bool) : (d.readLine m l s).2.MemOk :=
  (Dev.recorded_recordRead _ _ _ _ _).memOk ((Dev.recorded_lineDraws _ _).memOk ((Dev.recorded_grant _ _ _).memOk
    (Dev.memOk_waitWipe h l)))
theorem Dev.memOk_readLines {d : Dev} (h : d.MemOk) (m : Nat) (ls : List Nat) : (d.readLines m ls).2.MemOk := by
  induction ls generalizing d with
  | nil => exact h
  | cons l ls ih => exact ih (Dev.memOk_readLine h m l false)
theorem Dev.memOk_readMem {d : Dev} (h : d.MemOk) (m a n : Nat) : (d.readMem m a n).2.2.MemOk := Dev.memOk_readLines h m _
theorem Dev.memOk_storeLine {d : Dev} (h : d.MemOk) (l : Nat) (c : BitVec 2) (data : List Byte) : (d.storeLine l c data).MemOk := by
  have e : ∀ d' : Dev, d'.MemOk → ∀ t : LineTag, (((d'.setBytes l data).setTag l t).unqueue l).MemOk :=
    fun d' hd t => Dev.memOk_setBytes hd l data
  unfold Dev.storeLine
  dsimp only
  refine e _ ?_ _
  split
  · exact Dev.memOk_put h _ _
  · exact h
theorem Dev.memOk_chunkStore {d : Dev} (h : d.MemOk) (c : Chunk × List Byte) : (d.chunkStore c).MemOk := Dev.memOk_storeLine h _ _ _
theorem Dev.memOk_recordRefusal {d : Dev} (h : d.MemOk) (m a w : Nat) : (d.recordRefusal m a w).MemOk :=
  (Dev.recorded_errLatch _ _ _ _ _ _).memOk h
theorem Dev.memOk_partialCheck {d : Dev} (h : d.MemOk) (m : Nat) (c : Chunk) : (d.partialCheck m c).2.MemOk := by
  have hl := (d.recorded_lineDraws (lineOf c.1)).memOk h
  unfold Dev.partialCheck
  dsimp only
  split
  · exact hl
  · exact hl
  · exact Dev.memOk_queueCe ((Dev.recorded_recordCe _ _ _ _ _).memOk hl) _
  · exact Dev.memOk_recordRefusal (Dev.memOk_unqueue (Dev.memOk_setTag ((Dev.recorded_recordUe _ _ _ _).memOk hl) _ _) _) _ _ _
  · exact Dev.memOk_recordRefusal ((Dev.recorded_recordPoison _ _ _).memOk hl) _ _ _
theorem Dev.memOk_chunkCheck {d : Dev} (h : d.MemOk) (m : Nat) (c : Chunk) : (d.chunkCheck m c).2.MemOk := by
  unfold Dev.chunkCheck
  split
  · exact h
  · exact Dev.memOk_partialCheck h m c
theorem Dev.memOk_checkAll {d : Dev} (h : d.MemOk) (m : Nat) (cs : List Chunk) : (d.checkAll m cs).2.MemOk := by
  induction cs generalizing d with
  | nil => exact h
  | cons c cs ih => exact ih (Dev.memOk_chunkCheck ((Dev.recorded_grant _ _ _).memOk (Dev.memOk_waitWipe h _)) m c)
theorem Dev.memOk_chunks {d : Dev} (h : d.MemOk) (cs : List (Chunk × List Byte)) : (cs.foldl Dev.chunkStore d).MemOk := by
  induction cs generalizing d with
  | nil => exact h
  | cons c cs ih => exact ih (Dev.memOk_chunkStore h c)
theorem Dev.memOk_writeWhole {d : Dev} (h : d.MemOk) (m a : Nat) (data : List Byte) : (d.writeWhole m a data).2.MemOk := by
  unfold Dev.writeWhole
  dsimp only
  split
  · exact Dev.memOk_chunks (Dev.memOk_checkAll h m _) _
  · exact Dev.memOk_checkAll h m _
theorem Dev.memOk_writeLines {d : Dev} (h : d.MemOk) (m : Nat) (cs : List Chunk) : (d.writeLines m cs).2.MemOk := by
  induction cs generalizing d with
  | nil => exact h
  | cons c cs ih => exact ih (Dev.memOk_writeWhole h m _ _)
theorem Dev.memOk_writeBack {d : Dev} (h : d.MemOk) (b : Nat) : (d.writeBack b).MemOk := by
  unfold Dev.writeBack
  split
  · exact h
  · split
    · exact Dev.memOk_setBytes ((d.recorded_lineDraws _).memOk h) _ _
    · exact Dev.memOk_unqueue h _
theorem Dev.memOk_poisonLine {d : Dev} (h : d.MemOk) (b : Nat) : (d.poisonLine b).MemOk := by
  unfold Dev.poisonLine
  split <;> exact h
theorem Dev.memOk_flashProgram {d : Dev} (h : d.MemOk) (off : Nat) (l : List Byte) : (d.flashProgram off l).MemOk := by
  induction l generalizing d off with
  | nil => exact h
  | cons b l ih => exact ih (Dev.memOk_setByte h _ _) _
theorem Dev.memOk_flashErase {d : Dev} (h : d.MemOk) (n : Nat) : (d.flashErase n).MemOk := Tab.wf_filter h _
@[simp] theorem Dev.flashShow_mem (d : Dev) : d.flashShow.mem = d.mem := by simp [Dev.flashShow]
theorem Dev.memOk_flashShow {d : Dev} (h : d.MemOk) : d.flashShow.MemOk := Dev.memOk_of_bytes (by simp) h
theorem Dev.memOk_flash {d : Dev} (h : d.MemOk) (fl : FlashS) :
    ({ d with mem := { d.mem with flash := fl } } : Dev).flashShow.MemOk :=
  Dev.memOk_of_bytes (by rw [Dev.flashShow_mem]) h
theorem Dev.memOk_pageDone {d : Dev} (h : d.MemOk) : d.pageDone.MemOk := by
  unfold Dev.pageDone
  split
  · exact h
  · exact Dev.memOk_flash (Dev.memOk_flashProgram h _ _) _
theorem Dev.memOk_pageBegin {d : Dev} (h : d.MemOk) (off : Nat) (data : List Byte) : (d.pageBegin off data).MemOk :=
  Dev.memOk_flash (Dev.memOk_pageDone h) _
theorem Dev.memOk_program {d : Dev} (h : d.MemOk) (off : Nat) (data : List Byte) : (d.program off data).MemOk := by
  unfold Dev.program
  split
  · exact h
  · exact Dev.memOk_pageBegin (Dev.memOk_flashProgram (Dev.memOk_pageDone h) _ _) _ _
theorem Dev.memOk_flashTouch {d : Dev} (h : d.MemOk) : d.flashTouch.MemOk := by
  unfold Dev.flashTouch
  dsimp only
  split
  · exact Dev.memOk_bump (Dev.memOk_flash (Dev.memOk_pageDone h) _) _
  · exact Dev.memOk_pageDone h
theorem Dev.memOk_flashRead {d : Dev} (h : d.MemOk) (a n : Nat) : (d.flashRead a n).2.2.MemOk := by
  unfold Dev.flashRead
  split
  · exact h
  · dsimp only
    split
    · exact Dev.memOk_bump (Dev.memOk_flashTouch h) _
    · exact Dev.memOk_flashTouch h
theorem Dev.memOk_writeRecord {d : Dev} (h : d.MemOk) (j k n : Nat) : (d.writeRecord j k n).MemOk :=
  Dev.memOk_put (Dev.memOk_put (Dev.memOk_put (Dev.memOk_flashProgram h _ _) _ _) _ _) _ _
theorem Dev.memOk_recordDone {d : Dev} (h : d.MemOk) (o : Nat) : (d.recordDone o).MemOk := Dev.memOk_flashProgram h _ _
theorem Dev.memOk_eraseStart {d : Dev} (h : d.MemOk) (n : Nat) : (d.eraseStart n).MemOk := by
  unfold Dev.eraseStart
  refine Dev.memOk_flash ?_ _
  split
  · exact Dev.memOk_writeRecord h _ _ _
  · split
    · exact Dev.memOk_writeRecord h _ _ _
    · exact Dev.memOk_writeRecord (Dev.memOk_recordDone (Dev.memOk_flashErase (Dev.memOk_writeRecord h _ _ _) _) _) _ _ _
theorem Dev.memOk_eraseEnd {d : Dev} (h : d.MemOk) : d.eraseEnd.MemOk := by
  unfold Dev.eraseEnd
  split
  · exact h
  · exact Dev.memOk_flash (Dev.memOk_recordDone (Dev.memOk_flashErase h _) _) _

end Sys2Proof.Machine
end

