-- ==== Sys2Proof/Laws/Requests.lean ====
section
/-! SUPPORT. One register request by itself: what `requests`, `arbitrate` and `writeRegs` come to. -/

namespace Sys2Proof.Machine

/-- The account of a lone request's fields, and the state they leave. -/
def Dev.oneMet (d : Dev) (r : Req) : Met × Dev :=
  (regFields r.addr).foldl (d.fieldWrite [r] r) (Met.none', d.applyWrite r.addr (reqWord r))

/-- What a lone request's write starts. -/
def Dev.oneHook (d : Dev) (r : Req) : Status × Dev :=
  let m := (d.oneMet r).1
  let e := (d.oneMet r).2.recordMet r m
  if m.did then (d.applyHeld r.addr e).regHook d r.addr m.w1 (r.path == .host) else (.ok, e)

/-- The status of a lone request. -/
def Dev.oneStatus (d : Dev) (r : Req) : Status := Status.first ((d.oneHook r).1 :: (d.oneMet r).1.statuses)

/-- No other register's STOP takes an action away from a lone request. -/
theorem Dev.unstopped_one (d : Dev) (r : Req) (m : Met) (w : Word) : d.unstopped [((0, r), m)] r.addr w = w := by
  unfold Dev.unstopped
  dsimp only
  split
  · rename_i h
    have e : ∀ n ∈ List.range 8, (r.addr == (F.tcuChCtrlArm n).addr) = false := by rw [h]; decide
    have k : ∀ (l : List Nat), (∀ n ∈ l, (r.addr == (F.tcuChCtrlArm n).addr) = false) → ∀ x : Word,
        l.foldl (fun w n => if (([((0, r), m)].filter fun x => x.1.2.addr == (F.tcuChCtrlArm n).addr).foldl
          (fun w x => w ||| x.2.w1) (0 : Word)).getLsbD 1 then w &&& ~~~(1#32 <<< n) else w) x = x := by
      intro l
      induction l with
      | nil => intro _ x; rfl
      | cons n l ih =>
        intro h x
        simp only [List.foldl_cons, List.filter, h n (by simp), List.foldl_nil]
        simpa [List.filter] using ih (fun q hq => h q (by simp [hq])) x
    exact k _ e w
  · split
    · rename_i h g
      have e : (r.addr == F.tcuGctrlArm.addr) = false := by simpa using h
      simp [List.filter, e]
    · split
      · rename_i g
        have e : (r.addr == F.cueCtrl.addr) = false := by
          rw [beq_eq_false_iff_ne]
          intro e
          rw [e] at g
          exact absurd g (by decide)
        simp [e]
      · rfl

theorem Dev.writeRegs_one (d : Dev) (r : Req) (h : d.regRefusal r = .ok) :
    d.writeRegs [(0, r)] = ([(0, d.oneStatus r)], (d.oneHook r).2) := by
  have e : byRank [(0, r)] = [(0, r)] := rfl
  simp only [Dev.writeRegs, h, List.filterMap_cons, List.filterMap_nil, List.filter, beq_self_eq_true, e, Dev.each,
    List.foldl, Dev.fieldsOf, List.map, List.nil_append]
  have o : onesAt [(0, r)] r.addr = reqWord r := by simp [onesAt]
  have l : stopsLast [r.addr] = [r.addr] := by
    unfold stopsLast
    by_cases h : (decide (r.addr = F.cueCtrl.addr) || decide (r.addr = F.swmCtrlRun.addr)) = true <;> simp [List.filter, h]
  simp [Dev.oneStatus, Dev.oneHook, Dev.oneMet, Dev.hooksOf, Dev.startHook, o, l, Dev.unstopped_one]
  exact ⟨rfl, rfl⟩

theorem Dev.writeRegs_refused (d : Dev) (r : Req) (h : d.regRefusal r ≠ .ok) :
    d.writeRegs [(0, r)] = ([(0, d.regRefusal r)], d) := by
  have e : (d.regRefusal r == .ok) = false := by simpa using h
  have e2 : byRank [] = [] := rfl
  simp only [Dev.writeRegs, List.filterMap_cons, List.filterMap_nil, List.filter, e, e2, Dev.each,
    List.foldl, Dev.fieldsOf, List.map, Dev.hooksOf, List.dedup_nil]
  rfl

theorem Dev.arbitrate_reg (d : Dev) (r : Req) (hr : isReg r.addr = true) :
    d.arbitrate [r] =
      ([if ((d.writeRegs [(0, r)]).1.headD (0, .ok)).2.isError then [(r.addr, ((d.writeRegs [(0, r)]).1.headD (0, .ok)).2)] else []],
       (d.writeRegs [(0, r)]).2) := by
  have e2 : byRank [] = [] := rfl
  have e3 : (asks : List Ask) → asks = [] → ∀ d : Dev, Dev.meetTurns d (asks.map (·.2)) = d := by
    intro a ha d; subst ha; rfl
  by_cases h : d.regRefusal r = .ok
  · simp [Dev.arbitrate, hr, e2, d.writeRegs_one r h, Dev.writeMems, Dev.meetTurns, Dev.each]
  · simp [Dev.arbitrate, hr, e2, d.writeRegs_refused r h, Dev.writeMems, Dev.meetTurns, Dev.each]

/-- A lone register request that reaches its unit and is not refused. -/
theorem Dev.requests_one (d : Dev) (r : Req) (hr : isReg r.addr = true) (hreach : d.reaches r.path r.addr = true)
    (h : d.regRefusal r = .ok) (own : Option Path) (hown : own ≠ some r.path) :
    d.requests [r] own =
      ([if (d.oneStatus r).isError then d.oneStatus r else .ok],
       (d.oneHook r).2.settle d [r] r (if (d.oneStatus r).isError then [(r.addr, d.oneStatus r)] else [])) := by
  have ha : d.liveOf [r] = [r] := by simp [Dev.liveOf, List.filter, hr, h, sortBy, insertBy]
  simp only [Dev.requests, List.filter, hreach, d.arbitrate_reg r hr, d.writeRegs_one r h, Dev.each]
  by_cases e : (d.oneStatus r).isError = true
  · simp [e, ha, hown, statusOf, Status.first, Status.worse]
    revert e; cases d.oneStatus r <;> decide
  · simp [e, ha, hown, statusOf, Status.first]

/-- A lone register request that is refused changes nothing but its sender's account. -/
theorem Dev.requests_refused (d : Dev) (r : Req) (hr : isReg r.addr = true) (hreach : d.reaches r.path r.addr = true)
    (h : (d.regRefusal r).isError = true) :
    d.requests [r] = ([d.regRefusal r], d.settle d [] r [(r.addr, d.regRefusal r)]) := by
  have h' : d.regRefusal r ≠ .ok := by intro e; rw [e] at h; revert h; decide
  have ha : d.liveOf [r] = [] := by simp [Dev.liveOf, List.filter, hr, h', sortBy]
  simp only [Dev.requests, List.filter, hreach, d.arbitrate_reg r hr, d.writeRegs_refused r h', Dev.each]
  simp [h, ha, statusOf, Status.first, Status.worse]
  revert h; cases d.regRefusal r <;> decide

/-- A lone request that does not reach its unit. -/
theorem Dev.requests_away (d : Dev) (r : Req) (h : d.reaches r.path r.addr = false) :
    d.requests [r] = ([.ebusy], d.turnAway r.path r.addr) := by
  have ew : d.writeRegs [] = ([], d) := rfl
  have e2 : byRank [] = [] := rfl
  have ea : d.arbitrate [] = ([], d) := by simp [Dev.arbitrate, ew, e2, Dev.meetTurns, Dev.each, Dev.writeMems]
  simp [Dev.requests, h, ea, Dev.each]

/-- The word of a register request is the word written. -/
@[simp] theorem reqWord_regReq (p : Path) (a : Nat) (w : Word) (x : Bool) : reqWord (regReq p a w x) = w := by
  apply BitVec.eq_of_toNat_eq
  have := w.isLt
  simp only [reqWord, regReq, bytesOf, ofBytes, BitVec.toNat_ofNat]
  omega

@[simp] theorem regReq_addr (p : Path) (a : Nat) (w : Word) (x : Bool) : (regReq p a w x).addr = a := rfl
@[simp] theorem regReq_path (p : Path) (a : Nat) (w : Word) (x : Bool) : (regReq p a w x).path = p := rfl
@[simp] theorem regReq_posted (p : Path) (a : Nat) (w : Word) (x : Bool) : (regReq p a w x).posted = x := rfl

/-- A write that its unit takes and that answers OK: the sender is told. -/
theorem Dev.srcWord_takes (d : Dev) (src : Src) (a : Nat) (w : Word) (ha : isReg a = true) (h : d.Takes src a w)
    (hst : (d.oneStatus (regReq src.path a w src.posted)).isError = false) :
    d.srcWord src a w = (d.oneHook (regReq src.path a w src.posted)).2.told src a := by
  obtain ⟨hp, hr, hk⟩ := h
  simp only [Dev.srcWord, d.requests_one (regReq src.path a w src.posted) ha hr hk none (by simp), hst]
  obtain ⟨p, x⟩ := src
  rcases hp with rfl | rfl <;> simp [Dev.settle, Dev.told, Path.isMgmt, Dev.failingWords, oncePerWord, ha, Dev.each]

/-- The fields of a register of which every one is an action. -/
def actions (fs : List Field) : Bool := fs.all fun f => f.acc == .wo || f.acc == .w1s

/-- The word that writes one field of such a register. -/
theorem Dev.fieldWord_actions (d : Dev) (f : Fld) (v : Nat) (hf : actions (regFields f.addr) = true) :
    d.fieldWord f v = insBits 0 f.lo f.w v := by
  have key : ∀ (fs : List Field), actions fs = true → fs.foldl (fun (w : Word) x =>
      match x.acc with
      | .rw | .rws _ | .lk => insBits w x.lo x.w (bitsOf (d.present f.addr) x.lo x.w)
      | _ => w) 0 = 0 := by
    intro fs
    induction fs with
    | nil => intro _; rfl
    | cons x fs ih =>
      intro h
      simp only [actions, List.all_cons, Bool.and_eq_true, Bool.or_eq_true, beq_iff_eq] at h
      rcases h.1 with e | e <;> simp only [List.foldl, e] <;> exact ih h.2
  exact congrArg (fun k => insBits k f.lo f.w v) (key _ hf)

/-- A request alone in its cycle loses to nobody. -/
theorem loses_one (r : Req) (f : Field) : loses (fieldValues [r] r.addr f) (bitsOf (reqWord r) f.lo f.w) = false := by
  simp [fieldValues, valuesOf, loses]

/-- A lone write of such a register changes no field: its ones are the actions. -/
theorem Dev.oneMet_actions (d : Dev) (r : Req) (ha : isApply r.addr = false) (hf : actions (regFields r.addr) = true)
    (hn : regFields r.addr ≠ []) :
    d.oneMet r =
      (⟨(regFields r.addr).foldl (fun w f => w ||| (reqWord r &&& fieldMask f.lo f.w)) 0, true, false, false, false, none⟩, d) := by
  have key : ∀ (fs : List Field) (w : Word) (b : Bool), actions fs = true →
      fs.foldl (d.fieldWrite [r] r) (⟨w, b, false, false, false, none⟩, d) =
        (⟨fs.foldl (fun w f => w ||| (reqWord r &&& fieldMask f.lo f.w)) w, b || !fs.isEmpty, false, false, false, none⟩, d) := by
    intro fs
    induction fs with
    | nil => intro w b _; simp
    | cons f fs ih =>
      intro w b h
      simp only [actions, List.all_cons, Bool.and_eq_true, Bool.or_eq_true, beq_iff_eq] at h
      simp only [List.foldl]
      rcases h.1 with e | e <;> simp [Dev.fieldWrite, e, ih _ _ h.2, loses_one]
  have e : (regFields r.addr).isEmpty = false := by simpa [List.isEmpty_iff] using hn
  simp [Dev.oneMet, Dev.applyWrite, ha, key _ _ _ hf, Met.none', e]

/-- What such a write comes to: the action of its ones. -/
theorem Dev.oneHook_actions (d : Dev) (r : Req) (ha : isApply r.addr = false) (hf : actions (regFields r.addr) = true)
    (hn : regFields r.addr ≠ []) :
    d.oneHook r = (d.applyHeld r.addr d).regHook d r.addr
        ((regFields r.addr).foldl (fun w f => w ||| (reqWord r &&& fieldMask f.lo f.w)) 0) (r.path == .host) := by
  simp [Dev.oneHook, d.oneMet_actions r ha hf hn, Dev.recordMet]

theorem Dev.oneStatus_actions (d : Dev) (r : Req) (ha : isApply r.addr = false) (hf : actions (regFields r.addr) = true)
    (hn : regFields r.addr ≠ []) : d.oneStatus r = Status.first [(d.oneHook r).1] := by
  simp [Dev.oneStatus, d.oneMet_actions r ha hf hn, Met.statuses]

/-- The ones of a word that such a register's fields take. -/
def actionBits (a : Nat) (w : Word) : Word := (regFields a).foldl (fun x f => x ||| (w &&& fieldMask f.lo f.w)) 0

/-- A sender writes a register of actions. -/
theorem Dev.srcWord_action (d : Dev) (src : Src) (a : Nat) (w : Word) (hr : isReg a = true) (ha : isApply a = false)
    (hf : actions (regFields a) = true) (hn : regFields a ≠ []) (hh : d.heldFor a = none) (h : d.Takes src a w)
    (hk : (d.regHook d a (actionBits a w) (src.path == .host)).1 = .ok) :
    d.srcWord src a w = (d.regHook d a (actionBits a w) (src.path == .host)).2.told src a := by
  have e := d.oneHook_actions (regReq src.path a w src.posted) ha hf hn
  simp only [regReq_addr, reqWord_regReq, regReq_path, Dev.applyHeld, hh] at e
  have e2 := d.oneStatus_actions (regReq src.path a w src.posted) ha hf hn
  rw [e, show (regFields a).foldl (fun x f => x ||| (w &&& fieldMask f.lo f.w)) 0 = actionBits a w from rfl, hk] at e2
  rw [d.srcWord_takes src a w hr h (by rw [e2]; decide), e]
  rfl

/-- A sender writes one field of a register of actions. -/
theorem Dev.srcWrite_action (d : Dev) (src : Src) (f : Fld) (v : Nat) (hr : isReg f.addr = true) (ha : isApply f.addr = false)
    (hf : actions (regFields f.addr) = true) (hn : regFields f.addr ≠ []) (hh : d.heldFor f.addr = none) (h : d.TakesField src f v)
    (hk : (d.regHook d f.addr (actionBits f.addr (insBits 0 f.lo f.w v)) (src.path == .host)).1 = .ok) :
    d.srcWrite src f v =
      (d.regHook d f.addr (actionBits f.addr (insBits 0 f.lo f.w v)) (src.path == .host)).2.told src f.addr := by
  unfold Dev.srcWrite Dev.TakesField at *
  rw [d.fieldWord_actions f v hf] at *
  exact d.srcWord_action src f.addr _ hr ha hf hn hh h hk

/-- Outside the Timer/Counter Unit and a few pairs no write applies a held word. -/
theorem Dev.heldFor_none (d : Dev) (a : Nat) (h : a < 0x4800 ∨ 0x4A00 ≤ a) (h1 : a ≠ F.pwrFloorAtHi.addr)
    (h2 : a < 0x1800 ∨ 0x2000 ≤ a) : d.heldFor a = none := by
  have e : d.tcuPartner a = none := by
    unfold Dev.tcuPartner
    rw [if_pos]
    unfold tcuBase
    omega
  have e3 : ((List.range 4).any fun g => decide (a = (F.swmGlfoIncHiInc g).addr)) = false := by
    rw [List.any_eq_false]
    intro g hg
    have := List.mem_range.1 hg
    intro e
    have e := of_decide_eq_true e
    simp only [F.swmGlfoIncHiInc] at e
    omega
  simp only [Dev.heldFor, e, h1, if_false, e3]
  simp

end Sys2Proof.Machine
end

