-- ==== Sys2Proof/Laws/Cue.lean ====
section
/-! SUPPORT. What issuing an instruction does, said once. -/

namespace Sys2Proof.Machine

@[simp] theorem Dev.peek_isOk_opcode (d : Dev) (n : Nat) (w e : Word) (h : d.found n = .ok (w, e)) :
    d.peek (d.thread n).pc = .ok w := by
  unfold Dev.found at h
  simp only at h
  split at h
  · simp at h
  · next w' hw =>
    split at h
    · split at h
      · simp at h
      · split at h
        · simp only [Except.ok.injEq, Prod.mk.injEq] at h; rw [hw, h.1]
        · simp at h
    · split at h
      · simp only [Except.ok.injEq, Prod.mk.injEq] at h; rw [hw, h.1]
      · simp at h

/-- An instruction whose words stand at the PC of a thread that can issue it. -/
theorem Dev.issue_issues (d : Dev) (th : Fin 16) (op : Nat) (body : Word → Word → Dev → Dev) (w e : Word)
    (h : d.Issues th op w e) : d.issue th op body = body w e (d.noteIssue th) := by
  obtain ⟨hc, hf, ho, hn⟩ := h
  have hp := d.peek_isOk_opcode th w e hf
  have h1 : d.opcodeAt th op = true := by simp [Dev.opcodeAt, hp, ho]
  simp only [Dev.issue, hc, h1, hf]
  cases hx : (d.thread th).outst with
  | none => simp
  | some o => simp [(hn o hx).1, (hn o hx).2]

/-! ### Fetches -/

theorem spaceOf_cue (a : Nat) : spaceOf a = .cue ↔ 0x02000000 ≤ a ∧ a < 0x02040000 := by
  unfold spaceOf
  repeat' split
  all_goals simp
  all_goals omega

theorem bankOf_lineOf_cue (pc : Nat) (h : pc ≤ 0x3FFFC) : bankOf (lineOf (cueBase + pc)) = bankOf (cueBase + pc) := by
  have h1 : spaceOf (cueBase + pc) = .cue := (spaceOf_cue _).2 (by unfold cueBase; omega)
  have h2 : spaceOf (lineOf (cueBase + pc)) = .cue := (spaceOf_cue _).2 (by unfold lineOf cueBase; omega)
  simp only [bankOf, h1, h2]
  unfold lineOf cueBase
  omega

theorem Dev.Recorded.wiping {d e : Dev} (h : d.Recorded e) : e.mem.wiping = d.mem.wiping := by
  obtain ⟨r, f, n, c, u, g, rfl, -⟩ := h; rfl

/-- The fetch of a word that stands in memory records what R240 says and nothing else. -/
theorem Dev.fetchNote_says (d e : Dev) (pc : Nat) (w : Word) (h : d.peek pc = .ok w) (he : e.mem.wiping = d.mem.wiping) :
    e.Recorded (e.fetchNote pc) := by
  unfold Dev.fetchNote
  split
  · exact .refl e
  · next hp =>
    have hw : d.mem.wiping.getLsbD (bankOf (cueBase + pc)) = false := by
      unfold Dev.peek at h
      rw [if_neg hp] at h
      split at h
      · simp at h
      · next hx => simpa using hx
    exact (e.readLine_says _ _ _ (by rw [he, bankOf_lineOf_cue _ (by omega)]; exact hw)).2

/-- A note of the issue: the fetches' records, the thread is the last to issue, and the cycles its instruction takes begin. -/
def Dev.Noted (d e : Dev) (n : Nat) : Prop :=
  ∃ r f k c u g b, e = { d with
    regs := r, flt := f, fresh := k, mem := { d.mem with ceQueue := c, ueQueue := u, rr := g }
    cue := { d.cue with last := n, busy := b } }
    ∧ ∀ a, recReg a = false → Tab.get regReset r a = d.reg a

theorem Dev.noteIssue_says (d : Dev) (n : Nat) (w e : Word) (h : d.found n = .ok (w, e)) : d.Noted (d.noteIssue n) n := by
  have hp := d.peek_isOk_opcode n w e h
  have key : ∀ d' : Dev, d.Recorded d' → ∀ b, d.Noted { d' with cue := { d'.cue with last := n, busy := b } } n := by
    intro d' hd b
    obtain ⟨r, f, k, c, u, g, rfl, hr⟩ := hd
    exact ⟨r, f, k, c, u, g, b, rfl, hr⟩
  have h1 := d.fetchNote_says d _ w hp rfl
  unfold Dev.noteIssue
  simp only [hp]
  refine key _ ?_ _
  split
  · next hx =>
    have hx : hasExt w = true := hx
    have : d.peek ((d.thread n).pc + 4) = .ok e := by
      unfold Dev.found at h
      simp only [hp, hx, if_true] at h
      split at h
      · simp at h
      · next v hv =>
        split at h
        · simp only [Except.ok.injEq, Prod.mk.injEq] at h; rw [hv, h.2]
        · simp at h
    exact h1.trans (d.fetchNote_says _ _ e this h1.wiping)
  · exact h1

theorem Dev.Noted.thread {d e : Dev} {n : Nat} (h : d.Noted e n) (m : Nat) : e.thread m = d.thread m := by
  obtain ⟨r, f, k, c, u, g, b, rfl, -⟩ := h; rfl
theorem Dev.Noted.time {d e : Dev} {n : Nat} (h : d.Noted e n) : e.time = d.time := by
  obtain ⟨r, f, k, c, u, g, b, rfl, -⟩ := h; rfl
theorem Dev.Noted.now {d e : Dev} {n : Nat} (h : d.Noted e n) : e.now = d.now := by simp only [Dev.now, h.time]
theorem Dev.Noted.hcp {d e : Dev} {n : Nat} (h : d.Noted e n) : e.hcp = d.hcp := by
  obtain ⟨r, f, k, c, u, g, b, rfl, -⟩ := h; rfl
theorem Dev.Noted.reg {d e : Dev} {n : Nat} (h : d.Noted e n) (a : Nat) (ha : recReg a = false) : e.reg a = d.reg a := by
  obtain ⟨r, f, k, c, u, g, b, rfl, hr⟩ := h; exact hr a ha
theorem Dev.Noted.get {d e : Dev} {n : Nat} (h : d.Noted e n) (f : Fld) (ha : recReg f.addr = false) : e.get f = d.get f := by
  simp only [Dev.get, h.reg _ ha]
theorem Dev.Noted.period {d e : Dev} {n : Nat} (h : d.Noted e n) : e.period = d.period := by
  have : e.rate96 = d.rate96 := by unfold Dev.rate96 Dev.on; rw [h.get F.swmCtrlRate (by decide)]
  unfold Dev.period; rw [this]

/-! ### Immediate operands -/

/-- A signed field of a word. -/
theorem sbits_toInt (w : Word) (n : Nat) (h0 : 0 < n) : sbits w 0 n = (w.setWidth n).toInt := by
  have hp : 2 ^ n = 2 * 2 ^ (n - 1) := by rw [← Nat.pow_succ']; congr 1; omega
  simp only [sbits, signed, bitsOf, BitVec.toInt, BitVec.toNat_setWidth, BitVec.ushiftRight_zero, Nat.mod_mod]
  split <;> split <;> first | rfl | omega

theorem sext_imm16 (w : Word) : BitVec.ofInt 32 (sbits w 0 16) = (w.setWidth 16).signExtend 32 := by
  rw [sbits_toInt w 16 (by omega)]; rfl

theorem Thread.opB_eq (x : Thread) (w : Word) :
    x.opB w = if w.getLsbD 17 then (w.setWidth 16).signExtend 32 else x.rg (bitsOf w 12 4) := by
  simp [Thread.opB, sext_imm16]

end Sys2Proof.Machine
end

