-- ==== Sys2Proof/WellFormed.lean ====
section
/-! DEFINITION. Which commands are well formed: operands inside the ranges their rules give. A command outside them is no
command of the table; the meanings are total all the same. -/

namespace Sys2Proof

/-- A request carries bytes, and a register word is four bytes at an aligned address (R7, R214, R331). -/
def Req.wf (r : Req) : Bool :=
  decide (0 < r.data.length) && (decide (0x8000 ≤ r.addr) || (decide (r.addr % 4 = 0) && decide (r.data.length = 4)))

/-- Requests that meet in one ECLK cycle: each path makes at most one (R494). -/
def reqsWf (rs : List Req) : Bool :=
  rs.all Req.wf && decide ((rs.map (·.path)).Nodup)

/-- A character's samples: the start bit, five to nine data and parity bits and the first stop bit. -/
def charWf (bits : List (BitVec 3)) (lo hi : Nat) : Bool := decide (lo ≤ bits.length) && decide (bits.length ≤ hi)

/-- The block base of a BLOCK_APPLY register (R53, Table 15.15). -/
def blockWf (blk : Nat) : Bool := decide (blk % 0x400 = 0) && decide (blk < 0x7400)

/-- A level sample of a card block is at most one 4 KB block (R432). -/
def cardWf : CardRead → Bool
  | .bytes b => decide (b.length ≤ 4096)
  | .failure _ => true
  | .badStatus _ _ _ count => decide (count ≤ 256)

/-- The well-formedness of a command's operands. UART0's no bits at all are the start bit alone, log 14. -/
def Instr.wf : Instr → Bool
  | .registerWrite reqs => reqsWf reqs && decide (reqs ≠ [])
  | .counterReadClear _ addr => decide (addr % 4 = 0) && decide (addr < 0x8000)
  | .apply _ blk => blockWf blk
  | .discard _ blk => blockWf blk
  | .ltcInFrame f => decide (f.rate ∈ [24, 25, 30])
  | .st _ rivals => reqsWf rivals
  | .tcuset _ rivals => reqsWf rivals
  | .gpo _ rivals => reqsWf rivals
  | .rd _ addr count _ collided => decide (addr < 2 ^ 32) && decide (count ≤ 0x10000) && collided.all (fun k => decide (4 * k < count))
  | .wr _ addr data rivals => decide (addr < 2 ^ 32) && decide (data.length ≤ 0x10000) && reqsWf rivals
  | .wreg _ rivals => reqsWf rivals
  | .twtWriteTransfer _ _ rivals => reqsWf rivals
  | .twcDone rx nack => decide (rx.length ≤ 65536) && decide (nack.getD 0 ≤ 65536)
  | .ua0RxChar bits => bits.isEmpty || charWf bits 9 12
  | .slowRxChar bits => charWf bits 11 11
  | .cardRxChar bits => charWf bits 10 10
  | .scan r => cardWf r
  | .stage bs => bs.all (fun b => cardWf b.read)
  | .verify s => cardWf s.read
  | _ => true

end Sys2Proof
end

