-- ==== Sys2Proof/Tests/Slice0.lean ====
section
/-! SUPPORT. Tests: ill-formed commands are refused, each statement with hypotheses has a state that meets them (for each of
its clauses, in the statement's order; the state is the device named, with an empty queue), and single steps give what the
manual says. -/

namespace Sys2Proof.Tests

open Sys2Proof.Machine

/-! ### Devices -/

def mg : Src := ⟨.mgmt, false⟩
def ho : Src := ⟨.host, false⟩
def th3 : Fin 16 := 3

/-- A part in RUN with start-up complete, every feature of the offer active, and house time 5 blocks and 777 tk. -/
def live : Dev :=
  let d := Dev.reset
  let d := { d with
    time := { d.time with counting := true, ht := 15729417, smp := 240, blk := 5 }
    sys := { d.sys with phase := .ready }
    hcp := { d.hcp with active := 0x3FFF }
    mem := { d.mem with wiping := 0, windowOpen := true } }
  (d.put F.sysStatusReady 1).put F.hcpStatusNegotiated 1

/-- The same in DOZE. -/
def dozing : Dev := live.put F.pwrStatusState 2

/-- `live` with the words of an instruction at thread 3's PC, and that thread READY. -/
def cue (w e : Nat) (x : Thread → Thread := id) : Dev :=
  let d := ((live.put F.cueCtrl 1).setThread 3 (x { Thread.zero with state := .ready, pc := 0x100 }))
  (d.setBytes 0x02000100 (bytesOf w 4 ++ bytesOf e 4)).setTag 0x02000100 ⟨3, 0, 0, 0, 0⟩

/-- The device after a command. -/
def run (c : Instr) (d : Dev) : Dev :=
  match exec c ⟨[], d⟩ with
  | .next t => t.dev
  | _ => Dev.reset

/-- The words of thread 3's instruction. -/
def ins (op rd ra low : Nat) : Nat := op * 2 ^ 26 + rd * 2 ^ 22 + ra * 2 ^ 18 + low

/-! ### Well-formedness -/

theorem test_wf_registerWrite : Instr.wf (.registerWrite [regReq .mgmt 0x830 5 false]) = true := by decide
theorem test_ill_registerWrite_none : Instr.wf (.registerWrite []) = false := by decide
theorem test_ill_request_empty : Instr.wf (.registerWrite [⟨.mgmt, 0x830, [], false⟩]) = false := by decide
theorem test_ill_request_unaligned : Instr.wf (.registerWrite [⟨.mgmt, 0x831, [1, 2, 3, 4], false⟩]) = false := by decide
theorem test_ill_request_length : Instr.wf (.registerWrite [⟨.mgmt, 0x830, [1, 2, 3], false⟩]) = false := by decide
theorem test_ill_request_twice :
    Instr.wf (.registerWrite [regReq .mgmt 0x830 5 false, regReq .mgmt 0x834 5 false]) = false := by decide
theorem test_ill_counterRead : Instr.wf (.counterReadClear .mgmt 0x8000) = false ∧ Instr.wf (.counterReadClear .mgmt 2) = false := by
  decide
theorem test_ill_apply : Instr.wf (.apply mg 0x401) = false ∧ Instr.wf (.discard mg 0x7400) = false := by decide
theorem test_ill_ltc : Instr.wf (.ltcInFrame ⟨0, 29, false, true, 0⟩) = false := by decide
theorem test_ill_rivals : Instr.wf (.st th3 [⟨.host, 0x830, [], false⟩]) = false
    ∧ Instr.wf (.tcuset th3 [⟨.host, 0x830, [], false⟩]) = false ∧ Instr.wf (.gpo th3 [⟨.host, 0x830, [], false⟩]) = false
    ∧ Instr.wf (.wreg 0 [⟨.mgmt, 0x831, [1, 2, 3, 4], false⟩]) = false
    ∧ Instr.wf (.wr 0x30 0 [] [⟨.mgmt, 0x831, [1, 2, 3, 4], false⟩]) = false
    ∧ Instr.wf (.twtWriteTransfer [] false [⟨.host, 0x830, [], false⟩]) = false := by decide
theorem test_ill_rd : Instr.wf (.rd 0x20 (2 ^ 32) 4 false []) = false ∧ Instr.wf (.rd 0x20 0 0x10001 false []) = false
    ∧ Instr.wf (.rd 0x20 0 4 false [1]) = false := by decide
theorem test_ill_wr : Instr.wf (.wr 0x30 (2 ^ 32) [] []) = false := by decide
theorem test_ill_twcDone : Instr.wf (.twcDone [] (some 65537)) = false := by decide
theorem test_ill_chars : Instr.wf (.ua0RxChar (List.replicate 8 0)) = false ∧ Instr.wf (.ua0RxChar (List.replicate 13 0)) = false
    ∧ Instr.wf (.slowRxChar (List.replicate 10 0)) = false ∧ Instr.wf (.cardRxChar (List.replicate 11 0)) = false := by decide
theorem test_ill_card : Instr.wf (.scan (.badStatus 0 0 0 257)) = false
    ∧ Instr.wf (.stage [⟨.badStatus 0 0 0 257, true⟩]) = false ∧ Instr.wf (.verify ⟨.badStatus 0 0 0 257, true⟩) = false := by
  decide
theorem ill_card_bytes (b : List Byte) (h : 4096 < b.length) : Instr.wf (.scan (.bytes b)) = false := by
  simp only [Instr.wf, cardWf, decide_eq_false_iff_not]; omega

/-! ### The queue, the interface, reset -/

theorem witness_EmptyQueueAndOrder : State.reset.pending = [] ∧ State.reset.dev.time.counting = false
    ∧ live.time.counting = true := by decide

theorem witness_MemoryStaysCanonical : (∃ t, step ⟨[.nop 0], live⟩ = .next t) ∧ Memory.wf live.mem.bytes = true :=
  ⟨⟨_, rfl⟩, by decide⟩

/-- A confirmed transition from ASSEMBLY to FIELD. -/
def moving : Dev := { live with sys := { live.sys with lc := 1, lcPend := some 2, lcGo := some 2, lcSince := 5 } }

theorem witness_FusesOnlyForward : (∃ t, step ⟨[.lcTransition], moving⟩ = .next t)
    ∧ ∀ x, moving.sys.lcPend = some x ∨ moving.sys.lcGo = some x → moving.sys.lc.toNat < x.toNat := ⟨⟨_, rfl⟩, by decide⟩

theorem witness_RegisterWrites : (live.Takes mg F.htSetLo.addr 5 ∧ live.reg F.htSetLo.addr ≠ 5 ∧ live.MaySet mg F.htSetLo)
    ∧ (isReg F.dbgCtrlHalt.addr = true ∧ live.reaches .host F.dbgCtrlHalt.addr = true
      ∧ (live.regRefusal (regReq .host F.dbgCtrlHalt.addr 1 false)).isError = true)
    ∧ dozing.reaches .host F.htSetLo.addr = false ∧ (dozing.sys.phase ≠ .awaitXi ∧ dozing.served F.outMuteMute.addr = false) := by
  unfold Dev.Takes Dev.MaySet; decide

theorem witness_RequestsOfOneCycle : live.Takes mg F.htSetHi.addr 5 ∧ live.Takes ⟨.host, true⟩ F.htSetHi.addr 6
    ∧ live.Takes ⟨.host, true⟩ F.htSetHi.addr 5 ∧ live.MaySet mg F.htSetHi ∧ live.MaySet ⟨.host, true⟩ F.htSetHi := by
  unfold Dev.Takes Dev.MaySet; decide

theorem witness_CountersAndShadows : (isReg F.memCntCe.addr = true ∧ F.memCntCe.addr % 4 = 0
      ∧ (regFields F.memCntCe.addr).any (fun f => decide (f.acc = .rc)) = true ∧ live.reaches .host F.memCntCe.addr = true)
    ∧ (isApply 0x47FC = true ∧ 0x4400 % 0x400 = 0 ∧ 0x4400 < 0x7400 ∧ isReg 0x47FC = true
      ∧ (⟨2, 21, .rws .apply, 0⟩ : Field) ∈ regFields 0x4440 ∧ live.Takes mg 0x47FC 1 ∧ live.Takes mg 0x47FC 2) := by
  unfold Dev.Takes; decide

/-! ### House time -/

def stamp : Stamp := ⟨0x123456789, 3, false, 16, true⟩
/-- Two entries in the log FIFO, and the strike FIFO full. -/
def logged : Dev := { live with time := { live.time with logFifo := [stamp, stamp], strikeFifo := List.replicate 16 stamp } }
/-- The timestamper takes both edges of pin 15 and of pin 0, the latter to the strike FIFO. -/
def taking (d : Dev) : Dev := ((d.put F.htTsEn 0x8001).put F.htTsEdge 0x80000002).put F.htTsRouteGp 1

theorem witness_TimeReads : live.reaches .host F.htNowLo.addr = true ∧ logged.reaches .host F.htNowLo.addr = true ∧ logged.time.logFifo = [stamp, stamp]
    ∧ live.time.logFifo = [] := by decide

theorem witness_TimestamperTakesEdges :
    (let d := taking logged
     d.time.counting = true ∧ (d.get F.htTsEn).testBit 0 = true ∧ d.get F.htTsEdge % 4 = 2 ∧ (d.get F.htGpOe).testBit 0 = false
      ∧ d.time.gpSettle.getLsbD 0 = false ∧ (d.get F.htTsRouteGp).testBit 0 = true ∧ 16 ≤ d.time.strikeFifo.length)
    ∧ (let d := taking logged
       (d.get F.htTsEn).testBit 15 = true ∧ d.get F.htTsEdge / 4 ^ 15 % 4 = 2 ∧ (d.get F.htGpOe).testBit 15 = false
        ∧ d.time.gpSettle.getLsbD 15 = false ∧ (d.get F.htTsRouteGp).testBit 15 = false ∧ d.time.logFifo.length < 16
        ∧ Tab.find d.time.lastEdge 15 = none)
    ∧ (live.get F.htTsEn).testBit 15 = false
    ∧ ({ live.time with gpSettle := 0x8000 }).gpSettle.getLsbD 15 = true ∧ live.time.gpSettle.getLsbD 15 = false := by decide

/-- The loop in a state, with the standard of a code. -/
def ref (d : Dev) (std state : Nat) : Dev := (d.put F.refCtrlStd std).put F.refStatusState state
def anchor : Anchor := ⟨-1000000, 3145728000, false⟩
def withAnchor (d : Dev) : Dev := { d with ref := { d.ref with reanchor := some anchor } }

theorem witness_RunControlOfTime : (live.MaySet mg F.refCtrlRun ∧ live.TakesField mg F.refCtrlRun 1 ∧ live.on F.refCtrlRun = false)
    ∧ (let d := (ref live 13 2).put F.refCtrlRun 1
       d.MaySet mg F.refCtrlRun ∧ d.TakesField mg F.refCtrlRun 0 ∧ d.on F.refCtrlRun = true)
    ∧ (withAnchor live).ref.reanchor = some anchor ∧ { live.ref with waitSet := some 5 }.waitSet = some 5 ∧ live.ref.reanchor = none
    ∧ live.TakesField mg F.htCtrl 1 ∧ (live.put F.refCtrlTodSrc 3).get F.refCtrlTodSrc = 3 ∧ live.get F.refCtrlTodSrc = 0
    ∧ (ref live 13 1).get F.refStatusState = 1 ∧ live.get F.refStatusState = 0
    ∧ (2 ≤ (ref live 13 4).get F.refStatusState ∧ (ref live 13 4).std.b = 1 ∧ (ref live 13 4).TakesField mg F.htCtrl 1) := by
  unfold Dev.TakesField Dev.Takes Dev.MaySet; decide

/-- A reference at PPS_IN whose last edge was accepted at 5. -/
def pps : Dev := { (ref live 13 3).put F.refCtrlRun 1 with ref := { live.ref with searching := false, lastEdge := some 5, holdAt := some (-9) } }

theorem witness_ReferenceLossAndAlignment : (pps.time.counting = true ∧ pps.on F.refCtrlRun = true ∧ pps.ref.searching = false
      ∧ (ref pps 13 2).get F.refStatusState = 2 ∧ (ref pps 13 1).get F.refStatusState = 1 ∧ pps.ref.fromHold = false)
    ∧ (pps.get F.refStatusState = 3 ∧ pps.ref.holdAt = some (-9))
    ∧ (pps.get F.refCtrlStd = 13 ∧ pps.ref.unitAnom = false ∧ pps.ref.lastEdge = some 5)
    ∧ (let x : RefEdge := ⟨5 + 3145728000, true, false, false, 0, true, 0⟩
       4 * (((x.at' : Int) - 5 - (1 * secondTk : Nat)).natAbs) ≤ min (4 * pps.get F.refWin) secondTk ∧ x.absent = false ∧ x.bad = false)
    ∧ (⟨5, true, false, true, 0, true, 0⟩ : RefEdge).absent = true := by decide

theorem witness_TimeSteps : live.time.counting = true ∧ (withAnchor live).ref.reanchor = some anchor
    ∧ (live.put F.htLeapCtrlDir 1).get F.htLeapCtrlDir = 1 ∧ (live.put F.htLeapCtrlDir 2).get F.htLeapCtrlDir = 2 := by decide

/-- 23:59:59 and the last frame of 25. -/
def ltcWord : BitVec 80 := 0xBFFC0203050905090204
def sentence : Sentence := ⟨1000, 37, 0, 0⟩
def told : Dev := { live.put F.refCtrlTodSrc 1 with ref := { live.ref with
  ltcPrev := some (23, 59, 59, 23), ltcAt := some 15729416, ltcLast := some (23, 59, 59, 23), sentence := some sentence } }

theorem witness_LabelsTaken : told.time.counting = true
    ∧ ((ltcWord >>> 64).toNat = 0xBFFC ∧ told.ref.ltcPrev = some (23, 59, 59, 23) ∧ told.ref.ltcLast = some (23, 59, 59, 23)
      ∧ told.ref.ltcAt = some 15729416 ∧ (max told.now 0 : Nat) ≤ (15729416 : Nat) + 100 * blockTk ∧ live.ref.ltcAt = none
      ∧ ltcNext 25 (ltcWord.getLsbD 10) (23, 59, 59, 23) = (23, 59, 59, 24))
    ∧ (live.ref.ltcLast = none)
    ∧ (told.on F.refCtrlPpsPol = false ∧ told.ref.sentence = some sentence ∧ told.get F.refCtrlTodSrc = 1) := by decide

/-! ### Cue engine -/

/-- The conditions of an issue, where no operation is outstanding. -/
theorem issues_of {d : Dev} {th : Fin 16} {op : Nat} {w e : Word}
    (h : d.canIssue th = true ∧ d.found th = .ok (w, e) ∧ opcodeOf w = op ∧ (d.thread th).outst = none) : d.Issues th op w e :=
  ⟨h.1, h.2.1, h.2.2.1, fun o ho => by rw [h.2.2.2] at ho; cases ho⟩

/-- Thread 3 of `cue w e x` can issue `w`, with the extension word `e` where it has one. -/
def Meets (w : Nat) (e : Word := 0) (x : Thread → Thread := id) : Prop :=
  (cue w e.toNat x).Issues th3 (w / 2 ^ 26) (BitVec.ofNat 32 w) e

theorem witness_CueComputes : Meets (ins 0x04 2 1 0x20001) ∧ Meets (ins 0x05 2 1 0x3000) ∧ Meets (ins 0x06 2 1 0x13000)
    ∧ Meets (ins 0x07 2 1 0x3000) ∧ Meets (ins 0x08 2 1 0x20005) ∧ Meets (ins 0x09 2 1 0x3000) ∧ Meets (ins 0x0A 2 1 0x2001F)
    ∧ Meets (ins 0x0B 2 1 0x3001F) ∧ Meets (ins 0x0C 0 1 0x3000) ∧ Meets (ins 0x01 15 0 0xFFFF)
    ∧ Meets (ins 0x01 15 8 0) 0xABCD1234 := by
  refine ⟨?_, ?_, ?_, ?_, ?_, ?_, ?_, ?_, ?_, ?_, ?_⟩ <;> exact issues_of (by decide)

theorem witness_CueChangesFlow : Meets (ins 0x10 15 15 0x3FFFF) ∧ Meets (ins 0x11 11 0 5) ∧ Meets (ins 0x14 2 0 5)
    ∧ Meets (ins 0x12 0 0 9) ∧ Meets (ins 0x13 0 0 0) 0 (fun x => { x with stack := [4, 8] })
    ∧ Meets (ins 0x12 0 0 9) 0 (fun x => { x with stack := List.replicate 8 4 }) ∧ Meets (ins 0x13 0 0 0) := by
  refine ⟨?_, ?_, ?_, ?_, ?_, ?_, ?_⟩ <;> exact issues_of (by decide)

theorem witness_CueStopsAndTraps : Meets (ins 0x1F 0 0 0) ∧ Meets (ins 0x3D 0 0 0) ∧ Meets (ins 0x3E 0 0 0xFFFF)
    ∧ ((cue 0 0).canIssue th3 = true ∧ (cue 0 0).found th3 = .error (Trap.illegal, 0)) := by
  refine ⟨issues_of (by decide), issues_of (by decide), issues_of (by decide), by decide⟩

/-- An outstanding operation whose answer goes to g2. -/
def outst : Outst := ⟨2, ⟨.voff, 4, true, 0⟩, none⟩
def holding (x : Thread) : Thread := { x with outst := some outst }

theorem witness_CueFetchAndInterlock : (cue (ins 0x04 2 1 0x3000) 0).found th3 = .ok (BitVec.ofNat 32 (ins 0x04 2 1 0x3000), 0)
    ∧ (∀ p ∈ [(0x04, 0x3000), (0x05, 0x3000), (0x06, 0x3000), (0x07, 0x3000), (0x08, 0x3000), (0x09, 0x3000), (0x0A, 0x3000),
        (0x0B, 0x3000), (0x02, 0), (0x03, 0), (0x20, 0), (0x21, 0), (0x22, 0), (0x23, 0), (0x24, 0), (0x25, 0), (0x26, 0), (0x27, 0),
        (0x28, 0), (0x32, 0)],
        let w := if p.1 = 0x32 then ins 0x32 1 0 0 else ins p.1 2 1 p.2
        let d := cue w 0 holding
        d.canIssue th3 = true ∧ d.found th3 = .ok (BitVec.ofNat 32 w, 0) ∧ (d.thread th3).outst = some outst
          ∧ ((0x20 ≤ p.1 ∧ p.1 ≤ 0x28) ∨ outst.rd ∈ gRegs (BitVec.ofNat 32 w)))
    ∧ (∀ w ∈ [ins 0x0C 0 2 0x3000, ins 0x01 2 0 7], 
        let d := cue w 0 holding
        d.canIssue th3 = true ∧ d.found th3 = .ok (BitVec.ofNat 32 w, 0) ∧ outst.rd ∈ gRegs (BitVec.ofNat 32 w))
    ∧ live.canIssue th3 = false ∧ ((cue 0 0).canIssue th3 = true ∧ (cue 0 0).busy th3 = 0) := by decide

/-- Thread 3 waits for a reason. -/
def waiting (reason : Nat) (x : Thread → Thread := id) : Dev :=
  live.setThread 3 (x { Thread.zero with state := .waiting, wait := reason, target := 15729500 })

theorem witness_CueTimedWaitsAndEnds : Meets (ins 0x18 6 0 0) ∧ Meets (ins 0x18 0 0 0) ∧ Meets (ins 0x19 9 0 0x8000)
    ∧ ((waiting Wait.at').coreOn = true ∧ (waiting Wait.at').on F.dbgStatusHalted = false
      ∧ ((waiting Wait.at').thread 3).state = .waiting ∧ ((waiting Wait.at').thread 3).errTrap = none)
    ∧ (∀ r ∈ [Wait.after', Wait.yield, Wait.trig, Wait.sig, Wait.memory, Wait.interlock, Wait.outstanding],
        ((waiting r).thread 3).state = .waiting ∧ ((waiting r).thread 3).wait = r ∧ ((waiting r).thread 3).outst = none)
    ∧ ((waiting Wait.trig fun x => { x with latch := ⟨1, true, 5, 0⟩ }).thread 3).latch.full = true
    ∧ (let x := (waiting Wait.trig fun x => { x with winst := 0x80000 }).thread 3
       x.latch.full = false ∧ x.winst.getLsbD 19 = true)
    ∧ (let x := (waiting Wait.sig fun x => { x with winst := 0xFFFF, sigWord := 1 }).thread 3
       x.sigWord &&& x.winst.setWidth 16 ≠ 0)
    ∧ (let x := (waiting Wait.sig fun x => { x with winst := 0x200001 }).thread 3
       x.sigWord &&& x.winst.setWidth 16 = 0 ∧ x.winst.getLsbD 21 = true) := by
  refine ⟨issues_of (by decide), issues_of (by decide), issues_of (by decide), ?_⟩
  decide

theorem witness_CueTimeRegisters : Meets (ins 0x1B 0 8 1) ∧ Meets (ins 0x1A 1 0 0) ∧ Meets (ins 0x1A 0 0 (5 * 2 ^ 19)) ∧
    Meets (ins 0x1A 0 0 (10 * 2 ^ 19)) ∧ Meets (ins 0x1A 8 0 0) ∧ Meets (ins 0x1A 8 0 (7 * 2 ^ 17)) := by
  refine ⟨?_, ?_, ?_, ?_, ?_, ?_⟩ <;> exact issues_of (by decide)

theorem witness_CueTriggersAndSignals : Meets (ins 0x1C 0 0 0) 0x1FFFF ∧ Meets (ins 0x1C 0 2 0) 0 ∧ Meets (ins 0x1D 1 0 0xFFFF)
    ∧ (Meets (ins 0x1E 0 8 1) ∧ bitsOf (BitVec.ofNat 32 (ins 0x1E 0 8 1)) 17 4 ≤ 15)
    ∧ Meets (ins 0x1E 2 0 1) 0 (fun x => x.setG 2 16) := by
  refine ⟨issues_of (by decide), issues_of (by decide), issues_of (by decide), ⟨issues_of (by decide), by decide⟩,
    issues_of (by decide)⟩

/-- Thread 3 has an answer of the ledger to take. -/
def answered (st : Status) (state : ThState) (wait errtrap : Nat) : Dev :=
  (live.setThread 3 { Thread.zero with
    state := state, wait := wait, outst := some ⟨2, outst.req, some ⟨st, 5, false, false, 9⟩⟩ }).put (F.cueThCfgErrtrap 3) errtrap

theorem witness_CueSwarmRequests : (Meets (ins 0x20 2 1 0x80) ∧ Meets (ins 0x21 2 1 0x200) ∧ Meets (ins 0x22 2 1 0x3F) ∧
      Meets (ins 0x23 2 1 0x30) ∧ Meets (ins 0x24 2 1 0) ∧ Meets (ins 0x25 2 1 0) ∧ Meets (ins 0x26 2 1 0) ∧ Meets (ins 0x27 2 1 11)
      ∧ Meets (ins 0x28 2 1 0))
    ∧ (cue 0 0).feature Feat.swarm = true ∧ ({ cue 0 0 with hcp := .reset }).feature Feat.swarm = false
    ∧ (let d := answered .late .stopped 0 1
       d.coreOn = true ∧ Status.late.isError = false ∧ (d.thread 3).errTrap = none)
    ∧ (let d := answered .eledger .waiting 5 1
       (Status.eledger.isError && d.on (F.cueThCfgErrtrap 3)) = true ∧ (d.thread 3).state ≠ .ready ∧ (d.thread 3).wait < 6)
    ∧ (let d := answered .eledger .waiting 6 1
       d.on (F.cueThCfgErrtrap 3) = true ∧ (d.thread 3).state = .waiting ∧ 6 ≤ (d.thread 3).wait)
    ∧ ((answered .eledger .ready 0 1).thread 3).state = .ready := by
  refine ⟨⟨?_, ?_, ?_, ?_, ?_, ?_, ?_, ?_, ?_⟩, by decide⟩ <;> exact issues_of (by decide)

/-- g1 holds an address. -/
def pointing (a : Word) (x : Thread) : Thread := x.setG 1 a
/-- LD.W and ST.W of g2 at g1. -/
def ldw : Nat := ins 0x02 2 1 0x20000
def stw : Nat := ins 0x03 2 1 0x20000
def poisoned (d : Dev) (l : Nat) : Dev := d.setTag l ⟨1, 0, 0, 0, 0⟩

theorem witness_CueLoadsAndStores :
    (Meets ldw 0 (pointing 0x02000100) ∧ inWindow 0x02000100 4 = true ∧ spaceOf 0x02000100 ≠ .flash
      ∧ ((cue ldw 0 (pointing 0x02000100)).readMem Master.cue 0x02000100 4).1.any LineState.isErr = false)
    ∧ (let d := poisoned (cue ldw 0 (pointing 0x01000000)) 0x01000000
       d.canIssue 3 = true ∧ d.found 3 = .ok (BitVec.ofNat 32 ldw, 0) ∧ (d.readMem Master.cue 0x01000000 4).1.any LineState.isErr = true)
    ∧ (Meets ldw 0 (pointing 0x04000000) ∧ inWindow 0x04000000 4 = true ∧ spaceOf 0x04000000 = .flash
      ∧ (cue ldw 0 (pointing 0x04000000)).flashAdmits 0x04000000 = true ∧ (cue ldw 0 (pointing 0x04000000)).flashAdmits 0x04000003 = true
      ∧ ((cue ldw 0 (pointing 0x04000000)).noteIssue 3).flashWaits = false
      ∧ (let d := cue ldw 0 (pointing 0x04000000)
         { d with mem := { d.mem with flash := { d.mem.flash with page := some (0x100, [0]) } } }.flashWaits = true))
    ∧ (Meets ldw 0 (pointing 0) ∧ inWindow 0 4 = false)
    ∧ (let d : Dev := { cue ldw 0 (pointing 0x02000102) with hcp := { live.hcp with active := 0x3BFF } }
       d.canIssue 3 = true ∧ d.found 3 = .ok (BitVec.ofNat 32 ldw, 0) ∧ d.feature Feat.memRotate = false)
    ∧ (let d := cue stw 0 (pointing 0x02000200)
       let n := d.noteIssue 3
       Meets stw 0 (pointing 0x02000200) ∧ spaceOf 0x02000200 = .cue ∧ n.setters = []
        ∧ n.memRefusal ⟨.cue 3, 0x02000200, [0, 0, 0, 0], false⟩ = .ok ∧ n.mem.wiping.getLsbD (bankOf 0x02000200) = false
        ∧ n.on F.memInjArm = false ∧ (n.lineView (lineOf 0x02000200)).1.isErr = false)
    ∧ (Meets stw 0 (pointing 0) ∧ Meets stw 0 (pointing 0x04000000))
    ∧ (let d : Dev := { cue stw 0 (pointing 0x02000102) with hcp := { live.hcp with active := 0x3BFF } }
       d.canIssue 3 = true ∧ d.found 3 = .ok (BitVec.ofNat 32 stw, 0) ∧ d.feature Feat.memRotate = false)
    ∧ (let d := poisoned (cue stw 0 (pointing 0x01000000)) 0x01000000
       d.canIssue 3 = true ∧ d.found 3 = .ok (BitVec.ofNat 32 stw, 0)
        ∧ ((d.noteIssue 3).requests [⟨.cue 3, 0x01000000, [0, 0, 0, 0], false⟩] (some (.cue 3))).1 = [.epoison])
    ∧ (let d : Dev := cue stw 0 (pointing 0x01000000)
       ((d.noteIssue 3).requests [⟨.cue 3, 0x01000000, [0, 0, 0, 0], false⟩] (some (.cue 3))).1 = [.ok]
        ∧ ((d.noteIssue 3).requests [⟨.cue 3, 0x01000000, [0, 0, 0, 0], false⟩, ⟨.mgmt, 0x01000000, [1, 0, 0, 0], false⟩]
          (some (.cue 3))).1.headD .ok = .econflict) := by
  refine ⟨⟨issues_of (by decide), by decide⟩, by decide, ⟨issues_of (by decide), by decide⟩, ⟨issues_of (by decide), by decide⟩,
    by decide, ⟨issues_of (by decide), by decide⟩, ⟨issues_of (by decide), issues_of (by decide)⟩, by decide, by decide, by decide⟩

theorem witness_CueRequestsToOtherUnits : Meets (ins 0x30 15 15 0x30000)
    ∧ (((cue (ins 0x30 0 8 0x10000) 0).noteIssue 3).requests [regReq (.cue 3) 0x4814 0 false] (some (.cue 3))).1.headD .ok = .ok
    ∧ (Meets (ins 0x31 15 4 0) ∧ (cue (ins 0x31 15 4 0) 0).feature Feat.gpHost = true
      ∧ (((cue (ins 0x31 15 4 0) 0).put F.htGpOe 0x8000).get F.htGpOe).testBit 15 = true
      ∧ ((cue (ins 0x31 15 4 0) 0).get F.htGpOe).testBit 15 = false)
    ∧ ({ live with hcp := { live.hcp with active := 0x1FFF } }).feature Feat.gpHost = false
    ∧ (Meets (ins 0x32 2 0 7) ∧ live.shared < 16)
    ∧ 16 ≤ ({ live with hcp := { live.hcp with rsp := List.replicate 16 ⟨2, 0, 0, 0, 0, 0⟩ } }).shared := by
  refine ⟨issues_of (by decide), by decide, ⟨issues_of (by decide), by decide⟩, by decide, ⟨issues_of (by decide), by decide⟩,
    by decide⟩

/-- Thread 3 in a state. -/
def thread (st : ThState) (x : Thread → Thread := id) : Dev :=
  (live.put F.cueCtrl 1).setThread 3 (x { Thread.zero with state := st })

theorem witness_ThreadsFromOutside :
    (let d := thread .stopped
     d.TakesField mg (F.cueThCtrlStart 3) 1 ∧ ¬ ((d.thread 3).state = .ready ∨ (d.thread 3).state = .waiting) ∧ d.on F.cueCtrl = true
      ∧ (d.thread 3).outst = none ∧ d.TakesField ho (F.cueThCtrlStop 3) 1 ∧ d.TakesField ho (F.cueThCtrlResume 3) 1
      ∧ (d.thread 3).errTrap = none)
    ∧ ((thread .ready).TakesField ho (F.cueThCtrlStart 3) 1 ∧ ((thread .ready).thread 3).state = .ready)
    ∧ ((thread .stopped holding).TakesField mg (F.cueThCtrlStart 3) 1 ∧ ((thread .stopped holding).thread 3).outst ≠ none)
    ∧ (((thread .trapped fun x => { x with cause := Trap.soft }).thread 3).cause = Trap.soft)
    ∧ (let d := thread .trapped fun x => { x with cause := Trap.bounds }
       d.TakesField mg (F.cueThCtrlResume 3) 1 ∧ (d.thread 3).state = .trapped ∧ (d.thread 3).cause ≠ Trap.soft)
    ∧ live.TakesField ho (F.cueThSig 3) 0xFFFF
    ∧ (∀ k ∈ [0, 15, 16, 23, 24, 25], 
        let d := ((thread .halted).put F.cueRselThread 3).put F.cueRselReg k
        d.get F.cueRselThread = 3 ∧ d.get F.cueRselReg = k ∧ d.Takes mg F.cueRdata.addr 7 ∧ d.MaySet mg F.cueRdata
          ∧ (d.thread 3).state = .halted ∧ (d.thread 3).outst = none)
    ∧ ((thread .ready).TakesField mg F.cueCtrl 0 ∧ (thread .ready).MaySet mg F.cueCtrl ∧ (thread .ready).on F.cueCtrl = true) := by
  unfold Dev.TakesField Dev.Takes Dev.MaySet; decide

/-! ### Swarm, allocator, strike path, host -/

def swarmOn (d : Dev) : Dev := ((d.put F.swmCtrlRun 1).put F.swmStatusRunning 1).put F.alcCtrl 1
/-- Thread 3 asks the ledger for a VOFF. -/
def asking (d : Dev) (r : SwReq) : Dev := d.setThread 3 { Thread.zero with state := .ready, outst := some ⟨2, r, none⟩ }
def voff (v due : Nat) (imm : Bool) : SwReq := ⟨.voff, v, imm, due⟩
def entry (due charge : Nat) : QEntry := ⟨0, due, due, false, false, .voff, 3, 0, charge, false, false, 0, false, false⟩
def queued (l : List QEntry) : Dev := { swarmOn live with alc := { live.alc with queue := l } }

theorem witness_SwarmEdgesAndRunControl :
    ((⟨0, 8, .rws .sample, 0⟩ : Field) ∈ regFields 0x4004 ∧ live.clockRuns 0x4004 = true ∧ live.time.counting = true)
    ∧ (∃ f ∈ regFields F.alcStkMap0.addr, f.acc ≠ .rws .sample) ∧ State.reset.dev.time.counting = false
    ∧ (live.TakesField mg F.swmCtrlRun 1 ∧ live.MaySet mg F.swmCtrlRun ∧ live.get F.swmCtrlRun ≠ 1
      ∧ live.TakesField ho F.alcCtrl 1 ∧ live.MaySet ho F.alcCtrl ∧ live.get F.alcCtrl ≠ 1)
    ∧ ((swarmOn live).TakesField mg F.swmCtrlRun 0 ∧ (swarmOn live).MaySet mg F.swmCtrlRun ∧ (swarmOn live).get F.swmCtrlRun ≠ 0
      ∧ (swarmOn live).TakesField mg F.alcCtrl 0 ∧ (swarmOn live).MaySet mg F.alcCtrl ∧ (swarmOn live).get F.alcCtrl ≠ 0)
    ∧ (let d := (swarmOn live).put F.swmCtrlRun 0
       d.time.counting = true ∧ d.coreOn = true ∧ d.on F.swmCtrlRun = false ∧ d.on F.swmStatusRunning = true)
    ∧ live.TakesField mg F.swmSenCtrlInject 1 := by
  unfold Dev.TakesField Dev.Takes Dev.MaySet; decide

theorem witness_LedgerAnswers :
    (let d := asking live (voff 127 0 true)
     d.coreOn = true ∧ d.hcp.ledgerReq = none ∧ (d.thread 3).outst = some ⟨2, voff 127 0 true, none⟩
      ∧ (∀ m, m < 3 → (d.thread m).outst = none) ∧ d.on F.alcCtrl = false)
    ∧ (let d := asking (swarmOn live) (voff 127 0 true)
       d.on F.alcCtrl = true ∧ d.voiceCount = 128 ∧ d.strikeVoice 127 = false ∧ d.fits 242 0 0 1 = true)
    ∧ (let d := asking (queued [entry 15794177 1190]) (voff 0 0 true)
       d.fits 242 0 0 1 = false ∧ d.on F.alcCtrl = true)
    ∧ (let d : Dev := { live with hcp := { live.hcp with ledgerReq := some (voff 1 0 true) } }
       d.hcp.ledgerReq = some (voff 1 0 true) ∧ d.hcp.stream = []) := by decide

/-- All 1024 entries of the queue are taken. -/
def full : Dev := asking (queued (List.replicate 1024 (entry 15794177 0))) (voff 0 0 true)

theorem witness_LedgerAnswers_full : full.on F.alcCtrl = true ∧ full.fits 242 0 0 1 = true
    ∧ ¬ ((full.alc.queue.length - (full.alc.queue.filter fun q => q.imm).length) + (full.alc.queue.filter fun q => q.imm).length < 1024) := by
  decide +kernel

/-- Strike enabled, with sources 0 and 1 mapped to slots 0 and 7, and an entry of a source. -/
def striking (src ts : Nat) : Dev :=
  let d := ((swarmOn live).put F.alcStkCtrlEn 1).put F.alcStkMap0 0x0F8
  { d with time := { d.time with strikeFifo := [⟨ts, src, false, 16, true⟩] } }
def onset : Strike := ⟨0, 7, 15728641, 15790000, false, 16, true⟩
def windowed (l : List Strike) : Dev := { striking 0 0 with alc := { live.alc with strikes := l, window := 240 } }

theorem witness_StrikePath : (striking 0 15729416).coreOn = true
    ∧ (8 ≤ (striking 1 15729416).get F.alcStkMap0 / 16 ^ 1 % 16 ∧ (striking 1 15729416).now ≤ 15729416 + secondTk
      ∧ (striking 1 0).on F.alcStkCtrlEn = true ∧ (striking 1 0).feature Feat.strike = true)
    ∧ (striking 2 0).get F.alcStkMap0 / 16 ^ 2 % 16 < 8
    ∧ (let d : Dev := { striking 1 0 with time := { (striking 1 0).time with ht := 3145728001 } }
       0 + secondTk < d.now)
    ∧ (let d := windowed [onset]
       241 = d.time.smp.toNat + 1 ∧ d.on F.alcStkCtrlEn = true ∧ d.alc.window < 241
        ∧ (d.alc.strikes.filter fun x => decide ((x.onset + d.period - 1) / d.period ≤ 241)) = [onset]
        ∧ d.on F.swmCtrlRun = true ∧ (d.voice (d.voiceCount - 8 + 7)).bound = false ∧ (onset.onset + d.period - 1) / d.period = 241)
    ∧ live.on F.alcStkCtrlEn = false := by decide

def plain (opc : Nat) (args : List Byte) (imm : Bool := false) (due : Nat := 0) : HostCmd := ⟨opc, 5, imm, false, due, args, 15729417⟩
/-- The command stands alone at the front of the stream with tag 5. -/
def front (c : HostCmd) (d : Dev := live) : Dev := { d with hcp := { d.hcp with stream := [.cmd c], held := 0x20, exec := 0x20 } }

theorem fronts_of {d : Dev} {c : HostCmd} {opc : Nat} {tag : Fin 16}
    (h : d.hcp.stream = [.cmd c] ∧ c.opc = opc ∧ c.tag = tag.val ∧ c.post = false ∧ d.tagHeld tag = true ∧ d.hcp.ledgerReq = none
      ∧ d.coreOn = true) : d.Fronts c opc tag [] :=
  ⟨h.1, h.2.1, h.2.2.1, h.2.2.2.1, h.2.2.2.2.1, h.2.2.2.2.2.1, h.2.2.2.2.2.2, fun _ hi => by cases hi⟩

theorem witness_HostReads :
    (let d : Dev := { live with pwr := { live.pwr with qcsLow := false } }
     live.get F.pwrStatusState = 0 ∧ live.on F.pwrStatusEntering = false ∧ d.qrdy = true
      ∧ (isReg 0 = true ∧ isSram 0x0100001C = true ∧ d.mem.wiping.getLsbD (bankOf 0x0100001C) = false ∧ 0x0100001C % 32 + 4 * 1 ≤ 32)
      ∧ ((0x28 : Byte).toNat / 16 = 2 ∧ (0x28 : Byte).toNat / 4 % 4 ≠ 3 ∧ (0x28 : Byte).toNat % 4 = 0) ∧ (0x9F : Byte).toNat / 16 ≠ 2)
    ∧ (State.reset.dev.get F.pwrStatusState = 0 ∧ State.reset.dev.on F.pwrStatusEntering = false ∧ State.reset.dev.qrdy = false) := by
  decide

theorem witness_HostWrites :
    (let d : Dev := { live with pwr := { live.pwr with qcsLow := false } }
     d.qrdy = true ∧ d.hcp.stream = [] ∧ d.hcp.ledgerReq = none ∧ d.Takes ⟨.host, true⟩ F.htSetHi.addr 9
      ∧ d.MaySet ⟨.host, true⟩ F.htSetHi)
    ∧ ((0x38 : Byte).toNat / 16 = 3 ∧ (0x38 : Byte).toNat / 4 % 4 ≠ 3 ∧ (0x60 : Byte).toNat / 16 = 6 ∧ (0x78 : Byte).toNat / 16 = 7)
    ∧ (front (plain 0 [])).hcp.stream = [.cmd (plain 0 [])]
    ∧ (malformed [0, 5, 0] = true ∧ malformed [0, 15, 0, 0, 0, 0, 0, 0, 0, 0, 0, 0] = false
      ∧ malformed [0, 0x10, 0, 0, 0, 0, 0, 0, 0, 0, 0, 0] = false ∧ live.hcp.held.getLsbD 15 = false
      ∧ (front (plain 0 [])).hcp.held.getLsbD 5 = true)
    ∧ ({ live.hcp with rsp := [⟨1, 5, 0, 0, 0, 0⟩] } : HcpS).rsp.length = 1 := by
  unfold Dev.Takes Dev.MaySet; decide

theorem witness_NegotiatedSet : ((front (plain 1 [])).Fronts (plain 1 []) 0x01 5 [] ∧ (front (plain 1 [])).trigOpen = false)
    ∧ (∀ f, f < 64 → ¬ ((front (plain 1 [])).feature f = true ∧ (front (plain 1 [])).inUse f = true))
    ∧ (let d := front (plain 1 []) (swarmOn live)
       d.Fronts (plain 1 []) 0x01 5 [] ∧ d.feature Feat.swarm = true ∧ d.inUse Feat.swarm = true
        ∧ (d.reg F.sysFeatAcceptLo.addr).getLsbD Feat.swarm = false) := by
  refine ⟨⟨fronts_of (by decide), by decide⟩, by decide, fronts_of (by decide), by decide⟩

/-- The arguments of a command. -/
def args (l : List Nat) : List Byte := l.map (BitVec.ofNat 8)
def withoutSwarm (d : Dev) : Dev := { d with hcp := { d.hcp with active := 0x3FFE } }
/-- Each command of Table 6.5 with arguments in form. -/
def hostCmds : List HostCmd := [plain 0x00 [], plain 0x04 [], plain 0x03 (args [0, 0, 0, 0]), plain 0x02 (args [0x34, 8, 0, 0, 1, 2, 3, 4]),
  plain 0x10 (args [3, 0, 0, 0, 0, 0, 0, 0]) true, plain 0x11 (args [127, 0, 0, 0]) true, plain 0x12 (args [0, 127, 0, 0, 1, 0, 0, 0]) true,
  plain 0x13 (args [0, 0, 3, 0, 1, 0, 0, 0, 1, 0, 0, 0, 0, 0, 0, 0]) true, plain 0x14 (args [0, 0, 0, 0]) false 99999999,
  plain 0x15 (args [0, 0, 0, 0]) true, plain 0x16 (args [0, 0, 0, 0]) true, plain 0x17 (args [0, 11, 0, 0, 1, 0, 0, 0]) true,
  plain 0x18 (args [0, 0, 0, 0, 0, 0, 0, 0, 0, 0, 0, 0]) true, plain 0x20 (args [15, 0, 0, 0]), plain 0x21 (args [15, 0, 0, 0]),
  plain 0x22 (args [15, 0, 0, 0]), plain 0x23 (args [15, 0, 1, 0]), plain 0x30 []]

theorem hostCmds_front : ∀ c ∈ hostCmds, (front c).Fronts c c.opc 5 [] := by
  have h : ∀ c ∈ hostCmds, (front c).hcp.stream = [.cmd c] ∧ c.opc = c.opc ∧ c.tag = (5 : Fin 16).val ∧ c.post = false
      ∧ (front c).tagHeld 5 = true ∧ (front c).hcp.ledgerReq = none ∧ (front c).coreOn = true := by decide
  exact fun c hc => fronts_of (h c hc)

theorem witness_HostCommands : (∀ c ∈ hostCmds, c.timeOk = true ∧ c.argsOk = true)
    ∧ (live.trigOpen = false ∧ live.on F.hcpStatusNegotiated = true
      ∧ ({ live with time := { live.time with strikeFifo := [⟨5, 16, false, 3, false⟩] } }).trigOpen = true)
    ∧ (isReg 0 = true ∧ live.Takes ho F.htSetHi.addr 0x04030201 ∧ live.MaySet ho F.htSetHi)
    ∧ (live.feature Feat.swarm = true ∧ (withoutSwarm live).feature Feat.swarm = false)
    ∧ (live.feature Feat.cue = true ∧ live.feature Feat.strike = true
      ∧ ¬ ((live.thread 15).state = .ready ∨ (live.thread 15).state = .waiting) ∧ (live.put F.cueCtrl 1).on F.cueCtrl = true
      ∧ live.on F.cueCtrl = false ∧ (live.thread 15).outst = none ∧ (live.thread 15).errTrap = none ∧ (live.thread 15).state ≠ .trapped)
    ∧ (Tab.find live.time.lastEdge 16 = none ∧ (live.put F.htTsRouteHost 0).on F.htTsRouteHost = false ∧ live.time.logFifo.length < 16
      ∧ live.on F.htTsRouteHost = true ∧ live.time.strikeFifo.length < 16) := by
  unfold Dev.Takes Dev.MaySet; decide

theorem witness_HostFlushAndPosted : (live.TakesField ho F.hcpCtrl 1 ∧ ho.path = .host ∧ live.coreOn = true ∧ live.hcp.stream = []
      ∧ (front (plain 0 [])).TakesField ho F.hcpCtrl 1 ∧ (front (plain 0 [])).TakesField mg F.hcpCtrl 1 ∧ mg.path = .mgmt)
    ∧ (front (plain 0 [])).Fronts { plain 0 [] with post := false } 0x00 5 []
    ∧ ({ plain 0 [] with post := true }.post = true ∧ (plain 0 [] false 7).due ≠ 0 ∧ live.shared < 16) := by
  refine ⟨by unfold Dev.TakesField Dev.Takes; decide, fronts_of (by decide), by decide⟩

/-! ### Memory and flash -/

def data32 : List Byte := (List.range 32).map (BitVec.ofNat 8)
/-- A written line of wave memory, one with a corrected error, and one with an uncorrectable one. -/
def line0 : Nat := 0x01000000
def stored (t : LineTag) : Dev := (live.setBytes line0 data32).setTag line0 t
def clean : Dev := stored ⟨3, 0, 0, 0, 0⟩
def oneBit : Dev := stored ⟨3, 0x10, 0, 0, 0⟩
def twoBits : Dev := stored ⟨3, 0, 0, 0, 0x3⟩

theorem witness_MemoryWrites : (spaceOf line0 = .wave ∧ spaceOf 0x02000000 = .cue)
    ∧ (let d := clean
       d.reaches .mgmt line0 = true ∧ d.memRefusal ⟨.mgmt, line0, data32, false⟩ = .ok ∧ d.setters = []
        ∧ d.mem.wiping.getLsbD (bankOf line0) = false ∧ d.on F.memInjArm = false ∧ (d.lineView line0).1.isErr = false)
    ∧ (twoBits.lineView line0).1.isErr = true ∧ twoBits.memRefusal ⟨.host, line0 + 31, [9], false⟩ = .ok := by decide

/-- A line waits for its scheduled write. -/
def waitingCe : Dev := { oneBit with mem := { oneBit.mem with ceQueue := [line0] } }
def waitingUe : Dev := { twoBits with mem := { twoBits.mem with ueQueue := [line0] } }

theorem witness_MemoryUpkeep : waitingCe.coreOn = true
    ∧ (waitingCe.mem.ceQueue.find? (fun a => bankOf a == 0) = some line0 ∧ (waitingCe.lineView line0).1 = .corrected 0 4)
    ∧ waitingUe.mem.ueQueue.find? (fun a => bankOf a == 0) = some line0
    ∧ (isSram line0 = true ∧ clean.mem.wiping = 0 ∧ (clean.lineView line0).1 = .clean)
    ∧ (let d := oneBit.put F.memCtrlScrubEn 1
       d.on F.memCtrlScrubEn = true ∧ d.mem.wiping = 0 ∧ d.scrubNext d.mem.scrub = some line0
        ∧ d.mem.scrubbed < d.get F.memCfg ∧ d.mem.pass = 0 ∧ (let m := { d.mem with scrubbed := 65536, pass := 1 }
          0 < m.pass ∧ d.get F.memCfg ≤ m.scrubbed) ∧ (d.lineView line0).1 = .corrected 0 4)
    ∧ (let d : Dev := { live with mem := { live.mem with wiping := 0x1FFF } }
       d.coreOn = true ∧ d.mem.wiping ≠ 0) := by decide

def region (d : Dev) (r : Region) : Dev := { d with mem := { d.mem with region := some r } }

/-- One line of wave memory is selected. -/
def selected : Dev := (live.put F.memChkAddr 0x0103FFE0).put F.memChkLen 1

theorem witness_RegionEngine : (selected.Takes mg F.memChkCtrlStart.addr (insBits (selected.fieldWord F.memChkCtrlOp 0) 0 1 1)
      ∧ selected.Takes mg F.memChkCtrlStart.addr (insBits (selected.fieldWord F.memChkCtrlOp 1) 0 1 1) ∧ selected.MaySet mg F.memChkCtrlOp)
    ∧ (let d := region clean ⟨true, line0, 2, false⟩
       d.coreOn = true ∧ d.mem.wiping = 0 ∧ d.on F.memInjArm = false ∧ d.mem.region = some ⟨true, line0, 2, false⟩)
    ∧ clean.tag line0 = ⟨3, 0, 0, 0, 0⟩ ∧ ((stored ⟨1, 0, 0, 0, 0⟩).lineView line0).1 = .poison
    ∧ (live.Takes mg F.memInjArm.addr 1
      ∧ ∀ f ∈ [F.memInjDouble, F.memInjState, F.memInjBit, F.memInjWord, F.memInjBank], live.MaySet mg f) := by
  unfold Dev.Takes Dev.MaySet; decide

def flash (f : FlashS) : Dev := { live with mem := { live.mem with flash := f } }

theorem witness_FlashOperations :
    (live.coreOn = true ∧ live.mem.flash.erasing = none ∧ live.mem.flash.page = none ∧ live.slot (live.get F.memFlJrnlActive) 255 = .empty
      ∧ live.get F.memFlJrnlNext < 255 ∧ live.slot (live.get F.memFlJrnlActive) (live.get F.memFlJrnlNext) = .empty
      ∧ live.get F.memFlSeq + 1 < 2 ^ 32)
    ∧ (let f := (flash ⟨some 1021, 0x3FE000, false, none⟩).mem.flash
       f.erasing = some 1021 ∧ f.suspended = false ∧ 4096 * (1021 + 1) ≤ f.journal + 8)
    ∧ (flash ⟨some 0, 0x3FE000, true, none⟩).mem.flash.suspended = true
    ∧ (flash ⟨none, 0, false, some (0x3FFF00, [0])⟩).mem.flash.page = some (0x3FFF00, [0]) := by decide

/-! ### Outputs and timers -/

def outs (d : Dev) (f : OutS → OutS) : Dev := { d with outp := f d.outp }
def started : Dev := outs live fun o => { o with ports := [(0, { Port.zero with run := true, count := 256 })], startClamp := true }
def clampedDown (n : Nat) (r : Bool) : Dev := outs live fun o => { o with faultClamp := true, okBlocks := n, restart := r }
def hot : Dev := live.put F.dacStatusOt 1
def vdac (h : Nat) : Dev := { live.put F.dacCfgHeadroom h with pwr := { live.pwr with vdacHi := true } }

theorem witness_OutputClamps : live.coreOff = false ∧ ((started.port 0).run = true ∧ 256 ≤ (started.port 0).count)
    ∧ (live.port 0).run = false
    ∧ (live.on F.dacStatusOt = false ∧ 16 * (live.get F.dacOtLim : Int) ≤ (BitVec.ofNat 16 (16 * live.get F.dacOtLim)).toInt)
    ∧ (hot.on F.dacStatusOt = true
      ∧ (BitVec.ofNat 16 (16 * (live.get F.dacOtLim - 20) - 1)).toInt < 16 * ((hot.get F.dacOtLim : Int) - 20))
    ∧ ((clampedDown 1001 true).outp.faultClamp = true ∧ 1000 < (clampedDown 1001 true).outp.okBlocks
      ∧ (clampedDown 1001 true).outp.restart = true ∧ (live.put F.dacCfgOtAuto 1).on F.dacCfgOtAuto = true)
    ∧ (clampedDown 1000 true).outp.okBlocks ≤ 1000
    ∧ ((vdac 1).pwr.vdacHi = true ∧ (vdac 1).on F.dacCfgHeadroom = true ∧ (vdac 0).pwr.vdacHi = true ∧ (vdac 0).on F.dacCfgHeadroom = false)
    ∧ live.Takes mg F.dacCtrl.addr 1 ∧ hot.Takes mg F.dacCtrl.addr 1 := by
  unfold Dev.Takes; decide

theorem witness_SignaturesAndTimecodeFrames : live.reaches .host (F.outSigBlk 6).addr = true
    ∧ live.TakesField mg F.outSigCtrlInject 127 ∧ (live.time.counting = true ∧ live.coreOff = false ∧ live.apOn F.outLtcCfgEn = false)
    ∧ ({ live with applied := (live.put F.outLtcCfgEn 1).regs }).apOn F.outLtcCfgEn = true := by
  unfold Dev.TakesField Dev.Takes; decide

/-- Channel 7 is chained to channel 6, with 64-bit compares. -/
def pair (d : Dev) : Dev := (d.put (F.tcuChCfgSrc 7) 5).put (F.tcuChCfgCmp64 6) 1
def chan (d : Dev) (n : Nat) (c : Channel) : Dev := d.setChan n c
def going : Dev := chan ((live.put (F.tcuChTop 0) 9).put (F.tcuChCnt 0) 8) 0 ⟨0, 0, false, false, true, false⟩

theorem witness_TimerRunControl :
    (live.TakesField mg (F.tcuChCtrlArm 7) 1 ∧ live.TakesField mg F.tcuGctrlArm 0xFF ∧ live.TakesField ho (F.tcuChCtrlStop 0) 1
      ∧ live.TakesField ho F.tcuGctrlStop 0xFF ∧ live.chained 7 = false ∧ live.chanBusy 7 = false)
    ∧ ((pair live).chained 7 = true ∧ (going.chanBusy 0 = true ∧ going.on (F.tcuChCfgRetrig 0) = false))
    ∧ ((live.put (F.tcuChCfgHtstart 0) 1).startAt 0 ≤ live.now ∧ live.frozen 0 = false)
    ∧ (live.TakesField mg (F.tcuChCtrlSnap 6) 1 ∧ (live.put (F.tcuChCfgWide 6) 1).on (F.tcuChCfgWide 6) = true
      ∧ live.on (F.tcuChCfgWide 6) = false ∧ (pair live).paired 6 = true)
    ∧ (live.TakesField ho (F.tcuChCtrlForceHi 0) 1 ∧ live.TakesField ho (F.tcuChCtrlForceLo 0) 1 ∧ live.TakesField ho (F.tcuChCtrlForceTgl 7) 1)
    := by
  unfold Dev.TakesField Dev.Takes; decide

theorem witness_TimerCounts : ((going.chan 0).run = true ∧ going.frozen 0 = false ∧ going.cmp64 0 = false ∧ (pair going).paired 6 = true)
    ∧ (going.get (F.tcuChCfgSrc 0) = 0 ∧ going.power ≠ 3 ∧ going.time.counting = true ∧ (going.put (F.tcuChCfgSrc 0) 3).get (F.tcuChCfgSrc 0) = 3)
    ∧ (let d := (going.put F.pwrStatusState 3).put (F.tcuChCfgSlow 0) 1
       d.power = 3 ∧ (d.chan 0).run = true ∧ d.frozen 0 = false)
    ∧ (going.put F.pwrStatusState 3).frozen 0 = true
    ∧ ((live.chan 7).run = false ∧ (going.put (F.tcuChCfgSrc 0) 4).get (F.tcuChCfgSrc 0) = 4)
    ∧ (let d := chan live 7 ⟨0, 0, false, false, false, true⟩
       d.time.counting = true ∧ (d.chan 7).armed = true ∧ d.frozen 7 = false ∧ d.chained 7 = false ∧ d.cmp64 7 = false)
    ∧ (live.chan 0).armed = false := by decide

theorem witness_TimerCaptures : live.get (F.tcuChIcfgFlen 0) < 1 ∧ 15 ≤ (live.put (F.tcuChIcfgFlen 0) 15).get (F.tcuChIcfgFlen 0)
    ∧ (live.on (F.tcuChCfgPinout 0) = false ∧ live.frozen 0 = false ∧ (live.chan 0).pinIn ≠ true
      ∧ live.get (F.tcuChIcfgEdge 0) = 0 ∧ live.get (F.tcuChIcfgNth 0) ≤ (live.chan 0).edges)
    ∧ ((live.chan 7).edges < (live.put (F.tcuChIcfgNth 7) 255).get (F.tcuChIcfgNth 7) ∧ live.get (F.tcuChCfgSrc 7) ≠ 4)
    ∧ (live.chan 0).pinIn = false
    ∧ ((live.put (F.tcuChCfgCapclr 0) 1).on (F.tcuChCfgCapclr 0) = true ∧ (live.put (F.tcuChCfgCapstart 0) 1).on (F.tcuChCfgCapstart 0) = true
      ∧ live.chained 0 = false ∧ live.chanBusy 0 = false ∧ live.on (F.tcuChCfgHtstart 0) = false) := by decide

theorem witness_TimerNumbers : (∀ f ∈ [F.tcuChCnt 0, F.tcuChTop 7, F.tcuChCmpa 0, F.tcuChCmpb 7, F.tcuChStartHi 0],
      live.Takes mg f.addr 0xFFFFFFFF ∧ live.MaySet mg f)
    ∧ ((pair live).cmp64 6 = true ∧ (pair live).Takes mg (F.tcuChCmpa 6).addr 1 ∧ (pair live).MaySet mg (F.tcuChCmpa 6))
    ∧ ((going.chan (going.lowOf 0)).run = true ∧ going.frozen 0 = false ∧ going.cmp64 0 = false ∧ going.chained 0 = false ∧ 8 ≤ going.get (F.tcuChCnt 0))
    ∧ (let d := (chan (pair live) 6 ⟨0, 0, false, false, true, false⟩).setHeld (F.tcuChCmpb 6).addr (some 0)
       d.chained 7 = true ∧ d.cmp64 6 = true ∧ d.heldWord (F.tcuChCmpb 6).addr = some 0 ∧ (d.chan 6).run = true ∧ d.frozen 7 = false
        ∧ 0 + 2 ^ 32 * 0 ≤ d.get64 (F.tcuChCnt 6) (F.tcuChCnt 7))
    ∧ (let d := chan live 0 ⟨0, 0, false, false, false, true⟩
       (d.chan 0).armed = true ∧ d.frozen 0 = false ∧ d.chained 0 = false ∧ d.startAt 0 ≤ d.now)
    ∧ (let d := (chan live 0 ⟨0, 0, false, false, false, true⟩).put (F.tcuChStartHi 0) 9
       (d.chan 0).armed = true ∧ d.frozen 0 = false ∧ d.chained 0 = false ∧ d.now < d.startAt 0 ∧ 0 + 2 ^ 32 * 0 ≤ d.now
        ∧ d.now < 0 + 2 ^ 32 * 5 ∧ d.Takes mg (F.tcuChStartHi 0).addr 5 ∧ d.Takes mg (F.tcuChStartHi 0).addr 0 ∧ d.MaySet mg (F.tcuChStartHi 0))
    ∧ (live.chan 0).armed = false
    ∧ (live.reaches .mgmt (F.tcuChCnt 7).addr = true ∧ (live.put (F.tcuChCfgWide 6) 1).on (F.tcuChCfgWide 6) = true
      ∧ live.on (F.tcuChCfgWide 7) = false ∧ (pair live).paired 6 = true) := by
  unfold Dev.Takes Dev.MaySet; decide

/-! ### Two-wire interfaces -/

def tw (d : Dev) (f : TwtS → TwtS) : Dev := { d with twt := f d.twt }
def addressed (page ptr : Nat) (d : Dev := live) : Dev := tw d fun t => { t with addressed := true, page := page, ptr := ptr }
/-- The CORE domain is off and the target wakes it. -/
def asleep : Dev := dozing.put F.twtCfgWake 1

theorem witness_TargetOnItsBus : (live.twtOwn = 0x58 ∧ live.sys.phase ≠ .awaitXi ∧ live.coreOn = true)
    ∧ (asleep.coreOn = false ∧ asleep.on F.twtCfgWake = true ∧ asleep.deep = true)
    ∧ (0x59 ≠ live.twtOwn ∧ State.reset.dev.sys.phase = .awaitXi)
    ∧ ((tw asleep fun t => { t with stretch := true }).twt.stretch = true) ∧ live.twt.stretch = false
    ∧ (addressed 0 0).twt.addressed = true ∧ live.twt.addressed = false
    ∧ (let d := ((live.put F.twtCfgIbaEn 1).put F.hcpAttnEn 0x1FF).put F.hcpAttnCauseEvents 1
       d.on F.twtCfgIbaEn = true ∧ d.attnLow = true ∧ d.twt.addressed = false ∧ d.twt.iba.onBus = 0 ∧ d.twt.iba.sent = none
        ∧ d.twt.iba.stopAt * 1000 + d.get F.twtIbaIdle * blockTk ≤ d.now * 1000)
    ∧ ((tw live fun t => { t with iba := { t.iba with sent := some 0 } }).twt.iba.sent = some 0 ∧ (live.put F.twtIbaRepeat 5).get F.twtIbaRepeat ≠ 0
      ∧ 0 + (live.put F.twtIbaRepeat 5).get F.twtIbaRepeat * blockTk ≤ live.now)
    ∧ (live.on F.twtCfgIbaEn = false ∧ (tw live fun t => { t with iba := { t.iba with onBus := 737 } }).twt.iba.onBus ≠ 0) := by decide

theorem witness_WindowTransfers :
    (let d := addressed 0x10 0
     d.twt.addressed = true ∧ d.twt.stretch = false ∧ (∀ i, i < 4 → inPage 0x10 (pageBase 0x10 + 0x30 + i) = true)
      ∧ (∀ i, i < 4 → d.served (pageBase 0x10 + 0x30 + i) = true) ∧ isReg (pageBase 0x10 + 0x30) = true
      ∧ (∃ t st, exec (.registerWrite [⟨.mgmt, pageBase 0x10 + 0x30, [1, 2, 3, 4], false⟩])
          ⟨[], tw d fun t => { t with ptr := 0x34 }⟩ = .next t ∧ t.dev.out.status = [st]))
    ∧ (let d := addressed 0x4000 0
       isReg (pageBase 0x4000) = false ∧ pageBase 0x4000 % 32 + 32 ≤ 32 ∧ inPage 0x4000 (pageBase 0x4000 + 31) = true
        ∧ d.served (pageBase 0x4000) = true)
    ∧ (isReg (pageBase 0x10 + 0xEC) = true ∧ (pageBase 0x10 + 0xEC) % 4 + 3 ≤ 4 ∧ live.served (pageBase 0x10 + 0xEC) = true)
    ∧ (let d := addressed 0x60 0 dozing
       d.twt.stretch = false ∧ inPage 0x60 (pageBase 0x60 + 0xEF) = true ∧ d.served (pageBase 0x60 + 0xEF) = false ∧ d.sys.phase ≠ .awaitXi)
    ∧ (let d := addressed 0 0xEC
       0xEC + 4 ≤ 0xF0 ∧ pageBase 0 + 0xEC < 0x8000 ∧ inPage 0 (pageBase 0 + 0xEC) = true ∧ d.served (pageBase 0 + 0xEC) = true)
    ∧ (let d := addressed 0x8000 0 { live with mem := { live.mem with flash := { live.mem.flash with page := some (0, [0]) } } }
       d.twt.addressed = true ∧ d.twt.stretch = false ∧ spaceOf (pageBase 0x8000 + 0) = .flash ∧ inPage 0x8000 (pageBase 0x8000) = true
        ∧ d.served (pageBase 0x8000) = true ∧ d.mem.flash.page.isSome = true)
    ∧ (addressed 0 0xFC).twt.ptr = 0xFC ∧ (addressed 0 0xF7).twt.ptr = 0xF7 :=
  ⟨⟨by decide, by decide, by decide, by decide, by decide, ⟨_, _, rfl, rfl⟩⟩, by decide, by decide, by decide, by decide, by decide, by decide, by decide⟩

def busyWith (code arg : Nat) (st : Option Status) (d : Dev := live) : Dev := tw d fun t => { t with cmd := some (code, arg, st) }
def withArg (a : Byte) (d : Dev := live) : Dev := tw d fun t => { t with arg := a }
def requested : Dev := { withArg 0x82 with sys := { live.sys with lc := 1, lcPend := some 2, lcSince := 15729417 } }

theorem witness_ManagementCommands : live.sys.phase ≠ .awaitXi ∧ (busyWith 0 0 none).twt.cmd.isSome = true ∧ live.twt.cmd = none
    ∧ live.coreOn = true ∧ dozing.coreOn = false
    ∧ (live.TakesField mg F.outMuteMute 1 ∧ live.TakesField mg F.outMuteMute 0)
    ∧ ((withArg 1).twt.arg.toNat = 1 ∧ (withArg 2).twt.arg.toNat = 2 ∧ (withArg 3).twt.arg.toNat = 3)
    ∧ ((withArg 3).twt.arg.toNat < 128 ∧ (withArg 3).sys.lc.toNat < 3 % 4 ∧ 0 % 4 ≤ live.sys.lc.toNat)
    ∧ (128 ≤ requested.twt.arg.toNat ∧ requested.sys.lcPend = some (BitVec.ofNat 2 0x82)
      ∧ requested.now ≤ requested.sys.lcSince + 1000 * blockTk)
    ∧ (busyWith 0x10 3 (some .earg)).twt.cmd = some (0x10, 3, some .earg) ∧ live.sys.lcGo = none ∧ requested.sys.lcGo = none := by
  unfold Dev.TakesField Dev.Takes; decide

def tc (x : Word) (f : TwcS → TwcS := id) (d : Dev := live) : Dev :=
  { (d.put F.twcCfgEn 1).put F.twcStatusBusy 1 with twc := f { live.twc with xfer := x, dma := 0x01000040 } }
/-- TWC_XFER of three bytes out, three bytes in, and a line in by DMA. -/
def xout : Word := 0x00030500
def xin : Word := 0x00030580
def xdma : Word := 0x00200780

theorem witness_ControllerTransfers : (live.put F.twcCfgEn 1).TakesField mg F.twcXferGo 1
    ∧ ((tc xout).on F.twcStatusBusy = true ∧ (tc xout).twc.lost = false ∧ (tc xout).coreOn = true)
    ∧ (xout.getLsbD 7 = false ∧ xout.getLsbD 9 = false ∧ xferLen xout = 3
      ∧ (let t := (tc xout fun t => { t with moved := 1, sent := [9], again := [1], tx := [2, 3] }).twc
         3 ≤ t.moved + (t.again.length + t.tx.length) ∧ t.moved ≤ 2 ∧ 2 < t.moved + (t.again.length + t.tx.length) ∧ 0 < t.moved)
      ∧ (tc xout).twc.moved + ((tc xout).twc.again.length + (tc xout).twc.tx.length) < 3)
    ∧ (xin.getLsbD 7 = true ∧ xin.getLsbD 9 = false ∧ 3 + (tc xin fun t => { t with rx := List.replicate 13 0 }).twc.rx.length ≤ 16)
    ∧ (xdma.getLsbD 7 = true ∧ xdma.getLsbD 9 = true ∧ xferLen xdma = 32 ∧ (tc xdma).twc.dma % 32 = 0 ∧ spaceOf 0x01000040 = .wave
      ∧ (tc xdma).mem.wiping.getLsbD (bankOf 0x01000040) = false ∧ (tc xdma).on F.memInjArm = false
      ∧ (tc xdma).twc.moved = 0 ∧ (tc xdma).twc.buf = [])
    ∧ live.on F.twcStatusBusy = false ∧ (live.put F.twcStatusHeld 1).on F.twcStatusHeld = true ∧ live.on F.twcStatusHeld = false
    ∧ ((tc xout).on F.twcCfgEn = true ∧ (live.put F.twcCfgEn 1).on F.twcStatusBusy = false ∧ (tc xout).twc.tx = [] ∧ (tc xout).twc.again = []
      ∧ 16 ≤ (tc xin fun t => { t with rx := List.replicate 16 0 }).twc.rx.length)
    ∧ ((tc xout id (live.put F.twcCfgRetry 7)).twc.retries < (tc xout id (live.put F.twcCfgRetry 7)).get F.twcCfgRetry
      ∧ (tc xout).get F.twcCfgRetry ≤ (tc xout fun t => { t with retries := 7 }).twc.retries)
    ∧ (tc xout fun t => { t with lost := true }).twc.lost = true ∧ (live.put F.twcCfgEn 1).Takes mg F.twcDataByte.addr 0xFF
    ∧ (live.reaches .host F.twcDataByte.addr = true ∧ (tc xin fun t => { t with rx := [9] }).twc.rx = [9] ∧ live.twc.rx = []) := by
  unfold Dev.TakesField Dev.Takes; decide

/-! ### Serial ports -/

def ua (d : Dev) (f : Ua0S → Ua0S) : Dev := { d with ua0 := f d.ua0 }
def rxOn : Dev := live.put F.ua0CtrlEn 1
/-- The samples of a character: start bit, `n` bits of `v`, a parity bit or none, stop bit; no noise. -/
def chr (v n : Nat) (par : List Bool := []) (stop : Bool := true) : List (BitVec 3) :=
  ([false] ++ (List.range n).map v.testBit ++ par ++ [stop]).map fun b => if b then 7 else 0

def rxe : RxEntry := ⟨0x41, 0⟩

theorem witness_Uart0Characters :
    (rxOn.on F.ua0CtrlEn = true ∧ rxOn.coreOn = true ∧ rxOn.ua0.slowOn = false ∧ rxOn.ua0Bits = 8 ∧ rxOn.ua0HasPar = false
      ∧ (chr 0x41 8).length = 10 ∧ ((chr 0x41 8).map (decideBit (rxOn.on F.ua0CfgDec))).headD true = false
      ∧ rxOn.on F.ua0CfgNine = false ∧ rxOn.on F.ua0CfgTodEn = false)
    ∧ ((List.replicate 10 (7 : BitVec 3)).map (decideBit false)).headD true = true
    ∧ (let d := rxOn.put F.ua0CfgNine 1
       d.ua0Bits = 9 ∧ d.ua0HasPar = false ∧ (chr 0x1FF 9).length = 11 ∧ 256 ≤ natOfBits (((chr 0x100 9).map (decideBit false)).drop 1 |>.take 9)
        ∧ natOfBits (((chr 0xFF 9).map (decideBit false)).drop 1 |>.take 9) < 256 ∧ d.ua0.selected = false)
    ∧ live.on F.ua0CtrlEn = false
    ∧ (live.reaches .mgmt F.ua0DataData.addr = true ∧ (ua rxOn fun u => { u with rx := [rxe] }).ua0.rx = [rxe] ∧ rxOn.ua0.rx = [])
    ∧ (rxOn.Takes mg F.ua0DataData.addr 0x1FF ∧ (ua rxOn fun u => { u with tx := [5] }).ua0.tx = [5] ∧ rxOn.on F.ua0CfgFlow = false
      ∧ (rxOn.put F.ua0CfgFlow 1).on F.ua0CfgFlow = true ∧ rxOn.ua0.tx = [])
    ∧ (rxOn.TakesField mg F.ua0CtrlRxFlush 1 ∧ rxOn.TakesField mg F.ua0CtrlTxFlush 1 ∧ rxOn.TakesField mg F.ua0CtrlEn 0
      ∧ rxOn.MaySet mg F.ua0CtrlEn)
    ∧ (ua live fun u => { u with slowOn := true }).ua0.slowOn = true := by
  unfold Dev.TakesField Dev.Takes Dev.MaySet; decide

/-- Receive DMA into a ring of three lines. -/
def ring (line : List Byte) (lineAt written rptr : Nat) : Dev :=
  ua ((((rxOn.put F.ua0DmaCfgEn 1).put F.ua0DmaBase line0).put F.ua0DmaLen 96).put F.ua0DmaRptr rptr) fun u =>
    { u with line := line, lineAt := lineAt, written := written, rx := [rxe] }
def slow (f : Ua0S → Ua0S) : Dev :=
  ua (((live.put F.pwrStatusSxiOk 1).put F.ua0AddrAddr 0x55).put F.ua0AddrMask 0xFF) fun u => f { u with slowOn := true }

theorem witness_Uart0DmaAndSlow :
    (let d := ring (List.replicate 31 7) 64 5 70
     d.ua0.rx = [rxe] ∧ d.on F.ua0DmaCfgEn = true ∧ d.coreOn = true ∧ d.on F.ua0CtrlEn = true ∧ d.ringOk = true ∧ d.ua0.lineAt % 32 = 0
      ∧ d.ua0.lineAt + 32 ≤ d.get F.ua0DmaLen ∧ d.mem.wiping.getLsbD (bankOf (line0 + 64)) = false ∧ d.on F.memInjArm = false
      ∧ 1 ≤ (70 % 96 + 2 * 96 - 1 - (64 + 31) % 96) % 96 ∧ (d.ua0.written < d.ua0.line.length ∧ d.ua0.line.length < 32)
      ∧ (d.lineView (line0 + 64)).1.isErr = false)
    ∧ (let d := ring (List.replicate 5 7) 0 1 6
       0 < 96 ∧ (d.get F.ua0DmaRptr % 96 + 2 * 96 - 1 - 5) % 96 < 1)
    ∧ (((poisoned (ring [1, 2] 0 1 0) line0).lineView line0).1 = .poison ∧ (ring [] 0 0 0).ua0.line.length ≤ 0 ∧ live.on F.ua0DmaCfgEn = false)
    ∧ ((ring [] 0 0 0).TakesField mg F.ua0DmaCfgEn 0 ∧ (ring [] 0 0 0).MaySet mg F.ua0DmaCfgEn)
    ∧ (let d := slow id
       d.ua0.slowOn = true ∧ d.on F.pwrStatusSxiOk = true ∧ d.ua0.slowSel = false ∧ d.addrMatch (0x155 % 256) = true ∧ d.addrMatch 0x54 = false
        ∧ (chr 0x155 9).length = 11 ∧ ((chr 0x155 9).map (decideBit true)).getLastD false = true)
    ∧ (let d := slow fun u => { u with slowSel := true, slowBuf := [rxe, rxe, rxe] }
       d.ua0.slowSel = true ∧ d.ua0.slowBuf.length < 4 ∧ d.coreOn = true ∧ d.ua0.rx.length + d.ua0.slowBuf.length ≤ 32)
    ∧ (slow id).ua0.slowSel = false := by
  unfold Dev.TakesField Dev.Takes Dev.MaySet; decide

def card (state : Nat) (f : Ua1S → Ua1S := id) : Dev :=
  { (live.put F.ua1CtrlEn 1).put F.ua1StatusState state with ua1 := f { live.ua1 with clk := true } }

theorem witness_CardActivation :
    (∀ det : Bool, ({ card 0 with ua1 := { (card 0).ua1 with det := det } }).TakesField mg F.ua1CtrlAct 1)
    ∧ (true ≠ (card 0).on F.ua1CfgDetPol ∧ false = (card 0).on F.ua1CfgDetPol)
    ∧ ((card 1).get F.ua1StatusState = 1 ∧ (card 1).coreOn = true ∧ (card 1).ua1.clk = true)
    ∧ ((card 2).get F.ua1StatusState = 2 ∧ (card 2).ua1.atr = [] ∧ (card 2 fun u => { u with atr := [0x3B] }).ua1.atr ≠ [])
    ∧ ((card 4).get F.ua1StatusState ≠ 0 ∧ (card 4).get F.ua1StatusState ≠ 5 ∧ (card 0).get F.ua1StatusState = 0 ∧ (card 5).get F.ua1StatusState = 5)
    ∧ ((card 5 fun u => { u with deact := some (8928, 372) }).ua1.deact = some (8928, 372)
      ∧ (card 5 fun u => { u with deact := some (1, 372) }).ua1.deact = some (1, 372) ∧ (card 5).on F.ua1StatusUpd = false)
    ∧ ((card 1).TakesField mg F.ua1CtrlDeact 1 ∧ (card 4).TakesField mg F.ua1CtrlEn 0 ∧ (card 4).MaySet mg F.ua1CtrlEn
      ∧ (card 4).on F.ua1CtrlEn = true) := by
  unfold Dev.TakesField Dev.Takes Dev.MaySet; decide

/-- An exchange with INS 0xA4 and four bytes out. -/
def exch (f : Ua1S → Ua1S := id) : Dev :=
  ((card 4 fun u => f { u with sent := 5 }).put F.ua1HdrIns 0xA4).put F.ua1XcfgP3 4
def procs (v : Nat) : List (BitVec 3) := chr v 8 [] ((List.range 8).foldl (fun b i => xor b (v.testBit i)) false)

theorem witness_CardExchange : (card 3).TakesField mg F.ua1CtrlGo 1
    ∧ ((exch).get F.ua1StatusState = 4 ∧ (exch).coreOn = true ∧ ((card 4).ua1.sent < 5) ∧ (exch).ua1.sent = 5)
    ∧ ((exch).ua1.rep < ((exch).put F.ua1CfgRetry 4).get F.ua1CfgRetry ∧ (exch).get F.ua1CfgRetry ≤ (exch fun u => { u with rep := 7 }).ua1.rep)
    ∧ (let d := exch fun u => { u with all := true, tx := [9] }
       d.on F.ua1XcfgDir = false ∧ d.on F.ua1XcfgDma = false ∧ d.ua1.all = true ∧ d.ua1.tx = [9])
    ∧ ((exch).ua1.all = false ∧ (exch).ua1.one = false ∧ (exch).on F.ua1CfgDec = false ∧ (exch).ua1.sw1 = none)
    ∧ (∀ v ∈ [0x60, 0xA4, 0x5B, 0x90, 0x12], (procs v).length = 10 ∧ ((procs v).map (decideBit false)).headD true = false
        ∧ oddBits (((procs v).map (decideBit false)).drop 1) = false
        ∧ natOfBits ((((procs v).map (decideBit false)).drop 1).take 8) = v)
    ∧ oddBits (((chr 0x60 8 [] true).map (decideBit false)).drop 1) = true
    ∧ ((exch).get F.ua1HdrIns = 0xA4 ∧ (exch fun u => { u with pos := 3 }).ua1.pos < (exch).cardLen
      ∧ ¬ (exch fun u => { u with pos := 4 }).ua1.pos < (exch).cardLen)
    ∧ (let d := (exch fun u => { u with one := true }).put F.ua1XcfgDir 1
       d.on F.ua1XcfgDir = true ∧ d.ua1.one = true ∧ d.on F.ua1XcfgDma = false ∧ d.ua1.wait = [] ∧ d.ua1.rx.length < 16
        ∧ 16 ≤ ({ d.ua1 with rx := List.replicate 16 0 } : Ua1S).rx.length)
    ∧ (exch fun u => { u with sw1 := some 0x90 }).ua1.sw1 = some 0x90
    ∧ ((card 2).get F.ua1StatusState = 2 ∧ (card 2).ua1.atr = []
      ∧ ((procs 0x3B).map (decideBit false)).drop 1 = [true, true, false, true, true, true, false, false, true])
    ∧ ((card 3).Takes mg F.ua1DataByte.addr 0xFF ∧ live.reaches .host F.ua1DataByte.addr = true
      ∧ (card 3 fun u => { u with rx := [9] }).ua1.rx = [9] ∧ (card 3).ua1.rx = []) := by
  unfold Dev.TakesField Dev.Takes; decide

/-! ### Power, resets, start-up, life cycle

From here on one proof after the other, so that the kernel evaluations do not wait side by side. -/

set_option Elab.async false


def pstate (n ent wak : Nat) (target : Nat := 0) (d : Dev := live) : Dev :=
  { ((d.put F.pwrStatusState n).put F.pwrStatusEntering ent).put F.pwrStatusWaking wak with pwr := { d.pwr with target := target } }
def due : Dev := queued [entry 400000000 0]

/-- Every condition of NAP holds. -/
def quiet : Dev :=
  let d := (((live.put F.pwrCtrlLimit 3).put F.pwrCtrlQuiet 1).put F.pwrHost 1).put F.pwrStatusSxiOk 1
  { d with pwr := { d.pwr with qcsLow := false } }

theorem witness_PowerStates : (∀ t ∈ [1, 2, 3], (pstate 0 1 0 t quiet).pwr.target = t ∧ (pstate 0 1 0 t quiet).on F.pwrStatusEntering = true
      ∧ t ≤ (pstate 0 1 0 t quiet).pwrCeil ∧ (pstate 0 1 0 t quiet).eventFits (wakeUs t) (pstate 0 1 0 t quiet).guardFor = true)
    ∧ ((pstate 0 1 0 3).pwrCeil < 3 ∧ (pstate 0 1 0 3).on F.pwrStatusWaking = false)
    ∧ (let d := pstate 0 1 0 1 (queued [entry 15829500 0])
       1 ≤ d.pwrCeil ∧ d.eventFits (wakeUs 1) d.guardFor = false ∧ d.on F.pwrStatusWaking = false)
    ∧ live.on F.pwrStatusEntering = false
    ∧ ((pstate 3 0 0 0 due).pwrNext = some (1, 399966208) ∧ (pstate 3 0 0 0 due).power ≠ 0 ∧ (pstate 3 0 0 0 due).on F.pwrStatusWaking = false)
    ∧ (due.power = 0 ∧ (pstate 2 0 1).on F.pwrStatusWaking = true ∧ (pstate 2 0 0).pwrNext = none)
    ∧ ((pstate 2 0 0).deep = true ∧ (pstate 1 0 0).power ≠ 0 ∧ (pstate 0 1 0 1).on F.pwrStatusEntering = true)
    ∧ ((pstate 3 0 1).power ≠ 0 ∧ (pstate 3 0 1).pwr.vcore = true ∧ (pstate 1 0 1).power < 2
      ∧ ((pstate 3 0 1).put F.memRetMask 0).offBanks.getLsbD 0 = true ∧ (pstate 3 0 1).mem.wiping = 0)
    ∧ ((live.put F.pwrFloorAtHi 1).TakesField mg F.pwrFloorArm 1
      ∧ live.now < (live.put F.pwrFloorAtHi 1).get F.pwrFloorAtLo + 2 ^ 32 * (live.put F.pwrFloorAtHi 1).get F.pwrFloorAtHi)
    ∧ (live.TakesField mg F.pwrFloorArm 1 ∧ live.get F.pwrFloorAtLo + 2 ^ 32 * live.get F.pwrFloorAtHi ≤ live.now)
    ∧ live.TakesField ho F.pwrFloorClr 1 ∧ ((live.put F.pwrFloorPend 1).on F.pwrFloorPend = true ∧ live.on F.pwrFloorPend = false) := by
  unfold Dev.TakesField Dev.Takes; decide

theorem witness_Resets : live.mem.flash.page = none
    ∧ (live.Takes mg F.sysRstReq.addr 1 ∧ live.Takes mg F.sysRstReq.addr 2 ∧ live.Takes mg F.sysRstReq.addr 3 ∧ live.Takes mg F.sysRstReq.addr 0)
    ∧ (live.power ≠ 3 ∧ (pstate 3 0 0).power = 3) ∧ (live.coreOn = true ∧ live.halted = false ∧ dozing.coreOn = false)
    ∧ live.pwr.vana = true ∧ (card 1).get F.ua1StatusState ≠ 0 := by
  unfold Dev.Takes; decide

def phase (p : Phase) (d : Dev := live) : Dev := { d with sys := { d.sys with phase := p } }
/-- The shipped part at step 7, its slot A the running slot; and one with the flash given. -/
def booting : Dev := phase .awaitStart
def flashed (l : List Host.Cell) (d : Dev) : Dev := { d with mem := { d.mem with bytes := l } }
/-- Bytes listed from address `a` on. -/
def cells (a : Nat) : List Byte → List Host.Cell
  | [] => []
  | b :: t => (a, b) :: cells (a + 1) t
def asks (d : Dev) : Dev := { d with upd := { d.upd with copy := some 1 } }
/-- A package key wrapped under the class key 0 (RFC 3394, AES-256). -/
def wkey : List Nat :=
  [0x0B, 0x08, 0x88, 0xA8, 0xBD, 0x2F, 0x1E, 0x98, 0xEB, 0x5E, 0x39, 0xCF, 0x70, 0xB1, 0x6B, 0xD2, 0xC1, 0xBD, 0x43, 0xFD,
   0x9E, 0xDE, 0x77, 0x19, 0xEF, 0x2B, 0xCD, 0xA1, 0x4B, 0x1E, 0x4D, 0xC6, 0x52, 0x15, 0x7A, 0x55, 0xBF, 0x21, 0xB0, 0x88]
/-- Block 0 of a package of class `c` and PKG_ID 0x55, its part entries, block 1 of CRC `e`, of
`len` times 256 bytes. -/
def package (c n : Nat) (parts : List Byte) (e : Nat := 0) (len : Nat := 0x30) : List Byte :=
  args ([0x46, 0x4C, 0x42, 0x4E, 1, 0, n, c, 0, len, 0, 0, 0x55, 0, 0, 0, 0x28, 1, 0, 255, 0, 0, 0, 0]
    ++ wkey) ++ parts
    ++ List.replicate (196 - parts.length) 0 ++ bytesOf e 4 ++ List.replicate 1016 0
/-- A part entry: its kind, its version and its length, at offset 0x1000. -/
def part (k v n : Nat) : List Byte := args ([k, 0, v, 0, 0, 0x10, 0, 0, n, 0, 0, 0] ++ List.replicate 36 0)
def library : List Byte := package 1 1 (part 4 9 24)

/-- Running the CRC with its register evaluated at every byte, so that the kernel can do it. -/
def crcRun (c : Word) : List Byte → Word
  | [] => c
  | b :: t => if c.toNat < 2 ^ 32 then crcRun (crcByte c b) t else 0
theorem crcRun_eq (c : Word) (l : List Byte) : crcRun c l = crcBytes c l := by
  induction l generalizing c with
  | nil => rfl
  | cons b t ih => simp only [crcRun, crcBytes, List.foldl_cons, c.isLt, if_true, ih]
theorem headerOkAt_run (d : Dev) (b : Nat) : d.headerOkAt b = ((d.flashBytes (slotBase b) 0x80).take 4 == magicSlot
    && decide (d.fl (slotBase b + 0x80) 4 = (crcRun 0xFFFFFFFF#32 (d.flashBytes (slotBase b) 0x80) ^^^ 0xFFFFFFFF#32).toNat)) := by
  rw [Dev.headerOkAt, crc32c, crcRun_eq]

/-- A trial armed: slot B holds package 0x55 as a valid copy, and ARM1 is set. -/
def copyB : List Byte := args ([0x53, 0x4C, 0x4F, 0x54, 2, 0, 0, 0, 0x55] ++ List.replicate 119 0 ++ [0xD7, 0x0D, 0x4A, 0xF9])
def trying : Dev := flashed (shippedFlash ++ cells 0x04100000 copyB ++ cells 0x04100100 [0, 0, 0, 0]
  ++ cells 0x04200000 (library.take 0x80) ++ cells 0x04200818 [0, 0, 0, 0]) booting
theorem booting_header : booting.headerOkAt 0 = true := by rw [headerOkAt_run]; decide +kernel
theorem armed_headerA : trying.headerOkAt 0 = true := by rw [headerOkAt_run]; decide +kernel
theorem armed_headerB : trying.headerOkAt 1 = true := by rw [headerOkAt_run]; decide +kernel
theorem booting_runSlot : booting.runSlot = some 0 := by
  simp only [Dev.runSlot, Dev.slotValid, booting_header]; decide +kernel
theorem armed_runSlot : trying.runSlot = some 0 := by
  simp only [Dev.runSlot, Dev.slotValid, armed_headerA, armed_headerB]; decide +kernel

theorem trying_idle : trying.idleSlot = 1 := by rw [Dev.idleSlot, armed_runSlot]

theorem witness_StartUpSteps : (State.reset.dev.sys.phase = .awaitXi ∧ State.reset.dev.pwr.vana = true ∧ State.reset.dev.pwr.porHeld = false
      ∧ live.sys.phase ≠ .awaitXi ∧ ({ live.pwr with porHeld := true }).porHeld = true ∧ State.reset.dev.mem.wiping ≠ 0)
    ∧ ((phase .awaitPll).sys.phase = .awaitPll ∧ live.pwr.vcore = true) ∧ ((phase .awaitJournal).coreOn = true ∧ live.halted = false ∧ (phase .awaitJournal).mem.wiping = 0)
    ∧ (booting.sys.phase = .awaitStart ∧ booting.upd.copy = none ∧ booting.on F.updStatusLibCommit = false)
    ∧ (asks booting).upd.copy = some 1
    ∧ ((booting.put F.updStatusLibCommit 1).on F.updStatusLibCommit = true)
    ∧ ((phase .awaitSettings).stateWiped = false ∧ ({ phase .awaitSettings with sys := { live.sys with wiped := 1 } }).stateWiped = true
      ∧ (phase .awaitSettings).upd.trial = false)
    ∧ ((live.put F.sysStatusReady 0).isReady = false ∧ live.isReady = true) := by decide

theorem witness_StartUpSteps_slots : booting.runSlot = some 0 ∧ (flashed [] booting).runSlot = none := ⟨booting_runSlot, by decide⟩
theorem witness_StartUpSteps_held : booting.pkgHeld = false ∧ (flashed [] booting).pkgHeld = false := by decide +kernel
theorem trying_idleHolds : trying.idleHolds = true := by rw [Dev.idleHolds, trying_idle, armed_headerB]; decide +kernel
theorem trying_tried (i : Nat) (h : i = 1 ∨ i = 2) : trying.tried i = false := by
  simp only [Dev.tried, List.any_cons, List.any_nil, armed_headerA, armed_headerB]; rcases h with rfl | rfl <;> decide +kernel
theorem trying_pkgRejected : trying.pkgRejected = false := by
  rw [Dev.pkgRejected, Dev.inRejectList, trying_idleHolds, trying_idle, armed_runSlot]; decide +kernel
theorem trying_armed : trying.armed = some 1 := by
  rw [Dev.armed, trying_pkgRejected, trying_tried 1 (by simp), trying_tried 2 (by simp)]; decide +kernel
theorem witness_UpdateEndsAndTrials_library : (trying.pkgPart 4).isSome = true ∧ trying.idleHolds = true :=
  ⟨by decide +kernel, trying_idleHolds⟩
theorem trying_slotPkg : trying.slotPkg 0 ≠ trying.pkgId := by decide +kernel
theorem trying_slotValid : trying.slotValid trying.idleSlot = true := by
  rw [Dev.slotValid, trying_idle, armed_headerB]; decide +kernel
theorem witness_StartUpSteps_trial : trying.runSlot = some 0 ∧ trying.armed = some 1 ∧ trying.slotPkg 0 ≠ trying.pkgId
    ∧ trying.tried 2 = false ∧ trying.slotValid trying.idleSlot = true ∧ trying.idleHolds = true :=
  ⟨armed_runSlot, trying_armed, trying_slotPkg, trying_tried 2 (by simp), trying_slotValid, trying_idleHolds⟩
theorem witness_StartUpSteps_settings :
    (phase .awaitSettings).newest ((phase .awaitSettings).slotRec (phase .awaitSettings).bootSlot) = none := by decide +kernel

/-- The flash holds staged package bytes from block 0 on, and what is listed beside them. -/
def held (l : List Byte) (d : Dev := booting) (rest : List Host.Cell := []) : Dev :=
  flashed (cells (flashBase + stagingBase) l ++ rest) d
theorem find_cells (a : Nat) (l : List Byte) (rest : List Host.Cell) (i : Nat) (h : i < l.length) :
    Tab.find (cells a l ++ rest) (a + i) = l[i]? := by
  induction l generalizing a i with
  | nil => simp at h
  | cons b t ih =>
    cases i with
    | zero => simp [cells, Tab.find]
    | succ i => simpa [cells, Tab.find, Nat.add_assoc, Nat.add_comm 1 i] using ih (a + 1) i (by simpa using h)
theorem held_bytes (l : List Byte) (d : Dev) (hd : d.mem.flash.page = none) (rest : List Host.Cell) (k n : Nat) (h : k + n ≤ l.length) :
    (held l d rest).flashBytes (stagingBase + k) n = (l.drop k).take n := by
  have hp : (held l d rest).pageDone = held l d rest := by simp [Dev.pageDone, held, flashed, hd]
  apply List.ext_getElem?
  intro i
  by_cases hi : i < n
  · have hk : k + i < l.length := by omega
    rw [Dev.flashBytes, hp]
    simp [Dev.bytesAt, Dev.byte, Tab.get, held, flashed, hi, ← Nat.add_assoc]
    rw [Nat.add_assoc, find_cells _ _ _ _ hk]
    simp [hk]
  · simp [Dev.flashBytes, Dev.bytesAt, hi]
theorem held_pkgHead (l : List Byte) (d : Dev) (hd : d.mem.flash.page = none) (rest : List Host.Cell) (h : l.length = 0x500) : (held l d rest).pkgHead = l := by
  have := held_bytes l d hd rest 0 0x500 (by omega)
  simpa [Dev.pkgHead, ← h] using this
theorem held_entry (l : List Byte) (d : Dev) (hd : d.mem.flash.page = none) (rest : List Host.Cell) (h : l.length = 0x500) (i : Nat) (hi : i < 256) :
    (held l d rest).checkEntry i = hU l (0x100 + 4 * i) 4 := by
  rw [Dev.checkEntry, Dev.fl, Nat.add_assoc, held_bytes l d hd rest _ _ (by omega), hU]
/-- A package of no blocks, its check table empty. -/
theorem held_badBlock (l : List Byte) (d : Dev) (hd : d.mem.flash.page = none) (rest : List Host.Cell) (h : l.length = 0x500) (hn : pkgLen l / 4096 = 0)
    (h0 : ∀ i < 256, hU l (0x100 + 4 * i) 4 = 0) : (held l d rest).badBlock = none := by
  rw [Dev.badBlock, held_pkgHead _ _ hd _ h, List.find?_eq_none]
  intro i hi
  have := List.mem_range.mp hi
  simp [held_entry _ _ hd _ h i this, hn, h0 i this]

theorem witness_StartUpSteps_library : booting.pkgPart 4 = none ∧ ((held library).pkgPart 4).isSome = true := by
  decide +kernel
/-- The unwrap succeeds where the device class key is 0: no state says what it is. -/
theorem unwraps (h : Config.deviceClassKey = 0) (d : Dev) (hk : d.sys.keysOff = false) (c n : Nat) (parts : List Byte) (e len : Nat) :
    (d.unwrap (package c n parts e len)).isSome = true := by
  have hw : (List.range 5).map (fun i => beOf (((package c n parts e len).drop (0x18 + 8 * i)).take 8))
      = [0x0B0888A8BD2F1E98, 0xEB5E39CF70B16BD2, 0xC1BD43FD9EDE7719, 0xEF2BCDA14B1E4DC6, 0x52157A55BF21B088] := rfl
  simp only [Dev.unwrap, hw, Dev.classKey, h, hk]
  decide +kernel
/-- Three parts whose check table has no entry, in a package of no blocks. -/
def three (c len : Nat) : List Byte := package c 3 (part 1 4 1 ++ part 2 5 1 ++ part 3 6 1) 0 len
/-- It awaits its copy. -/
def awaiting : Dev := held (three 1 0) (asks booting)
theorem three_badBlock : awaiting.badBlock = none :=
  held_badBlock _ _ rfl _ (by decide +kernel) (by decide +kernel) (by decide +kernel)
theorem three_compat : awaiting.compat = none := by decide +kernel
theorem witness_StartUpSteps_imageCopy (h : Config.deviceClassKey = 0) :
    awaiting.copyReason = 0 ∧ awaiting.upd.copy = some 1
      ∧ (∃ key, awaiting.unwrap awaiting.pkgHead = some key)
      ∧ ({ awaiting with sys := { booting.sys with lc := 3 } }).copyReason ≠ 0 := by
  have hl : (three 1 0).length = 0x500 := by decide +kernel
  have hp : awaiting.pkgHead = three 1 0 := held_pkgHead _ _ rfl _ hl
  have hu := unwraps h awaiting rfl 1 3 (part 1 4 1 ++ part 2 5 1 ++ part 3 6 1) 0 0
  have hc : awaiting.classOkay (hU (three 1 0) 7 1) = true := by decide +kernel
  refine ⟨?_, rfl, ?_, by decide +kernel⟩
  · rw [Dev.copyReason, hp, hc, three_compat, three_badBlock]
    have hn := Option.isSome_iff_ne_none.mp hu
    simpa [three] using hn
  · rw [hp]
    exact Option.isSome_iff_exists.mp hu
theorem witness_StartUpSteps_unwrap (h : Config.deviceClassKey = 0) :
    ((held library).unwrap (held library).pkgHead).isSome = true := by
  rw [held_pkgHead library booting rfl [] (by decide +kernel)]
  exact unwraps h _ rfl 1 1 _ 0 0x30

def lc (f : SysS → SysS) : Dev := { live with sys := f { live.sys with lc := 1 } }

theorem witness_LifeCycleSteps :
    ((lc id).Takes mg F.sysLcReqTarget.addr (BitVec.ofNat 32 3) ∧ (lc id).sys.lc.toNat < 3 ∧ (lc id).Takes mg F.sysLcReqTarget.addr (BitVec.ofNat 32 1)
      ∧ (lc id).Takes mg F.sysLcReqTarget.addr (BitVec.ofNat 32 0x82))
    ∧ (let y := (lc fun y => { y with lcPend := some 2, lcSince := 15729417 }).sys
       y.lcPend = some 2 ∧ live.now ≤ y.lcSince + 1000 * blockTk ∧ y.lcGo = none)
    ∧ (lc id).sys.lcPend = none
    ∧ (let d := lc fun y => { y with lcPend := some 2, lcGo := some 2, lcSince := 15729417 }
       d.sys.lcGo = some 2 ∧ d.mem.flash.page = none ∧ d.portsSilent = true ∧ d.Takes mg F.sysLcReqTarget.addr (BitVec.ofNat 32 0x82))
    ∧ ((lc id).sys.lcGo = none ∧ (lc fun y => { y with lcPend := some 2 }).sys.lcPend.isSome = true ∧ (lc fun y => { y with lcPend := some 2 }).sys.lcGo = none)
    ∧ (let d := outs (lc fun y => { y with lcGo := some 2, lcSince := 15729417 }) fun o => { o with ports := [(0, { Port.zero with run := true, m := 5 })] }
       d.portsSilent = false ∧ d.now < d.sys.lcSince + 64 * d.period) := by
  unfold Dev.Takes; decide

/-! ### Field update -/

/-- A step that is open, and one whose body has ended. -/
def step' (code : Nat) (d : Dev := live) (o : Option (Status × Nat × Nat × Nat) := none) : Dev :=
  { d with upd := { d.upd with step := some code, outcome := o } }
def marks (l : List Nat) : List Host.Cell := l.flatMap fun m => cells (flashBase + m) [0, 0, 0, 0]
/-- Parts of kinds 1 to 3 in a package of no blocks, with markers; and in SCRAP. -/
def staged (code : Nat) (l : List Nat) : Dev := held (three 1 0) (step' code) (marks l)
def scrapped (d : Dev) : Dev := { d with sys := { d.sys with lc := 3 } }
/-- A library part of version 9, alone. -/
def lone (len : Nat := 0) (e : Nat := 0) : List Byte := package 1 1 (part 4 9 24) e len
/-- In FIELD, beside a library in force of version 10. -/
def older (code : Nat) : Dev :=
  held (lone) { step' code with sys := { live.sys with lc := 2 } } (marks [mkSig] ++ cells 0x04320000 [0x57, 0x4C, 0x49, 0x42, 10, 0])

theorem witness_UpdateSteps_short :
    (∀ code ∈ [0x60, 0x40, 0x30, 0x20, 0x01, 0x10, 0x50], (step' code).upd.step = some code ∧ (step' code).upd.outcome = none
      ∧ (step' code).coreOn = true ∧ (step' code).halted = false)
    ∧ (staged 0x30 [mkArm1]).marked mkArm1 = true
    ∧ live.upd.step ≠ some 0x60 ∧ (step' 0x20 live (some (.ok, 0, 0, 0))).upd.outcome.isSome = true := by decide +kernel
theorem witness_UpdateSteps_armPending : (staged 0x30 [mkArm1]).armPending = true ∧ (staged 0x30 []).armPending = false
    ∧ (scrapped (staged 0x30 [])).armPending = false ∧ (older 0x30).armPending = false := by decide +kernel
theorem witness_UpdateSteps_class : (staged 0x30 []).classOkay (hU (staged 0x30 []).pkgHead 7 1) = true
    ∧ (scrapped (staged 0x30 [])).classOkay (hU (scrapped (staged 0x30 [])).pkgHead 7 1) = false
    ∧ (older 0x30).classOkay (hU (older 0x30).pkgHead 7 1) = true := by decide +kernel
theorem witness_UpdateSteps_compat : (staged 0x30 []).compat = none ∧ (held (lone) (step' 0x30)).compat = some 11
    ∧ (older 0x30).compat = some 12 := by decide +kernel

theorem table_empty : ∀ l ∈ [three 1 0, lone], l.length = 0x500 ∧ pkgLen l / 4096 = 0 ∧ ∀ i < 256, hU l (0x100 + 4 * i) 4 = 0 := by
  decide +kernel
theorem noBadBlock (l : List Byte) (h : l ∈ [three 1 0, lone]) (d : Dev) (hd : d.mem.flash.page = none) (rest : List Host.Cell) :
    (held l d rest).badBlock = none :=
  held_badBlock l d hd rest (table_empty l h).1 (table_empty l h).2.1 (table_empty l h).2.2

theorem witness_UpdateSteps_verify :
    (staged 0x20 [mkSig]).marked mkSig = true ∧ (older 0x20).marked mkSig = true
      ∧ (held (lone) (step' 0x20) (marks [mkSig])).marked mkSig = true
      ∧ (held (lone 0 5) (step' 0x20) (marks [mkSig])).marked mkSig = true := by decide +kernel
theorem witness_UpdateSteps_badBlock : (held (lone 0 5) (step' 0x20) (marks [mkSig])).badBlock = some 1
    ∧ (staged 0x20 [mkSig]).badBlock = none ∧ (older 0x20).badBlock = none
    ∧ (held (lone) (step' 0x20) (marks [mkSig])).badBlock = none :=
  ⟨by decide +kernel, noBadBlock _ (by simp) _ rfl _, noBadBlock _ (by simp) _ rfl _, noBadBlock _ (by simp) _ rfl _⟩
theorem witness_UpdateSteps_verify_compat : (staged 0x20 [mkSig]).compat = none ∧ (older 0x20).compat = some 12
    ∧ (held (lone) (step' 0x20) (marks [mkSig])).compat = some 11 := by decide +kernel
/-- A package of no blocks with its signature (R426), under the public key of RFC 8032's first test vector; and without one. -/
def signed (l : List Byte) (sig : Nat) : Dev :=
  held l (step' 0x20) (marks [mkSig] ++ cells (flashBase + stagingBase - 64) (beBytes sig 64))
def testKey : List Byte := beBytes 0xd75a980182b10ab7d54bfed3c964073a0ee172f3daa62325af021a68f707511a 32
theorem signatureOk_eq (h : Config.publicKey false = testKey) (l : List Byte) (hl : l ∈ [three 1 0, lone]) (sig : Nat)
    (hs : (signed l sig).flashBytes (stagingBase - 64) 64 = beBytes sig 64) :
    (signed l sig).signatureOk = ed25519Verify testKey l (beBytes sig 64) := by
  have hc : ∀ l ∈ [three 1 0, lone], hU l 7 1 = 1 ∧ pkgLen l = 0 := by decide +kernel
  rw [Dev.signatureOk, signed, held_pkgHead _ _ rfl _ (table_empty l hl).1, ← signed, (hc l hl).1, (hc l hl).2]
  simp only [Nat.add_zero, Nat.zero_sub, hs, show decide ((1 : Nat) = 2) = false from rfl, h,
    show ∀ d : Dev, ∀ x, d.flashBytes x 0 = [] from fun _ _ => rfl, List.append_nil]
theorem witness_UpdateSteps_signature (h : Config.publicKey false = testKey) :
    (signed (three 1 0) 0x36a9abe6ddbaeff2db0106269f8cf2f6907e071177c981524738dbdfd12d63d57da67c32de7f02d4a46854243cdf486ce2c3d022100bed11ed17896a5eb3ca05).signatureOk = true
    ∧ (signed lone 0x01133a67bf81d7adf8266539afdc5dff140818cbc3fe43776ed186b2f19747711e9568cf099794b963ca6f505fe7e58e6cc462864cdf1b3fc22abfcbb8835005).signatureOk = true
    ∧ (signed (three 1 0) 5).signatureOk = false := by
  rw [signatureOk_eq h _ (by simp) _ (by decide +kernel), signatureOk_eq h _ (by simp) _ (by decide +kernel),
    signatureOk_eq h _ (by simp) _ (by decide +kernel)]
  decide +kernel

/-- The first 0x500 bytes of the card's package pass SCAN. -/
theorem witness_UpdateSteps_scan (h : Config.deviceClassKey = 0) :
    let d := step' 0x01 (held [] (card 3))
    let l := library
    d.upd.step = some 1 ∧ d.card = Card.ready ∧ l.length = 0x500 ∧ d.scanReason l = 0 ∧ headId l ≠ d.pkgId := by
  refine ⟨rfl, by decide +kernel, by decide +kernel, ?_, by decide +kernel⟩
  have hu := unwraps h (step' 0x01 (held [] (card 3))) rfl 1 1 (part 4 9 24) 0 0x30
  have hn : ((step' 0x01 (held [] (card 3))).unwrap library).isNone = false := by simpa [library] using hu
  have h1 : hU library 0x10 2 = 0x0128 ∧ hU library 0x12 1 = 0 ∧ hU library 0x13 1 = 255 := by decide +kernel
  have h2 : (step' 0x01 (held [] (card 3))).classOkay (hU library 7 1) = true := by decide +kernel
  have h3 : (step' 0x01 (held [] (card 3))).inRejectList (headId library) = false := by decide +kernel
  have h4 : headOk library = true := by decide +kernel
  have h5 := Config.revision.isLt
  rw [Dev.scanReason, h1.1, h1.2.1, h1.2.2, hn, h2, h3, h4, if_neg (by omega)]
  rfl
theorem witness_UpdateSteps_scan_refused : (step' 0x01 (card 3)).scanReason (List.replicate 0x500 0) = 4
    ∧ (List.replicate 0x500 (0 : Byte)).length = 0x500 ∧ (step' 0x01 (card 3)).card = Card.ready := by
  refine ⟨?_, List.length_replicate, by decide⟩
  rw [Dev.scanReason, if_pos (.inl (by decide +kernel))]

/-- STAGE 0 of a part of one block, its check entry the block's CRC or another word. -/
def zeros : List Byte := List.replicate 4096 0
def staging (e : Nat) : Dev := held (lone 0x30 e) (step' 0x10 (card 3))
theorem ofBytes_bytesOf (v n : Nat) : ofBytes (bytesOf v n) = v % 256 ^ n := by
  induction n generalizing v with
  | zero => simp [bytesOf, ofBytes, Nat.mod_one]
  | succ n ih =>
    simp only [bytesOf, ofBytes, ih, BitVec.toNat_ofNat, Nat.pow_succ]
    have := Nat.mod_mul (x := v) (a := 256) (b := 256 ^ n)
    rw [Nat.mul_comm (256 ^ n)]
    omega
theorem lone_length (len e : Nat) : (lone len e).length = 0x500 := by
  have hp : (part 4 9 24).length = 48 := rfl
  have hb : (bytesOf e 4).length = 4 := rfl
  have hw : wkey.length = 40 := rfl
  simp only [lone, package, args, List.length_append, List.length_map, List.length_replicate, hp, hb, hw, List.length_cons, List.length_nil]
theorem staging_entry (e : Nat) (h : e < 2 ^ 32) : (staging e).checkEntry 1 = e := by
  have hb : ((lone 0x30 e).drop 0x104).take 4 = bytesOf e 4 := rfl
  rw [staging, held_entry _ _ rfl _ (lone_length _ _) 1 (by omega), hU, hb, ofBytes_bytesOf]
  omega
theorem staging_part (e : Nat) : partOf (staging e).pkgHead 0 = partOf (lone 0x30 0) 0 := by
  have ht (e : Nat) : ((lone 0x30 e).drop (0x40 + 0x30 * 0)).take 0x30 = part 4 9 24 := rfl
  rw [staging, held_pkgHead _ _ rfl _ (lone_length _ _), partOf, partOf, ht, ht]
theorem staging_good (e : Nat) : (staging e).classOkay (hU (staging e).pkgHead 7 1) = true := by
  rw [staging, held_pkgHead _ _ rfl _ (lone_length _ _)]; rfl

theorem staging_other (e : Nat) (h : e < 2 ^ 32) : e ≠ (staging ((e + 1) % 2 ^ 32)).checkEntry 1 := by
  rw [staging_entry _ (by omega)]
  omega

theorem witness_UpdateSteps_stage (e : Nat) :
    let d := staging e
    let p := partOf d.pkgHead 0
    let n := (p.len + 4095) / 4096
    let b := p.off / 4096
    d.upd.step = some 0x10 ∧ d.classOkay (hU d.pkgHead 7 1) = true ∧ d.card = Card.ready ∧ n = 1 ∧ b = 1 ∧ b + n ≤ 256
      ∧ d.mem.flash.erasing = none := by
  refine ⟨rfl, staging_good e, rfl, ?_, ?_, ?_, rfl⟩ <;> rw [staging_part] <;> decide +kernel
theorem witness_UpdateSteps_stage_good :
    let e := (crc32c zeros).toNat
    (∀ i, i < 1 → ∃ l, ([⟨.bytes zeros, true⟩] : List BlockIn)[i]? = some ⟨.bytes l, true⟩ ∧ l.length = 4096
      ∧ (crc32c l).toNat = (staging e).checkEntry (1 + i)) := by
  intro e i hi
  obtain rfl : i = 0 := by omega
  exact ⟨zeros, rfl, List.length_replicate, (staging_entry _ (crc32c zeros).isLt).symm⟩
theorem witness_UpdateSteps_stage_bad : zeros.length = 4096
    ∧ (crc32c zeros).toNat ≠ (staging (((crc32c zeros).toNat + 1) % 2 ^ 32)).checkEntry 1 := by
  exact ⟨List.length_replicate, staging_other _ (crc32c zeros).isLt⟩
theorem witness_UpdateSteps_staged : (staged 0x10 [mkStaged 0]).marked (mkStaged 0) = true ∧ (staged 0x10 []).marked (mkStaged 0) = false
    ∧ (staged 0x10 [mkStaged 0]).classOkay (hU (staged 0x10 [mkStaged 0]).pkgHead 7 1) = true := by decide +kernel
theorem staging_unmarked : ∀ e ∈ [0, 5], (staging e).marked (mkStaged 0) = false := by decide +kernel

/-- SAVE with a valid settings copy of no entry, its CRC 0x47255606. -/
def copyHead : List Byte := args ([0x53, 0x54, 0x4E, 0x47] ++ List.replicate 16 0)
def saving : Dev := flashed (shippedFlash ++ cells 0x04300000 (copyHead ++ args [0x06, 0x56, 0x25, 0x47])) (step' 0x50)
theorem saving_copyOk : saving.copyOk (copyAt 0 0) = true := by
  rw [Dev.copyOk, crc32c, ← crcRun_eq]; decide +kernel
theorem witness_UpdateSteps_save : saving.slotRec saving.bootSlot ≤ 1 ∧ saving.mem.flash.erasing = none
    ∧ saving.newest (saving.slotRec saving.bootSlot) = some (copyAt 0 0) ∧ ([] : List (Nat × Word)).length ≤ 4092 := by
  have h0 : saving.slotRec saving.bootSlot = 0 := by decide +kernel
  have h1 : saving.copyOk (copyAt 0 1) = false := by decide +kernel
  rw [h0, Dev.newest, saving_copyOk, h1]
  decide +kernel

def trial (f : UpdS → UpdS := id) : Dev :=
  { ((live.put F.updCfgMgmtConfirm 1).put F.updStatusSelftestOk 1).put F.updStatusState 2 with
    upd := f { live.upd with trial := true, token := 0x1234, deadline := 99999999999 } }
theorem witness_UpdateEndsAndTrials :
    (let d := step' 0x20 live (some (.eperm, 13, 0, 65535))
     d.upd.step = some 0x20 ∧ d.upd.outcome = some (.eperm, 13, 0, 65535) ∧ d.upd.wantReset = false)
    ∧ ({ step' 0x30 live (some (.ok, 0, 0, 0)) with upd := { (step' 0x30 live (some (.ok, 0, 0, 0))).upd with wantReset := true } }).upd.wantReset = true
    ∧ (live.upd.step = none ∧ live.coreOn = true)
    ∧ ((trial).Takes mg F.updConfirm.addr 0x1234 ∧ (trial).Takes mg F.updConfirm.addr 0x1235 ∧ (trial).tokenNow = 0x1234
      ∧ (trial).on F.updCfgMgmtConfirm ≠ false ∧ (trial).on F.updCfgMgmtConfirm = true ∧ live.on F.updCfgMgmtConfirm ≠ true
      ∧ live.on F.updCfgMgmtConfirm = false ∧ live.Takes mg F.updConfirm.addr 0)
    ∧ ((trial).get F.updStatusState = 2 ∧ ((trial).put F.updStatusState 1).get F.updStatusState ≠ 2 ∧ (trial).upd.trial = true ∧ (trial).upd.confirming = false ∧ (trial).now < (trial).upd.deadline ∧ (trial).on F.updStatusSelftestOk = true)
    ∧ ((trial fun u => { u with deadline := 5 }).tokenNow = 0x1234 ∧ ¬ (trial fun u => { u with deadline := 5 }).now < 5)
    ∧ (trial fun u => { u with confirming := true }).upd.confirming = true ∧ (live.upd.confirming = false ∧ live.upd.trial = false) := by
  unfold Dev.Takes; decide
def confirming : Dev := { live with upd := { live.upd with trial := true, confirming := true } }
theorem witness_UpdateEndsAndTrials_slot : confirming.bootSlot = 0 ∧ confirming.slotValid 0 = true ∧ confirming.slotValid 1 = false := by
  have h : confirming.headerOkAt 0 = true := by rw [headerOkAt_run]; decide +kernel
  refine ⟨by decide, ?_, by decide +kernel⟩
  rw [Dev.slotValid, h]; decide +kernel

/-! ### Faults, JTAG and debug halt -/

def flt (f : FltS → FltS) (d : Dev := live) : Dev := { d with flt := f d.flt }
def logEntry : LogEntry := ⟨3, 1, 9, 5, 7⟩

theorem witness_FaultRegisters :
    ((∀ classes ∈ [(0 : BitVec 10), 0x3FF], live.TakesField mg F.fltClear classes.toNat) ∧ live.flt.log.length ≤ 32)
    ∧ (mg.path = .mgmt ∧ (live.put F.dacStatusOt 1).reaches .mgmt F.fltClear.addr = true ∧ (0x040 : BitVec 10).getLsbD 6 = true
      ∧ (live.put F.dacStatusOt 1).on F.dacStatusOt = true ∧ (0x200 : BitVec 10).getLsbD 9 = true
      ∧ ({ live with sys := { live.sys with fuseErr := 4 } }).anyFuseErr = true)
    ∧ (live.reaches .host F.fltLogInfoValid.addr = true ∧ live.flt.log = [] ∧ (flt fun f => { f with log := [logEntry] }).flt.log = [logEntry])
    ∧ (live.TakesField mg F.fltPeerCfg 7 ∧ live.MaySet mg F.fltPeerCfg)
    ∧ (let d := flt (fun f => { f with peer := [(0, 0x55, false)] })
       d.Takes mg F.fltPeerSig.addr 0x55 ∧ d.MaySet mg F.fltPeerSig ∧ (d.flt.peer.find? fun x => x.1 == d.reg F.fltPeerBlk.addr) = some (0, 0x55, false))
    ∧ live.Takes mg F.fltPeerSig.addr 0x56 ∧ live.flt.peer.find? (fun x => x.1 == live.reg F.fltPeerBlk.addr) = none
    ∧ (live.time.counting = true ∧ (flt fun f => { f with healthPin := true }).flt.healthPin = true
      ∧ (flt fun f => { f with healthPin := false }).flt.healthPin = false) := by
  unfold Dev.TakesField Dev.Takes Dev.MaySet; decide

def life (n : BitVec 2) (d : Dev := live) : Dev := { d with sys := { d.sys with lc := n } }
theorem witness_TapInstructions : live.sys.lc = 0 ∧ (life 1).sys.lc ≠ 0
    ∧ (∀ f ∈ [F.htSetLo, F.htSetHi], live.Takes ⟨.mgmt, false⟩ f.addr 5 ∧ live.MaySet ⟨.mgmt, false⟩ f) := by
  unfold Dev.Takes Dev.MaySet; decide

theorem witness_DebugHalt : ((life 1).sys.lc.toNat ≤ 1 ∧ 2 ≤ (life 2).sys.lc.toNat)
    ∧ ((life 1).TakesField mg F.dbgCtrlHalt 1 ∧ (life 1).TakesField mg F.dbgCtrlRelease 1 ∧ (life 1).TakesField mg F.dbgCtrlReset 1)
    ∧ (∀ f ∈ [F.dbgCtrlHalt, F.dbgCtrlRelease, F.dbgCtrlReset],
        (live.reaches .host f.addr = true ∧ (life 2).reaches .mgmt f.addr = true ∧ (life 1).reaches .mgmt f.addr = true))
    ∧ (dozing.power ≠ 0 ∧ dozing.on F.pwrStatusWaking = false) := by
  unfold Dev.TakesField Dev.Takes; decide

/-! ### Single steps

Each expected value is the manual's, by the rule named. -/

/-- Thread 3 after its instruction. -/
def after (c : Instr) (w e : Nat) (x : Thread → Thread := id) : Thread := (run c (cue w e x)).thread 3
def g1 (v : Word) (x : Thread) : Thread := x.setG 1 v
def gs (v u : Word) (x : Thread) : Thread := (x.setG 1 v).setG 3 u
/-- Z, N and C. -/
def flags (x : Thread) : List Bool := [x.fz, x.fn, x.fc]

-- Table 5.5
theorem test_add_carry : let x := after (.add th3) (ins 0x04 2 1 0x20001) 0 (g1 0xFFFFFFFF)
    x.rg 2 = 0 ∧ flags x = [true, false, true] ∧ x.pc = 0x104 := by decide
theorem test_add_negative : let x := after (.add th3) (ins 0x04 2 1 0x2FFFF) 0 (g1 0)
    x.rg 2 = 0xFFFFFFFF ∧ flags x = [false, true, false] := by decide
theorem test_sub_signed : let x := after (.sub th3) (ins 0x05 2 1 0x3000) 0 (gs 0x80000000 1)
    x.rg 2 = 0x7FFFFFFF ∧ flags x = [false, true, false] := by decide
theorem test_sub_borrow : let x := after (.sub th3) (ins 0x05 1 1 0x3000) 0 (gs 0 0xFFFFFFFF)
    x.rg 1 = 1 ∧ flags x = [false, false, true] := by decide
theorem test_mul_high : let x := after (.mul th3) (ins 0x06 2 1 0x13000) 0 (gs 0x80000000 2)
    x.rg 2 = 0xFFFFFFFF ∧ flags x = [false, true, false] := by decide
theorem test_mul_low : let x := after (.mul th3) (ins 0x06 2 1 0x2FFFF) 0 (g1 1)
    x.rg 2 = 0xFFFFFFFF ∧ x.fc = false := by decide
theorem test_and : let x := after (.and th3) (ins 0x07 2 1 0x3000) 0 (gs 0xF0 0x0F)
    x.rg 2 = 0 ∧ x.fz = true := by decide
theorem test_or_sext : (after (.or th3) (ins 0x08 2 1 0x28000) 0 (g1 1)).rg 2 = 0xFFFF8001 := by decide
theorem test_xor_self : let x := after (.xor th3) (ins 0x09 1 1 0x1000) 0 (g1 0x1234)
    x.rg 1 = 0 ∧ x.fz = true := by decide
theorem test_shl_carry : let x := after (.shl th3) (ins 0x0A 2 1 0x20001) 0 (g1 0x80000001)
    x.rg 2 = 2 ∧ flags x = [false, false, true] := by decide
theorem test_shl_register_amount : (after (.shl th3) (ins 0x0A 2 1 0x3000) 0 (gs 1 0x21)).rg 2 = 2 := by decide
theorem test_shr_arithmetic : let x := after (.shr th3) (ins 0x0B 2 1 0x3001F) 0 (g1 0xC0000000)
    x.rg 2 = 0xFFFFFFFF ∧ flags x = [false, true, true] := by decide
theorem test_shr_logical : (after (.shr th3) (ins 0x0B 2 1 0x2001F) 0 (g1 0x80000000)).rg 2 = 1 := by decide
theorem test_cmp_unsigned_and_signed : let x := after (.cmp th3) (ins 0x0C 0 1 0x3000) 0 (gs 1 0xFFFFFFFF)
    x.rg 1 = 1 ∧ flags x = [false, false, true] := by decide
theorem test_cmp_times : flags (after (.cmp th3) (ins 0x0C 0 0 0x11000) 0 fun x => (x.setT 0 5).setT 1 0x100000000)
    = [false, true, true] := by decide
-- LDI
theorem test_ldi_signed : (after (.ldi th3) (ins 0x01 2 4 0x8000) 0).rg 2 = 0xFFFF8000 := by decide
theorem test_ldi_extension : let x := after (.ldi th3) (ins 0x01 15 8 0) 0xABCD1234
    x.rg 15 = 0xABCD1234 ∧ x.pc = 0x108 := by decide
-- LD and ST (R195)
theorem test_ld_byte_signed : (run (.ld th3) ((cue (ins 0x02 2 1 0x8000) 0 (g1 0x02000118)).setByte 0x02000118 0x80)
    |>.thread 3).rg 2 = 0xFFFFFF80 := by decide
theorem test_ld_bounds : let x := after (.ld th3) (ins 0x02 2 1 0x20000) 0 (g1 0x00200000)
    x.state = .trapped ∧ x.cause = 6 := by decide
theorem test_st_word : let d := run (.st th3 []) (cue (ins 0x03 2 1 0x27FFC) 0 fun x => (g1 0x02000204 x).setG 2 0x11223344)
    d.bytesAt 0x02000200 4 = [0x44, 0x33, 0x22, 0x11] ∧ (d.thread 3).fc = false := by decide
theorem test_st_flash : let x := after (.st th3 []) (ins 0x03 2 1 0x20000) 0 (g1 0x04000000)
    x.state = .trapped ∧ x.cause = 8 ∧ x.code = Status.eperm.code := by decide
-- Control
theorem test_br_back : (after (.br th3) (ins 0x10 15 15 0x3FFFF) 0).pc = 0xFC := by decide
theorem test_brc_late : let x := after (.brc th3) (ins 0x11 10 0 5) 0 fun x => { x with fl := true }
    x.pc = 0x114 ∧ x.fl = false := by decide
theorem test_brc_not_taken : (after (.brc th3) (ins 0x11 9 0 5) 0 fun x => { x with fc := true }).pc = 0x104 := by decide
theorem test_call : let x := after (.call th3) (ins 0x12 0 0 9) 0
    x.pc = 0x124 ∧ x.stack = [0x104] := by decide
theorem test_call_overflow : let x := after (.call th3) (ins 0x12 0 0 9) 0 fun x => { x with stack := List.replicate 8 4 }
    x.state = .trapped ∧ x.cause = 9 := by decide
theorem test_ret : let x := after (.ret th3) (ins 0x13 0 0 0) 0 fun x => { x with stack := [8, 4] }
    x.stack.length = 1 ∧ x.state = .ready := by decide
theorem test_ret_underflow : (after (.ret th3) (ins 0x13 0 0 0) 0).cause = 10 := by decide
theorem test_loop_wraps : let x := after (.loop th3) (ins 0x14 2 15 0x3FFFF) 0
    x.rg 2 = 0xFFFFFFFF ∧ x.pc = 0xFC := by decide
theorem test_loop_ends : let x := after (.loop th3) (ins 0x14 2 15 0x3FFFF) 0 fun x => x.setG 2 1
    x.rg 2 = 0 ∧ x.pc = 0x104 := by decide
theorem test_halt : (after (.halt th3) (ins 0x3D 0 0 0) 0).state = .halted := by decide
theorem test_trap : let x := after (.trap th3) (ins 0x3E 0 0 0xBEEF) 0
    x.state = .trapped ∧ x.cause = 12 ∧ x.code = 0xBEEF := by decide
theorem test_illegal : let x := after (.illegalOpcode th3) 0 0
    x.state = .trapped ∧ x.cause = 1 := by decide
theorem test_yield : (after (.yield th3) (ins 0x1F 0 0 0) 0).state = .waiting := by decide
-- Time (R186, R187)
theorem test_at_late : let x := after (.at th3) (ins 0x18 0 0 0) 0 fun x => x.setT 0 5
    x.fl = true ∧ x.cursor = 5 ∧ x.state = .ready := by decide
theorem test_at_waits : let x := after (.at th3) (ins 0x18 0 0 0) 0 fun x => x.setT 0 99999999
    x.fl = false ∧ x.cursor = 99999999 ∧ x.state = .waiting := by decide
theorem test_after_milliseconds : (after (.after th3) (ins 0x19 12 0 2) 0 fun x => { x with cursor := 1 }).cursor = 1 + 2 * 3145728 := by
  decide
theorem test_tadd_seconds : (after (.tadd th3) (ins 0x1B 0 14 0xFFFF) 0).rt 0 = -3145728000 := by decide
theorem test_tget_pair : (after (.tget th3) (ins 0x1A 0 10 0x8000) 0 (gs 0 0)).rt 0 = 0 := by decide
-- Signals (R193)
theorem test_sig : let d := run (.sig th3) (cue (ins 0x1E 0 8 1) 0)
    (d.thread 0).sigWord = 1 ∧ (d.thread 3).fc = false := by decide
theorem test_sig_thread_16 : let x := after (.sig th3) (ins 0x1E 2 0 1) 0 fun x => x.setG 2 16
    x.cause = 8 ∧ x.code = Status.earg.code := by decide
theorem test_waitsig : let x := after (.waitsig th3) (ins 0x1D 2 0 3) 0 fun x => { x with sigWord := 6 }
    x.rg 2 = 2 ∧ x.sigWord = 4 ∧ x.fz = false := by decide
theorem test_gpo : (run (.gpo th3 []) ((cue (ins 0x31 15 4 0) 0).put F.htGpOe 0x8000)).get F.htGpOut = 0x8000 := by decide
theorem test_hostmsg : ((run (.hostmsg th3) (cue (ins 0x32 1 0 7) 0 (g1 5))).hcp.rsp.map fun r => r.kind).length = 1 := by decide

-- Registers (R7, R18, R38)
theorem test_registerWrite : let d := run (.registerWrite [regReq .mgmt 0x830 0xAABBCCDD false]) live
    d.reg 0x830 = 0xAABBCCDD ∧ d.out.status = [.ok] := by decide
theorem test_registerWrite_signals_combine : ((run (.registerWrite [regReq .mgmt (F.cueThSig 3).addr 1 false,
    regReq .host (F.cueThSig 3).addr 6 false]) live).thread 3).sigWord = 7 := by decide
theorem test_counterReadClear : let d := run (.counterReadClear .mgmt F.ua0CntOvr.addr) (live.put F.ua0CntOvr 9)
    d.out.data = [9] ∧ d.get F.ua0CntOvr = 0 := by decide
theorem test_htNowLoRead : (run (.htNowLoRead .host) live).out.data = [15729417] := by decide
theorem test_crc32c_check : crc32c (args [0x31, 0x32, 0x33, 0x34, 0x35, 0x36, 0x37, 0x38, 0x39]) = 0xE3069283#32 := by decide +kernel

-- Memory (R238, R241, R244, R257)
theorem test_memory_write_wave : let d := run (.registerWrite [⟨.mgmt, line0 + 4, [9, 8], false⟩]) clean
    d.bytesAt line0 8 = [0, 1, 2, 3, 9, 8, 6, 7] := by decide +kernel
theorem test_memory_write_poison : let d := run (.registerWrite [⟨.mgmt, line0, [9], false⟩]) twoBits
    d.out.status = [.epoison] ∧ (d.lineView line0).1 = .poison := by decide +kernel
theorem test_ceWriteBack : ((run (.ceWriteBack 0) waitingCe).lineView line0) = (.clean, data32) := by decide +kernel
theorem test_arrayWipeDone : (run .arrayWipeDone State.reset.dev).mem.wiping = 0 := by decide
theorem test_flash_program : (run .pageProgramDone ((flash ⟨none, 0, false, some (0x100, [0x0F])⟩).setByte 0x04000100 0x3C)).byte 0x04000100
    = 0x0C := by decide

-- Timers (R302, R304, R307)
theorem test_tcu_overflow : let d := run (.tcuOverflow 0 1) (going.put (F.tcuChCnt 0) 9)
    d.get (F.tcuChCnt 0) = 0 ∧ d.on (F.tcuChStatOvf 0) = true := by decide
theorem test_tcu_capture : let d := run (.tcuCapture 0 ⟨true, 1⟩) (live.put (F.tcuChCnt 0) 77)
    d.get (F.tcuChCap 0) = 77 ∧ d.on (F.tcuChStatCap 0) = true := by decide
theorem test_tcu_force : ((run (.forceTgl mg 7) live).chan 7).level = true := by decide
theorem test_tcu_arm_busy : (run (.tcuArm mg 0) going).out.status = [.estate] := by decide

-- Ports (R326, R354, R366)
theorem test_twt_address : (run (.twtAddressMatch 0x58) live).twt.addressed = true ∧ (run (.twtAddressMatch 0x59) live).twt.addressed = false := by
  decide
theorem test_ua0_character : ((run (.ua0RxChar (chr 0x41 8)) rxOn).ua0.rx.map fun r => r.data) = [0x41] := by decide
theorem test_ua0_framing : (run (.ua0RxChar (chr 0x41 8 [] false)) rxOn).get F.ua0CntFrame = 1 := by decide
theorem test_cardResetRelease : (run .cardResetRelease (card 1)).get F.ua1StatusState = 2 := by decide

-- Host commands (Table 6.5)
theorem test_cmd_nop : (run (.nop 5) (front (plain 0 []))).hcp.stream = [] := by decide
theorem test_cmd_wreg : (run (.wreg 5 []) (front (plain 2 (args [0x34, 8, 0, 0, 1, 2, 3, 4])))).reg 0x834 = 0x04030201 := by decide +kernel
theorem test_cmd_csignal : ((run (.csignal 5) (front (plain 0x23 (args [15, 0, 1, 0])))).thread 15).sigWord = 1 := by decide
theorem test_negotiate_needs : (run (.negotiate 5) (front (plain 1 []))).on F.hcpStatusNegotiated = true := by decide

-- Power, resets and the life cycle (R384, R401, R403, R410)
theorem test_sysRstReq_core : let d := run (.sysRstReq mg 1) live
    d.reg F.sysRstCausePor.addr = live.reg F.sysRstCausePor.addr ||| 8 ∧ d.time.ht = live.time.ht := by decide +kernel
theorem test_resetPin_short : run (.resetPin 99) live = live := by decide
theorem test_resetPin_long : (run (.resetPin 1000) live).now = 0 := by decide
theorem test_wakeDone : (run .wakeDone (pstate 1 0 1)).power = 0 := by decide
theorem test_lc_request : (run (.sysLcReq mg 2 false) (lc id)).sys.lcPend = some 2 := by decide
theorem test_lc_request_earlier : (run (.sysLcReq mg 0 false) (lc id)).out.status = [.eperm] := by decide
theorem test_xiQualified : (run .xiQualified State.reset.dev).time.counting = true := by decide

-- Update, faults and debug (R430, R455, R488)
theorem test_updStepDone : let d := run .updStepDone (step' 0x20 (flashed [] live) (some (.eperm, 13, 0, 65535)))
    d.get F.updReasonCode = 13 ∧ d.on F.updEventStepDone = true ∧ d.get F.updCntSigfail = 1 := by decide +kernel
theorem test_cancel_needs_step : run .cancel live = live := by decide
theorem test_fltLogRead : let d := run (.fltLogRead .mgmt) (flt fun f => { f with log := [logEntry] })
    d.flt.log = [] ∧ d.out.data = [logEntry.info] := by decide
theorem test_dbgHalt : (run .dbgHalt live).halted = true ∧ (run .dbgHalt (life 2)).halted = false := by decide
theorem test_idcode_part : (idcode.truncate 12 : BitVec 12) = 0xB47 := by
  unfold idcode; bv_omega
theorem test_tapReset : (run .tapReset (life 3)).dbg.ir = .idcode := by decide

end Sys2Proof.Tests
end

section
/-! SUPPORT. Chapters 0 and 1: the commands that their statements speak of, and fields that fill a word. -/

namespace Sys2Proof.Machine

/-! ### The commands of this family -/

theorem exec_registerWrite (rs : List Req) (s : State) :
    exec (.registerWrite rs) s = s.effect fun d => (d.requests rs).2.answer (d.requests rs).1 := rfl
theorem exec_counterReadClear (p : Path) (a : Nat) (s : State) :
    exec (.counterReadClear p a) s = s.effect fun d => d.srcRead p a := rfl
theorem exec_apply (src : Src) (blk : Nat) (s : State) :
    exec (.apply src blk) s = s.effect fun d => d.srcWord src (blk + 0x3FC) 1 := rfl
theorem exec_discard (src : Src) (blk : Nat) (s : State) :
    exec (.discard src blk) s = s.effect fun d => d.srcWord src (blk + 0x3FC) 2 := rfl
theorem exec_negotiate (tag : Fin 16) (s : State) :
    exec (.negotiate tag) s = s.effect fun d => (d.cmdNegotiate tag).drain := rfl

/-! ### Fields that fill a word -/

theorem bitsOf_whole (w : Word) : bitsOf w 0 32 = w.toNat := by
  simp only [bitsOf, BitVec.ushiftRight_zero]
  exact Nat.mod_eq_of_lt w.isLt

theorem insBits_ofNat (x : Word) (v : Nat) : insBits x 0 32 v = BitVec.ofNat 32 v := by
  apply BitVec.eq_of_getLsbD_eq
  intro i hi
  rw [getLsbD_insBits _ _ _ _ _ hi, if_pos (by omega), BitVec.getLsbD_ofNat]
  simp [hi]

theorem append_toNat (h l : Word) : (h ++ l).toNat = l.toNat + 2 ^ 32 * h.toNat := by
  have := l.isLt
  rw [BitVec.toNat_append, ← Nat.shiftLeft_add_eq_or_of_lt this, Nat.shiftLeft_eq]
  omega

end Sys2Proof.Machine
end

section
/-! SUPPORT. Register writes (R15, R19, R26, R33, R35): what a request records, how its sender is told, and a lone write. -/

namespace Sys2Proof.Machine

/-! ### What a request records, and how its sender is told -/

theorem unitOf_aligned (a : Nat) : unitOf a % 0x400 = 0 := by
  unfold unitOf blockBase
  split <;> omega

/-- The STICKY register of the unit that a request addresses. -/
theorem recReg_unitSticky (a : Nat) : recReg (unitOf a + 0x3F8) = true := by
  have h : blockBase (unitOf a) = unitOf a := by
    have := unitOf_aligned a
    unfold blockBase
    omega
  exact h ▸ recReg_sticky (unitOf a) 0x3F8 rfl

/-- A loser's sticky bit, set where its request was posted. -/
theorem Dev.fltOnly_whenPut (d : Dev) (c : Bool) (f : Fld) (v : Nat) (h : recReg f.addr = true) :
    d.FltOnly (d.whenB c fun e => e.put f v) := by
  cases c
  · exact .refl d
  · exact d.fltOnly_put f v h

theorem Dev.fltOnly_splitEvent (d : Dev) (a : Nat) : d.FltOnly (d.splitEvent a) :=
  (d.fltOnly_fltEvent 0).trans (Dev.fltOnly_fault _ _ (by decide) (by decide) _)

theorem Dev.fltOnly_conflictEvent (d : Dev) (a : Nat) (p : Path) : d.FltOnly (d.conflictEvent a p) :=
  d.fltOnly_fault _ (by decide) (by decide) _

theorem Dev.fltOnly_ite (d : Dev) {e : Dev} (c : Bool) (h : d.FltOnly e) : d.FltOnly (if c then e else d) := by
  cases c
  · exact .refl d
  · exact h

/-- What R35, R36 and R43 record of a request stays within the recording registers and the fault state. -/
theorem Dev.fltOnly_recordMet (d : Dev) (r : Req) (m : Met) : d.FltOnly (d.recordMet r m) := by
  have hsticky := recReg_unitSticky r.addr
  have lost (e : Dev) (f : Fld) (hf : recReg f.addr = true) :
      e.FltOnly ((e.loser (unitOf r.addr) r.path).whenB r.posted fun d => d.put f 1) :=
    (e.fltOnly_loser _ _).trans (Dev.fltOnly_whenPut _ _ f 1 hf)
  have hlocked := d.fltOnly_ite m.locked (d.fltOnly_put (F.stickyLockViol (unitOf r.addr)) 1 hsticky)
  have hlost := hlocked.trans (Dev.fltOnly_ite _ m.lost
    ((lost _ (F.stickyConflict (unitOf r.addr)) hsticky).trans (Dev.fltOnly_conflictEvent _ r.addr r.path)))
  have hrefused := hlost.trans (Dev.fltOnly_ite _ m.refused
    ((lost _ (F.stickySplitLoss (unitOf r.addr)) hsticky).trans (Dev.fltOnly_splitEvent _ r.addr)))
  unfold Dev.recordMet
  dsimp only
  split
  · exact hrefused.trans ((Dev.fltOnly_loser _ _ _).trans (Dev.fltOnly_splitEvent _ _))
  · exact hrefused

/-- The sender's account alone changes when it is told. -/
theorem Dev.told_eq (d : Dev) (src : Src) (a : Nat) :
    d.told src a = { d with twt := (d.told src a).twt, out := ⟨[.ok], [], []⟩ } := by
  obtain ⟨p, x⟩ := src
  cases p <;> rfl

/-! ### A register whose only field is RW -/

/-- HT_SET_LO and HT_SET_HI: one RW field that fills the word, held by nothing, and a write starts nothing. -/
theorem htSet_field {f : Fld} (hf : f ∈ [F.htSetLo, F.htSetHi]) : regFields f.addr = [⟨0, 32, .rw, 0⟩] := by
  fin_cases hf <;> rfl

/-- The device once the word stands in its register: its last setter is the path if the word is another. -/
def Dev.tookWord (d : Dev) (p : Path) (a : Nat) (w : Word) : Dev :=
  if d.reg a = w then d.setReg a w else (d.setReg a w).setSetter (a * 32) p

theorem Dev.reg_tookWord (d : Dev) (p : Path) (a b : Nat) (w : Word) :
    (d.tookWord p a w).reg b = if b = a then w else d.reg b := by
  unfold Dev.tookWord
  split <;> exact d.reg_setReg a b w

theorem Dev.setter_tookWord (d : Dev) (p : Path) (a : Nat) (w : Word) (h : d.reg a ≠ w) :
    (d.tookWord p a w).setter (a * 32) = p.rank + 1 := by
  simp [Dev.tookWord, h]

theorem Dev.tookWord_frame (d : Dev) (p : Path) (a : Nat) (w : Word) :
    (d.tookWord p a w).mem = d.mem ∧ (d.tookWord p a w).cue = d.cue ∧ (d.tookWord p a w).time = d.time := by
  unfold Dev.tookWord
  split <;> exact ⟨rfl, rfl, rfl⟩

/-- A field whose place R35 lets the sender change takes its value, whether nobody else set it or the sender's side wins. -/
theorem Dev.splitAmong_one (d : Dev) (r : Req) (a key v : Nat) (f : Field)
    (h : d.splitOf a key r.path.side ≠ .refused) :
    d.splitAmong (fieldValues [r] r.addr f) a key r.path.side v ≠ .refused := by
  unfold Dev.splitAmong
  split
  · decide
  · exact h

/-- The account of a lone write of such a register, and the state it leaves. -/
theorem Dev.oneMet_htSet (d : Dev) (src : Src) (w : Word) {f : Fld} (hf : f ∈ [F.htSetLo, F.htSetHi])
    (hset : d.reg f.addr ≠ w → d.MaySet src f) :
    ∃ won, d.oneMet (regReq src.path f.addr w src.posted) =
      (⟨0, true, false, false, false, won⟩, d.tookWord src.path f.addr w) := by
  obtain ⟨hheld, happly, hportal, hlock, hlo⟩ : d.isHeld f.addr = false ∧ d.applyWrite f.addr w = d
      ∧ isPortal f.addr = false ∧ isLockable f.addr ⟨0, 32, .rw, 0⟩ = false ∧ f.lo = 0 := by
    fin_cases hf <;> exact ⟨rfl, rfl, rfl, rfl, rfl⟩
  obtain ⟨hkey, hpresent⟩ : d.fieldKey f.addr 0 = f.addr * 32 ∧ d.present f.addr = d.reg f.addr := by
    fin_cases hf <;> exact ⟨rfl, rfl⟩
  have hsame : w.toNat = (d.reg f.addr).toNat ↔ d.reg f.addr = w := by rw [BitVec.toNat_inj, eq_comm]
  have hnl := loses_one (regReq src.path f.addr w src.posted) ⟨0, 32, .rw, 0⟩
  simp only [regReq_addr, reqWord_regReq, bitsOf_whole] at hnl
  simp only [Dev.oneMet, regReq_addr, htSet_field hf, List.foldl, happly, Dev.fieldWrite, reqWord_regReq,
    regReq_path, hpresent, hlock, hportal, hkey, bitsOf_whole, hnl, hsame, Dev.fieldSet, hheld, insBits_ofNat, BitVec.ofNat_toNat,
    BitVec.setWidth_eq, Dev.tookWord]
  by_cases h : d.reg f.addr = w
  · simp [h, Met.none']
  · have hmay := d.splitAmong_one (regReq src.path f.addr w src.posted) f.addr (f.addr * 32) w.toNat ⟨0, 32, .rw, 0⟩
      (by simpa [Dev.MaySet, hlo, hkey] using hset h)
    simp only [regReq_addr, regReq_path] at hmay
    simp only [h, or_self, Bool.false_eq_true, if_false, Bool.false_and, Met.none']
    cases hsplit : d.splitAmong (fieldValues [regReq src.path f.addr w src.posted] f.addr ⟨0, 32, .rw, 0⟩) f.addr
      (f.addr * 32) src.path.side w.toNat with
    | refused => exact absurd hsplit hmay
    | wins => exact ⟨_, rfl⟩
    | plain => exact ⟨_, rfl⟩

/-- Nothing is started by a write of such a register. -/
theorem Dev.regHook_htSet (d d0 : Dev) (w1 : Word) (byHost : Bool) {f : Fld} (hf : f ∈ [F.htSetLo, F.htSetHi]) :
    d.regHook d0 f.addr w1 byHost = (.ok, d) ∧ d0.applyHeld f.addr d = d := by
  fin_cases hf <;> exact ⟨rfl, rfl⟩

/-- A lone write of such a register answers OK, and leaves the word in its place and the records of R35. -/
theorem Dev.oneHook_htSet (d : Dev) (src : Src) (w : Word) {f : Fld} (hf : f ∈ [F.htSetLo, F.htSetHi])
    (hset : d.reg f.addr ≠ w → d.MaySet src f) :
    d.oneStatus (regReq src.path f.addr w src.posted) = .ok
      ∧ (d.tookWord src.path f.addr w).FltOnly (d.oneHook (regReq src.path f.addr w src.posted)).2 := by
  obtain ⟨won, hmet⟩ := d.oneMet_htSet src w hf hset
  have hhook : d.oneHook (regReq src.path f.addr w src.posted) = (.ok, (d.tookWord src.path f.addr w).recordMet
      (regReq src.path f.addr w src.posted) ⟨0, true, false, false, false, won⟩) := by
    simp only [Dev.oneHook, hmet, regReq_addr, (Dev.regHook_htSet _ _ _ _ hf).1, (Dev.regHook_htSet _ d 0 false hf).2, if_true]
  refine ⟨?_, ?_⟩
  · simp only [Dev.oneStatus, hhook, hmet]
    rfl
  · rw [hhook]
    exact Dev.fltOnly_recordMet _ _ _

/-! ### O6 -/

/-- A lone write of HT_SET_LO or HT_SET_HI that its unit takes. -/
theorem registerWrite_taken (s : State) (src : Src) (w : Word) (f : Fld) (hf : f ∈ [F.htSetLo, F.htSetHi])
    (htake : s.dev.Takes src f.addr w) (hset : s.dev.reg f.addr ≠ w → s.dev.MaySet src f) :
    Leaves (.registerWrite [regReq src.path f.addr w src.posted]) s fun e =>
      e.reg f.addr = w ∧ e.out.status = [.ok] ∧ s.dev.KeepsRegs e [f.addr]
      ∧ (s.dev.reg f.addr ≠ w → e.setter (f.addr * 32) = src.path.rank + 1)
      ∧ e.mem = s.dev.mem ∧ e.cue = s.dev.cue ∧ e.time = s.dev.time := by
  have hreg : isReg f.addr = true ∧ recReg f.addr = false := by fin_cases hf <;> decide
  obtain ⟨hst, hrec⟩ := s.dev.oneHook_htSet src w hf hset
  have hword := s.dev.srcWord_takes src f.addr w hreg.1 htake (by rw [hst]; rfl)
  obtain ⟨r, x, he, hr⟩ := hrec
  obtain ⟨hmem, hcue, htime⟩ := s.dev.tookWord_frame src.path f.addr w
  rw [he, Dev.told_eq] at hword
  refine ⟨{ s with dev := s.dev.srcWord src f.addr w }, rfl, rfl, ?_⟩
  rw [hword]
  refine ⟨?_, rfl, fun b hb hrb => ?_, fun h => ?_, hmem, hcue, htime⟩
  · exact (hr _ hreg.2).trans (by rw [Dev.reg_tookWord, if_pos rfl])
  · exact (hr b hrb).trans (by rw [Dev.reg_tookWord, if_neg (by simpa using hb)])
  · exact s.dev.setter_tookWord src.path f.addr w h

/-- An acknowledged write that its unit refuses whole changes only its sender's account (R15, R19). -/
theorem registerWrite_refused (s : State) (p : Path) (a : Nat) (w : Word) (hp : p = .mgmt ∨ p = .host) (ha : isReg a = true)
    (hreach : s.dev.reaches p a = true) (href : (s.dev.regRefusal (regReq p a w false)).isError = true) :
    exec (.registerWrite [regReq p a w false]) s = .next { s with
      dev := (if p = .mgmt then s.dev.lastSt (s.dev.regRefusal (regReq p a w false)) a false else s.dev).answer
        [s.dev.regRefusal (regReq p a w false)] } := by
  simp only [exec_registerWrite, State.effect, s.dev.requests_refused _ ha hreach href]
  rcases hp with rfl | rfl <;> rfl

/-- A write that does not reach its unit asks for a wake, where its path has one to ask for (R26). -/
theorem registerWrite_away (s : State) (p : Path) (a : Nat) (w : Word) (hreach : s.dev.reaches p a = false) :
    exec (.registerWrite [regReq p a w false]) s = .next { s with dev := (s.dev.turnAway p a).answer [.ebusy] } := by
  simp only [exec_registerWrite, State.effect, s.dev.requests_away (regReq p a w false) hreach, regReq_path,
    regReq_addr]

/-- Settles O6: a taken write by the account of its one field, the others by what a lone request comes to that is refused
whole or does not reach its unit. -/
theorem registerWrites : Obligations.RegisterWrites := by
  refine ⟨fun s src w f hf htake hset => registerWrite_taken s src w f hf htake hset, fun s p a w hp ha => ⟨?_, ?_, ?_⟩⟩
  · exact registerWrite_refused s p a w hp ha
  · exact registerWrite_away s .host a w
  · intro hphase hserved
    rw [registerWrite_away s .mgmt a w (by simp [Dev.reaches, hserved])]
    simp only [Dev.turnAway, hphase, if_false]

end Sys2Proof.Machine
end

section
/-! SUPPORT. Shadows and their applied values (R41, R53): BLOCK_APPLY copies the staged fields of its block. -/

namespace Sys2Proof.Machine

/-! ### Lists of updates -/

/-- What one update of a list makes and each keeps, the list makes. -/
theorem foldl_makes {α β : Type} {P : β → Prop} (f : β → α → β) (l : List α) (h : ∀ x ∈ l, ∀ b, P b → P (f b x)) (x : α)
    (hx : x ∈ l) (hmake : ∀ b, P (f b x)) (b : β) : P (l.foldl f b) := by
  obtain ⟨l₁, l₂, rfl⟩ := List.append_of_mem hx
  rw [List.foldl_append, List.foldl_cons]
  exact l₂.foldlRecOn f (hmake _) fun b hb y hy => h y (by simp [hy]) b hb

/-! ### Copies of fields between two register files -/

/-- A register file with one field taken from another. -/
def copyField (src dst : Nat → Word) (x : Nat × Field) : Nat → Word := fun a =>
  if a = x.1 then insBits (dst a) x.2.lo x.2.w (bitsOf (src a) x.2.lo x.2.w) else dst a

/-- A bit of a word with a field taken from another word is a bit of one of the two. -/
theorem getLsbD_insBits_copy (w x : Word) (lo n k : Nat) (h : k < 32) :
    (insBits w lo n (bitsOf x lo n)).getLsbD k = if lo ≤ k ∧ k < lo + n then x.getLsbD k else w.getLsbD k := by
  rw [getLsbD_insBits _ _ _ _ _ h]
  split
  · next hk =>
    obtain ⟨h1, h2⟩ := hk
    rw [testBit_bitsOf, decide_eq_true (by omega), Bool.true_and, Nat.add_sub_cancel' h1]
  · rfl

/-- A field shows the same in two words whose bits there agree. -/
theorem bitsOf_congr {w x : Word} {lo n : Nat} (h : ∀ k, k < 32 → lo ≤ k → k < lo + n → w.getLsbD k = x.getLsbD k) :
    bitsOf w lo n = bitsOf x lo n := by
  apply Nat.eq_of_testBit_eq
  intro i
  rw [testBit_bitsOf, testBit_bitsOf]
  by_cases hi : i < n
  · by_cases hk : lo + i < 32
    · rw [h _ hk (by omega) (by omega)]
    · rw [BitVec.getLsbD_of_ge w _ (by omega), BitVec.getLsbD_of_ge x _ (by omega)]
  · simp [hi]

theorem getLsbD_of_bitsOf_eq {w x : Word} {lo n k : Nat} (h : bitsOf w lo n = bitsOf x lo n) (h1 : lo ≤ k) (h2 : k < lo + n) :
    w.getLsbD k = x.getLsbD k := by
  have hbit := congrArg (fun v => v.testBit (k - lo)) h
  simpa [testBit_bitsOf, Nat.add_sub_cancel' h1, show k - lo < n by omega] using hbit

/-- The field taken shows the other word's value. -/
theorem bitsOf_insBits_copy (w x : Word) (lo n : Nat) : bitsOf (insBits w lo n (bitsOf x lo n)) lo n = bitsOf x lo n :=
  bitsOf_congr fun k hk h1 h2 => by rw [getLsbD_insBits_copy _ _ _ _ _ hk, if_pos ⟨h1, h2⟩]

/-- A field that agrees with the other word goes on to agree, whatever field is taken. -/
theorem bitsOf_insBits_agrees {w x : Word} {lo n : Nat} (lo' n' : Nat) (h : bitsOf w lo n = bitsOf x lo n) :
    bitsOf (insBits w lo' n' (bitsOf x lo' n')) lo n = bitsOf x lo n :=
  bitsOf_congr fun k hk h1 h2 => by
    rw [getLsbD_insBits_copy _ _ _ _ _ hk]
    split
    · rfl
    · exact getLsbD_of_bitsOf_eq h h1 h2

/-- A copied field shows what it shows in the file it was taken from. -/
theorem copyField_listed (src dst : Nat → Word) (l : List (Nat × Field)) {a : Nat} {f : Field} (h : (a, f) ∈ l) :
    bitsOf (l.foldl (copyField src) dst a) f.lo f.w = bitsOf (src a) f.lo f.w := by
  refine foldl_makes (P := fun r : Nat → Word => bitsOf (r a) f.lo f.w = bitsOf (src a) f.lo f.w) _ l
    (fun x _ r hr => ?_) (a, f) h (fun r => ?_) dst
  · unfold copyField
    split
    · exact bitsOf_insBits_agrees _ _ hr
    · exact hr
  · simp only [copyField, if_true]
    exact bitsOf_insBits_copy _ _ _ _

/-- A register of which no field is copied keeps its word. -/
theorem copyField_unlisted (src dst : Nat → Word) (l : List (Nat × Field)) {a : Nat} (h : ∀ x ∈ l, x.1 ≠ a) :
    l.foldl (copyField src) dst a = dst a :=
  l.foldlRecOn (motive := fun r : Nat → Word => r a = dst a) _ rfl fun r hr x hx => by
    rw [copyField, if_neg fun e => h x hx e.symm, hr]

/-! ### Shadows and applied values -/

/-- The applied values of the register at `a`. -/
def Dev.apReg (d : Dev) (a : Nat) : Word := Tab.get regReset d.applied a

theorem Dev.apReg_putAp (d : Dev) (f : Fld) (v a : Nat) :
    (d.putAp f v).apReg a = if a = f.addr then insBits (d.apReg a) f.lo f.w v else d.apReg a := by
  unfold Dev.apReg Dev.putAp
  rw [Tab.get_set]
  split
  · next h => rw [h]
  · rfl

theorem Dev.reg_put (d : Dev) (f : Fld) (v a : Nat) :
    (d.put f v).reg a = if a = f.addr then insBits (d.reg a) f.lo f.w v else d.reg a := by
  rw [Dev.put, Dev.reg_setReg]
  split
  · next h => rw [h]
  · rfl

/-- The fields of the register at `a` that apply at BLOCK_APPLY. -/
def stagedOf (a : Nat) : List Field := (regFields a).filter fun f => f.acc = .rws .apply

/-- The registers of a block that a table lists: every other stands at its reset value in both files. -/
def Dev.listedIn (d : Dev) (b : Nat) : List Nat := (d.regs.map (·.1) ++ d.applied.map (·.1)).filter (inBlock b)

/-- The staged fields of a block's listed registers. -/
def Dev.stagedIn (d : Dev) (b : Nat) : List (Nat × Field) := (d.listedIn b).flatMap fun a => (stagedOf a).map fun f => (a, f)

/-- One shadow applies. -/
def Dev.applyField (d : Dev) (x : Nat × Field) : Dev := d.putAp ⟨x.1, x.2.lo, x.2.w⟩ (d.get ⟨x.1, x.2.lo, x.2.w⟩)

/-- One shadow takes its applied value back. -/
def Dev.discardField (d : Dev) (x : Nat × Field) : Dev := d.put ⟨x.1, x.2.lo, x.2.w⟩ (d.ap ⟨x.1, x.2.lo, x.2.w⟩)

theorem Dev.applyBlock_eq (d : Dev) (b : Nat) : d.applyBlock b = (d.stagedIn b).foldl Dev.applyField d := by
  simp only [Dev.stagedIn, List.foldl_flatMap, List.foldl_map]
  rfl

theorem Dev.discardBlock_eq (d : Dev) (b : Nat) : d.discardBlock b = (d.stagedIn b).foldl Dev.discardField d := by
  simp only [Dev.stagedIn, List.foldl_flatMap, List.foldl_map]
  rfl

/-- Shadows that apply change applied values alone, and copy their fields into them. -/
theorem Dev.applyField_foldl (d : Dev) (l : List (Nat × Field)) :
    l.foldl Dev.applyField d = { d with applied := (l.foldl Dev.applyField d).applied }
      ∧ (l.foldl Dev.applyField d).apReg = l.foldl (copyField d.reg) d.apReg := by
  induction l generalizing d with
  | nil => exact ⟨rfl, rfl⟩
  | cons x l ih =>
    obtain ⟨hframe, hcopy⟩ := ih (d.applyField x)
    have hstep : (d.applyField x).apReg = copyField d.reg d.apReg x := funext fun a => by
      rw [Dev.applyField, Dev.apReg_putAp, copyField]
      split
      · next h => rw [h]; rfl
      · rfl
    refine ⟨hframe, ?_⟩
    rw [List.foldl_cons, hcopy, hstep]
    rfl

/-- Shadows that are discarded change the state of record alone, and copy their applied values into it. -/
theorem Dev.discardField_foldl (d : Dev) (l : List (Nat × Field)) :
    l.foldl Dev.discardField d = { d with regs := (l.foldl Dev.discardField d).regs }
      ∧ (l.foldl Dev.discardField d).reg = l.foldl (copyField d.apReg) d.reg := by
  induction l generalizing d with
  | nil => exact ⟨rfl, rfl⟩
  | cons x l ih =>
    obtain ⟨hframe, hcopy⟩ := ih (d.discardField x)
    have hstep : (d.discardField x).reg = copyField d.apReg d.reg x := funext fun a => by
      rw [Dev.discardField, Dev.reg_put, copyField]
      split
      · next h => rw [h]; rfl
      · rfl
    refine ⟨hframe, ?_⟩
    rw [List.foldl_cons, hcopy, hstep]
    rfl

theorem Dev.mem_stagedIn (d : Dev) (b a : Nat) (f : Field) :
    (a, f) ∈ d.stagedIn b ↔ a ∈ d.listedIn b ∧ f ∈ regFields a ∧ f.acc = .rws .apply := by
  simp [Dev.stagedIn, stagedOf]

/-- A key that a table does not list reads as the default. -/
theorem Tab.get_unlisted {α : Type} (d : Nat → α) (t : Tab α) (k : Nat) (h : k ∉ t.map (·.1)) : Tab.get d t k = d k := by
  have hfind : Tab.find t k = none := by
    induction t with
    | nil => rfl
    | cons x t ih =>
      simp only [List.map_cons, List.mem_cons, not_or] at h
      rw [Tab.find, if_neg h.1, ih h.2]
  rw [Tab.get, hfind, Option.getD_none]

/-- A register of the block that no table lists shows the same in both files. -/
theorem Dev.apReg_unlisted (d : Dev) (b a : Nat) (hb : blockBase a = b) (h : a ∉ d.listedIn b) : d.apReg a = d.reg a := by
  simp only [Dev.listedIn, List.mem_filter, inBlock, hb, decide_true, and_true, List.mem_append, not_or] at h
  rw [Dev.apReg, Dev.reg, Tab.get_unlisted _ _ _ h.1, Tab.get_unlisted _ _ _ h.2]

theorem Dev.stagedIn_block (d : Dev) (b : Nat) {a : Nat} (h : blockBase a ≠ b ∨ a ∉ d.listedIn b) :
    ∀ x ∈ d.stagedIn b, x.1 ≠ a := by
  rintro ⟨a', f⟩ hx rfl
  obtain ⟨ha, -⟩ := (d.mem_stagedIn b a' f).1 hx
  rcases h with h | h
  · exact h (by simpa [inBlock] using (List.mem_filter.1 ha).2)
  · exact h ha

/-- BLOCK_APPLY.APPLY: each staged field of the block shows its shadow, and every other register's applied values stay. -/
theorem Dev.ap_applyBlock (d : Dev) (b a : Nat) (f : Field) (hf : f ∈ regFields a) (hacc : f.acc = .rws .apply) :
    (d.applyBlock b).ap ⟨a, f.lo, f.w⟩ = if blockBase a = b then d.get ⟨a, f.lo, f.w⟩ else d.ap ⟨a, f.lo, f.w⟩ := by
  have hcopy := (d.applyField_foldl (d.stagedIn b)).2
  change bitsOf ((d.applyBlock b).apReg a) f.lo f.w = _
  rw [d.applyBlock_eq, hcopy]
  by_cases hlist : a ∈ d.listedIn b
  · have hb : blockBase a = b := by simpa [inBlock] using (List.mem_filter.1 hlist).2
    rw [if_pos hb]
    exact copyField_listed _ _ _ ((d.mem_stagedIn b a f).2 ⟨hlist, hf, hacc⟩)
  · rw [copyField_unlisted _ _ _ (d.stagedIn_block b (.inr hlist))]
    split
    · next hb => rw [d.apReg_unlisted b a hb hlist]; rfl
    · rfl

/-- BLOCK_APPLY.DISCARD: registers of other blocks stay. -/
theorem Dev.reg_discardBlock_other (d : Dev) (b a : Nat) (hb : blockBase a ≠ b) : (d.discardBlock b).reg a = d.reg a := by
  rw [d.discardBlock_eq, (d.discardField_foldl _).2, copyField_unlisted _ _ _ (d.stagedIn_block b (.inl hb))]

/-- BLOCK_APPLY.DISCARD: each staged field of the block shows its applied value. -/
theorem Dev.get_discardBlock (d : Dev) (b a : Nat) (f : Field) (hf : f ∈ regFields a) (hacc : f.acc = .rws .apply)
    (hb : blockBase a = b) : (d.discardBlock b).get ⟨a, f.lo, f.w⟩ = d.ap ⟨a, f.lo, f.w⟩ := by
  change bitsOf ((d.discardBlock b).reg a) f.lo f.w = bitsOf (d.apReg a) f.lo f.w
  rw [d.discardBlock_eq, (d.discardField_foldl _).2]
  by_cases hlist : a ∈ d.listedIn b
  · exact copyField_listed _ _ _ ((d.mem_stagedIn b a f).2 ⟨hlist, hf, hacc⟩)
  · rw [copyField_unlisted _ _ _ (d.stagedIn_block b (.inr hlist)), d.apReg_unlisted b a hb hlist]

theorem Dev.applyBlock_frame (d : Dev) (b : Nat) : d.applyBlock b = { d with applied := (d.applyBlock b).applied } := by
  rw [d.applyBlock_eq]
  exact (d.applyField_foldl _).1

theorem Dev.discardBlock_frame (d : Dev) (b : Nat) : d.discardBlock b = { d with regs := (d.discardBlock b).regs } := by
  rw [d.discardBlock_eq]
  exact (d.discardField_foldl _).1

/-! ### A write of BLOCK_APPLY -/

/-- BLOCK_APPLY of a block has its three fields, where there is a block. -/
theorem regFields_apply (blk : Nat) (h : blk % 0x400 = 0) (hlt : blk < 0x7400) :
    regFields (blk + 0x3FC) = applyFields ∨ regFields (blk + 0x3FC) = [] := by
  have key : ∀ k < 29, regFields (0x400 * k + 0x3FC) = applyFields ∨ regFields (0x400 * k + 0x3FC) = [] := by decide
  have hk := key (blk / 0x400) (by omega)
  rwa [show 0x400 * (blk / 0x400) = blk by omega] at hk

/-- BLOCK_APPLY starts nothing beside its own work, and no held word waits for it. -/
theorem Dev.regHook_apply (d d0 : Dev) (a : Nat) (w1 : Word) (byHost : Bool) (h : a % 0x400 = 0x3FC) :
    d.regHook d0 a w1 byHost = (.ok, d) ∧ d0.applyHeld a d = d := by
  have hforbid : mayForbid a w1 = false := by
    have h1 : a ≠ F.alcStkCtrlEn.addr := by rintro rfl; revert h; decide
    have h2 : a ≠ F.tcuGctrlArm.addr := by rintro rfl; revert h; decide
    have h3 : a ≠ F.dbgCtrlHalt.addr := by rintro rfl; revert h; decide
    have h4 : ¬ (tcuBase ≤ a ∧ a < tcuBase + 0x200) := by unfold tcuBase; omega
    simp [mayForbid, h1, h2, h3, h4]
  have hheld : d0.heldFor a = none := by
    have h1 : a < tcuBase ∨ tcuBase + 0x200 ≤ a := by unfold tcuBase; omega
    have h2 : a ≠ F.pwrFloorAtHi.addr := by rintro rfl; revert h; decide
    have h3 : ((List.range 4).any fun g => decide (a = (F.swmGlfoIncHiInc g).addr)) = false := by
      rw [List.any_eq_false]
      intro g hg e
      have hlt := List.mem_range.1 hg
      have heq := of_decide_eq_true e
      simp only [F.swmGlfoIncHiInc] at heq
      omega
    simp [Dev.heldFor, Dev.tcuPartner, h1, h2, h3]
  have happly : isApply a = true := by simp [isApply, h]
  exact ⟨by simp [Dev.regHook, Dev.blockHook, happly, hforbid], by simp [Dev.applyHeld, hheld]⟩

/-- A lone write of BLOCK_APPLY has no account to give: it applies or discards. -/
theorem Dev.oneMet_apply (d : Dev) (r : Req) (h : regFields r.addr = applyFields ∨ regFields r.addr = []) :
    ∃ w1 did, d.oneMet r = (⟨w1, did, false, false, false, none⟩, d.applyWrite r.addr (reqWord r)) := by
  rcases h with h | h <;> rw [Dev.oneMet, h] <;> exact ⟨_, _, rfl⟩

theorem Dev.srcWord_apply (d : Dev) (src : Src) (blk : Nat) (w : Word) (hblk : blk % 0x400 = 0) (hlt : blk < 0x7400)
    (h : d.Takes src (blk + 0x3FC) w) :
    d.srcWord src (blk + 0x3FC) w = (d.applyWrite (blk + 0x3FC) w).told src (blk + 0x3FC) := by
  have hreg : isReg (blk + 0x3FC) = true := by simp only [isReg, decide_eq_true_eq]; omega
  obtain ⟨w1, did, hmet⟩ := d.oneMet_apply (regReq src.path (blk + 0x3FC) w src.posted) (regFields_apply blk hblk hlt)
  have hhook : d.oneHook (regReq src.path (blk + 0x3FC) w src.posted) = (.ok, d.applyWrite (blk + 0x3FC) w) := by
    obtain ⟨hnone, hheld⟩ := (d.applyWrite (blk + 0x3FC) w).regHook_apply d (blk + 0x3FC) w1 (src.path == .host) (by omega)
    cases did <;> simp [Dev.oneHook, hmet, Dev.recordMet, hheld, hnone]
  have hst : d.oneStatus (regReq src.path (blk + 0x3FC) w src.posted) = .ok := by
    rw [Dev.oneStatus, hhook, hmet]
    rfl
  rw [d.srcWord_takes src _ w hreg h (by rw [hst]; rfl), hhook]

theorem Dev.applyWrite_one (d : Dev) (blk : Nat) (h : blk % 0x400 = 0) :
    d.applyWrite (blk + 0x3FC) 1 = d.applyBlock blk ∧ d.applyWrite (blk + 0x3FC) 2 = d.discardBlock blk := by
  have happly : isApply (blk + 0x3FC) = true := by simp only [isApply, decide_eq_true_eq]; omega
  have hbase : blockBase (blk + 0x3FC) = blk := by unfold blockBase; omega
  exact ⟨by simp [Dev.applyWrite, happly, hbase], by simp [Dev.applyWrite, happly, hbase]⟩

end Sys2Proof.Machine
end

section
/-! SUPPORT. Read-to-clear counters (R10): no counter is a view, and its read clears every field. -/

namespace Sys2Proof.Machine

/-! ### Where the counters stand -/

/-- Whether the register at `a` has an RC field. -/
def isCounter (a : Nat) : Bool := (regFields a).any fun f => decide (f.acc = .rc)

/-- Every row of the register tables. -/
def tableRows : List RegRow := (List.range 32).flatMap fun k => blockRows (0x400 * k)

/-- The rows with an RC field. -/
def counterRows : List RegRow := tableRows.filter fun r => r.fields.any fun f => decide (f.acc = .rc)

/-- The last register of a row. -/
def RegRow.last (r : RegRow) : Nat := r.addr + r.s1 * (r.n1 - 1) + r.s2 * (r.n2 - 1)

theorem RegRow.has_span (r : RegRow) (a : Nat) (h : r.has a = true) : r.addr ≤ a ∧ a ≤ r.last := by
  obtain ⟨i, hi, h⟩ := List.any_eq_true.1 h
  simp only [Bool.and_eq_true, Nat.ble_eq, Nat.beq_eq, Nat.blt_eq] at h
  obtain ⟨hle, hmod, hdiv⟩ := h
  have hi := List.mem_range.1 hi
  have h1 : r.s1 * i ≤ r.s1 * (r.n1 - 1) := Nat.mul_le_mul_left _ (by omega)
  have h2 : r.s2 * ((a - (r.addr + r.s1 * i)) / r.s2) ≤ r.s2 * (r.n2 - 1) := Nat.mul_le_mul_left _ (by omega)
  have h3 := Nat.div_add_mod (a - (r.addr + r.s1 * i)) r.s2
  unfold RegRow.last
  omega

theorem blockRows_tableRows {a : Nat} {r : RegRow} (ha : isReg a = true) (h : r ∈ blockRows a) : r ∈ tableRows := by
  have hlt : a < 0x8000 := by simpa [isReg] using ha
  have hblock : blockRows (0x400 * (a / 0x400)) = blockRows a := by
    unfold blockRows
    rw [Nat.mul_div_cancel_left _ (by decide)]
  exact List.mem_flatMap.2 ⟨a / 0x400, List.mem_range.2 (by omega), hblock ▸ h⟩

/-- A register with an RC field is one of a counter row. -/
theorem counter_row {a : Nat} (ha : isReg a = true) (h : isCounter a = true) :
    ∃ r ∈ counterRows, r.addr ≤ a ∧ a ≤ r.last ∧ regFields a = r.fields := by
  unfold isCounter regFields at *
  split at h
  · next r hr =>
    refine ⟨r, List.mem_filter.2 ⟨blockRows_tableRows ha (List.mem_of_find?_eq_some hr), h⟩, ?_⟩
    have hspan := r.has_span a (List.find?_some (p := fun x : RegRow => x.has a) hr)
    exact ⟨hspan.1, hspan.2, rfl⟩
  · exfalso
    revert h
    split
    · decide
    · split
      · decide
      · split <;> decide

/-- Every field of a counter register is RC. -/
theorem counter_fields {a : Nat} (ha : isReg a = true) (h : isCounter a = true) : ∀ f ∈ regFields a, f.acc = .rc := by
  have key : (counterRows.all fun r => r.fields.all fun f => decide (f.acc = .rc)) = true := by decide
  obtain ⟨r, hr, -, -, hf⟩ := counter_row ha h
  simpa [hf] using List.all_eq_true.1 key r hr

/-- A range of addresses without a counter. -/
def counterFree (lo hi : Nat) : Bool := counterRows.all fun r => decide (r.last < lo) || decide (hi ≤ r.addr)

theorem counter_outside {a lo hi : Nat} (ha : isReg a = true) (h : isCounter a = true) (hfree : counterFree lo hi = true) :
    ¬ (lo ≤ a ∧ a < hi) := by
  obtain ⟨r, hr, hlo, hhi, -⟩ := counter_row ha h
  have hspan := List.all_eq_true.1 hfree r hr
  simp only [Bool.or_eq_true, decide_eq_true_eq] at hspan
  omega

theorem counter_ne {a b : Nat} (h : isCounter a = true) (hb : isCounter b = false) : a ≠ b := by
  rintro rfl
  rw [h] at hb
  cases hb

/-- No counter stands in the places of BLOCK_STICKY and BLOCK_APPLY. -/
theorem counter_offset {a : Nat} (ha : isReg a = true) (h : isCounter a = true) : a % 0x400 < 0x3F8 := by
  have key : (counterRows.all fun r => decide (r.addr / 0x400 = r.last / 0x400) && decide (r.last % 0x400 < 0x3F8)) = true := by
    decide
  obtain ⟨r, hr, hlo, hhi, -⟩ := counter_row ha h
  have hspan := List.all_eq_true.1 key r hr
  simp only [Bool.and_eq_true, decide_eq_true_eq] at hspan
  omega

/-! ### A counter is no view -/

section
variable (d : Dev) (p : Path) {a : Nat} (ha : isReg a = true) (h : isCounter a = true)
include h

theorem Dev.sysRead_counter : d.sysRead a = none := by
  simp (disch := decide) only [Dev.sysRead, counter_ne h, if_false]
theorem Dev.pwrRead_counter : d.pwrRead a = none := by
  simp (disch := decide) only [Dev.pwrRead, counter_ne h, if_false]
theorem Dev.timeRead_counter : d.timeRead p a = none := by
  simp (disch := decide) only [Dev.timeRead, counter_ne h, if_false]
theorem Dev.alcRead_counter : d.alcRead a = none := by
  simp (disch := decide) only [Dev.alcRead, counter_ne h, if_false]
theorem Dev.hcpRead_counter : d.hcpRead a = none := by
  simp (disch := decide) only [Dev.hcpRead, counter_ne h, if_false]
theorem Dev.memRead_counter : d.memRead a = none := by
  simp (disch := decide) only [Dev.memRead, counter_ne h, if_false]
theorem Dev.twoWireRead_counter : d.twoWireRead a = none := by
  simp (disch := decide) only [Dev.twoWireRead, counter_ne h, if_false]
theorem Dev.serialRead_counter : d.serialRead a = none := by
  simp (disch := decide) only [Dev.serialRead, counter_ne h, if_false]
theorem Dev.updRead_counter : d.updRead p a = none := by
  simp (disch := decide) only [Dev.updRead, counter_ne h, if_false]
theorem Dev.fltRead_counter : d.fltRead p a = none := by
  simp (disch := decide) only [Dev.fltRead, counter_ne h, if_false]

include ha

theorem Dev.swmRead_counter : d.swmRead a = none := by
  have husks := counter_outside ha h (lo := 0x1810) (hi := 0x1820) (by decide)
  simp (disch := decide) only [Dev.swmRead, counter_ne h, husks, if_false]
theorem Dev.cueRead_counter : d.cueRead a = none := by
  have threads : isCueTh a = false :=
    decide_eq_false (counter_outside ha h (lo := 0x2900) (hi := 0x2B00) (by decide))
  rw [Dev.cueRead, if_neg (counter_ne h (by decide)), if_neg (counter_ne h (by decide)), if_neg (counter_ne h (by decide)),
    threads]
  rfl
theorem Dev.outRead_counter : d.outRead p a = none := by
  have signatures := counter_outside ha h (lo := 0x3850) (hi := 0x3888) (by decide)
  simp (disch := decide) only [Dev.outRead, counter_ne h, signatures, if_false]
theorem Dev.tcuRead_counter : d.tcuRead p a = none := by
  have channels : a < tcuBase ∨ tcuBase + 0x200 ≤ a := by
    have := counter_outside ha h (lo := tcuBase) (hi := tcuBase + 0x200) (by decide)
    omega
  simp (disch := decide) only [Dev.tcuRead, counter_ne h, channels, if_false, if_true]
theorem Dev.dbgRead_counter : d.dbgRead a = none := by
  have voices := counter_outside ha h (lo := 0x7010) (hi := 0x7210) (by decide)
  simp (disch := decide) only [Dev.dbgRead, counter_ne h, voices, if_false]

/-- A counter shows its state of record, and looking at it does nothing. -/
theorem Dev.regView_counter : d.regView p a = (d.reg a, d) := by
  have hoff := counter_offset ha h
  have happly : isApply a = false := by simp only [isApply, decide_eq_false_iff_not]; omega
  have hsticky : a % 0x400 ≠ 0x3F8 := by omega
  simp only [Dev.regView, happly, hsticky, d.sysRead_counter h, d.pwrRead_counter h, d.timeRead_counter p h,
    d.swmRead_counter ha h, d.alcRead_counter h, d.cueRead_counter ha h, d.hcpRead_counter h, d.memRead_counter h,
    d.outRead_counter p ha h, d.tcuRead_counter p ha h, d.twoWireRead_counter h, d.serialRead_counter h, d.updRead_counter p h,
    d.fltRead_counter p h, d.dbgRead_counter ha h, Option.getD_none, Bool.false_eq_true, if_false, ite_self]

end

/-! ### The read clears -/

/-- The register at `a` with the fields of a list at 0. -/
def Dev.clearFields (d : Dev) (a : Nat) (l : List Field) : Dev :=
  l.foldl (fun d f => d.setReg a (insBits (d.reg a) f.lo f.w 0)) d

/-- Clearing fields changes their register alone. -/
theorem Dev.clearFields_frame (d : Dev) (a : Nat) (l : List Field) :
    d.clearFields a l = { d with regs := (d.clearFields a l).regs }
      ∧ ∀ b, b ≠ a → (d.clearFields a l).reg b = d.reg b := by
  refine l.foldlRecOn (motive := fun e : Dev => e = { d with regs := e.regs } ∧ ∀ b, b ≠ a → e.reg b = d.reg b) _
    ⟨rfl, fun _ _ => rfl⟩ fun e he f _ => ?_
  obtain ⟨hframe, hreg⟩ := he
  refine ⟨?_, fun b hb => ?_⟩
  · rw [hframe]
    rfl
  · rw [Dev.reg_setReg, if_neg hb, hreg b hb]

/-- A field of the list reads 0 after it. -/
theorem Dev.clearFields_zero (d : Dev) (a : Nat) (l : List Field) (f : Field) (hf : f ∈ l) :
    bitsOf ((d.clearFields a l).reg a) f.lo f.w = 0 := by
  have zero (lo n : Nat) : bitsOf 0 lo n = 0 := by simp [bitsOf]
  refine foldl_makes (P := fun e : Dev => bitsOf (e.reg a) f.lo f.w = 0) _ l (fun g _ e he => ?_) f hf (fun e => ?_) d
  · have hcopy := bitsOf_insBits_agrees g.lo g.w (he.trans (zero f.lo f.w).symm)
    rwa [zero, zero, ← e.reg_setReg_same a (insBits (e.reg a) g.lo g.w 0)] at hcopy
  · have hcopy := bitsOf_insBits_copy (e.reg a) 0 f.lo f.w
    rwa [zero, ← e.reg_setReg_same a (insBits (e.reg a) f.lo f.w 0)] at hcopy

/-- A read of a counter gives its word and leaves its fields at 0. -/
theorem Dev.readReg_counter (d : Dev) (p : Path) {a : Nat} (ha : isReg a = true) (h : isCounter a = true) :
    d.readReg p a = (d.reg a, d.clearFields a (regFields a)) := by
  have hall : (regFields a).filter (fun f => decide (f.acc = .rc)) = regFields a :=
    List.filter_eq_self.2 fun f hf => by simpa using counter_fields ha h f hf
  simp only [Dev.readReg, d.regView_counter p ha h, hall]
  rfl

/-! ### O8 -/

theorem counterRead_leaves (s : State) (p : Path) (a : Nat) (ha : isReg a = true) (h : isCounter a = true)
    (hreach : s.dev.reaches p a = true) :
    exec (.counterReadClear p a) s = .next { s with dev := (s.dev.clearFields a (regFields a)).answer [] [s.dev.reg a] } := by
  simp only [exec_counterReadClear, State.effect, Dev.srcRead, hreach, if_true, s.dev.readReg_counter p ha h]

/-- A word written to BLOCK_APPLY. -/
theorem blockApply_leaves (s : State) (src : Src) (blk : Nat) (hblk : blk % 0x400 = 0) (hlt : blk < 0x7400) :
    (s.dev.Takes src (blk + 0x3FC) 1 →
      exec (.apply src blk) s = .next { s with dev := (s.dev.applyBlock blk).told src (blk + 0x3FC) })
    ∧ (s.dev.Takes src (blk + 0x3FC) 2 →
      exec (.discard src blk) s = .next { s with dev := (s.dev.discardBlock blk).told src (blk + 0x3FC) }) := by
  obtain ⟨happly, hdiscard⟩ := s.dev.applyWrite_one blk hblk
  refine ⟨fun htake => ?_, fun htake => ?_⟩
  · rw [exec_apply, State.effect, s.dev.srcWord_apply src blk 1 hblk hlt htake, happly]
  · rw [exec_discard, State.effect, s.dev.srcWord_apply src blk 2 hblk hlt htake, hdiscard]

/-- Settles O8: a counter is no view and each of its fields is RC; BLOCK_APPLY copies the staged fields of its block. -/
theorem countersAndShadows : Obligations.CountersAndShadows := by
  refine ⟨fun s p a ha _ h hreach => ?_, fun s src blk hblk hlt => ⟨fun htake => ?_, fun htake => ?_⟩⟩
  · obtain ⟨hframe, hother⟩ := s.dev.clearFields_frame a (regFields a)
    exact ⟨_, counterRead_leaves s p a ha h hreach, hframe, s.dev.clearFields_zero a (regFields a), hother⟩
  · exact ⟨_, (blockApply_leaves s src blk hblk hlt).1 htake, s.dev.applyBlock_frame blk,
      fun a f hf => s.dev.ap_applyBlock blk a f hf.1 hf.2⟩
  · exact ⟨_, (blockApply_leaves s src blk hblk hlt).2 htake, s.dev.discardBlock_frame blk,
      fun a => s.dev.reg_discardBlock_other blk a, fun a f hf => s.dev.get_discardBlock blk a f hf.1 hf.2⟩

end Sys2Proof.Machine
end

section
/-! SUPPORT. NEGOTIATE (R14, R227): sets of bits, the front of the input stream, and the active set. -/

namespace Sys2Proof.Machine

/-! ### Sets of bits as sums of powers -/

theorem sum_powers_lt (p : Nat → Bool) (n : Nat) : ((List.range n).map fun f => if p f then 2 ^ f else 0).sum < 2 ^ n := by
  induction n with
  | zero => simp
  | succ n ih =>
    simp only [List.range_succ, List.map_append, List.map_cons, List.map_nil, List.sum_append, List.sum_singleton, Nat.pow_succ]
    split <;> omega

/-- A bit of the word that has the bits chosen by `p` below `n`. -/
theorem testBit_sum_powers (p : Nat → Bool) (n i : Nat) :
    ((List.range n).map fun f => if p f then 2 ^ f else 0).sum.testBit i = (decide (i < n) && p i) := by
  induction n with
  | zero => simp
  | succ n ih =>
    have hlt := sum_powers_lt p n
    simp only [List.range_succ, List.map_append, List.map_cons, List.map_nil, List.sum_append, List.sum_singleton]
    generalize ((List.range n).map fun f => if p f then 2 ^ f else 0).sum = x at hlt ih
    rw [Nat.add_comm]
    rcases Nat.lt_trichotomy i n with h | rfl | h
    · have hn : i < n + 1 := by omega
      cases p n <;> simp [ih, h, hn, Nat.testBit_two_pow_add_gt h]
    · have hx : x.testBit i = false := Nat.testBit_lt_two_pow hlt
      cases hp : p i <;> simp [Nat.testBit_two_pow_add_eq, hx]
    · have hn : ¬ i < n + 1 := by omega
      have hx : (if p n then 2 ^ n else 0) + x < 2 ^ i := by
        have : 2 ^ (n + 1) ≤ 2 ^ i := Nat.pow_le_pow_right (by decide) (by omega)
        rw [Nat.pow_succ] at this
        split <;> omega
      simp [Nat.testBit_lt_two_pow hx, hn]

theorem getLsbD_sum_powers (p : Nat → Bool) (n i : Nat) :
    (BitVec.ofNat n ((List.range n).map fun f => if p f then 2 ^ f else 0).sum).getLsbD i = (decide (i < n) && p i) := by
  rw [BitVec.getLsbD_ofNat, testBit_sum_powers]
  cases decide (i < n) <;> rfl

/-! ### The front of the input stream -/

/-- The front command answers once and leaves the stream. -/
theorem Dev.done_front (d : Dev) (c : HostCmd) (rest : List HostItem) (st : Status) (v0 : Word) (v1 : Word64) (fl : Nat)
    (hstream : d.hcp.stream = .cmd c :: rest) (hpost : c.post = false) (hheld : d.tagHeld c.tag = true) :
    d.done c st v0 v1 fl = d.responds c.tag rest st v0 v1 fl := by
  unfold Dev.tagHeld at hheld
  simp [Dev.done, Dev.complete, Dev.tagHeld, Dev.setHcp, Dev.responds, hstream, hpost, hheld]

/-- A command at the front waits for its own step. -/
theorem Dev.drain_of_cmd (d : Dev) (h : ∀ i, d.hcp.stream.head? = some i → ∃ b, i = .cmd b) : d.drain = d := by
  unfold Dev.drain Dev.drainN
  split
  · rfl
  · split
    · next e => obtain ⟨b, hb⟩ := h _ (by rw [e]; rfl); cases hb
    · next e => obtain ⟨b, hb⟩ := h _ (by rw [e]; rfl); cases hb
    · rfl

theorem Dev.responds_reg (d : Dev) (tag : Nat) (rest : List HostItem) (st : Status) (v0 : Word) (v1 : Word64) (fl a : Nat) :
    (d.responds tag rest st v0 v1 fl).reg a = d.reg a := rfl

theorem Dev.front_of_fronts {d : Dev} {c : HostCmd} {opc : Nat} {tag : Fin 16} {rest : List HostItem}
    (h : d.Fronts c opc tag rest) : d.front opc tag = some c := by
  obtain ⟨hstream, hopc, htag, -, -, hledger, hcore, -⟩ := h
  simp [Dev.front, hstream, hopc, htag, hledger, hcore]

/-! ### SYS_FEAT_ACCEPT -/

/-- SYS_FEAT_ACCEPT as one word. -/
def Dev.acceptWord (d : Dev) : Word64 := d.reg F.sysFeatAcceptHi.addr ++ d.reg F.sysFeatAcceptLo.addr

theorem Dev.get64_accept (d : Dev) : BitVec.ofNat 64 (d.get64 F.sysFeatAcceptLo F.sysFeatAcceptHi) = d.acceptWord := by
  apply BitVec.eq_of_toNat_eq
  have := (d.acceptWord).isLt
  rw [Dev.acceptWord, append_toNat] at this ⊢
  simp only [Dev.get64, Dev.get, F.sysFeatAcceptLo, F.sysFeatAcceptHi, bitsOf_whole, BitVec.toNat_ofNat] at this ⊢
  exact Nat.mod_eq_of_lt this

/-- SYS_FEAT_ACCEPT takes a set. -/
theorem Dev.acceptWord_put64 (d : Dev) (w : Word64) :
    (d.put64 F.sysFeatAcceptLo F.sysFeatAcceptHi w.toNat).acceptWord = w := by
  have hlo : (d.put64 F.sysFeatAcceptLo F.sysFeatAcceptHi w.toNat).reg F.sysFeatAcceptLo.addr
      = BitVec.ofNat 32 (w.toNat % 2 ^ 32) := by
    rw [Dev.put64, Dev.reg_put_other _ _ _ _ (by decide), Dev.put, Dev.reg_setReg_same]
    exact insBits_ofNat _ _
  have hhi : (d.put64 F.sysFeatAcceptLo F.sysFeatAcceptHi w.toNat).reg F.sysFeatAcceptHi.addr
      = BitVec.ofNat 32 (w.toNat / 2 ^ 32) := by
    rw [Dev.put64, Dev.put, Dev.reg_setReg_same]
    exact insBits_ofNat _ _
  apply BitVec.eq_of_toNat_eq
  have := w.isLt
  rw [Dev.acceptWord, hlo, hhi, append_toNat, BitVec.toNat_ofNat, BitVec.toNat_ofNat]
  omega

/-! ### The active set -/

/-- The features of Table 0.4 that need SWARM. -/
theorem needsSwarm_mask (i : Nat) (h : i < 64) : (0x5C#64).getLsbD i
    = decide (i = Feat.housePhase ∨ i = Feat.strike ∨ i = Feat.sentinel ∨ i = Feat.ltcOut) := by
  revert i
  decide

/-- The set that NEGOTIATE asks for, bit by bit: offered and accepted, and its requirement met (R14). -/
theorem Dev.wanted_eq (d : Dev) : d.wanted = BitVec.ofNat 64 (((List.range 64).map fun f =>
    if (d.offerSet &&& d.acceptWord).getLsbD f && ((d.offerSet &&& d.acceptWord).getLsbD Feat.swarm
      || !decide (f = Feat.housePhase ∨ f = Feat.strike ∨ f = Feat.sentinel ∨ f = Feat.ltcOut)) then 2 ^ f else 0).sum) := by
  apply BitVec.eq_of_getLsbD_eq
  intro i hi
  rw [getLsbD_sum_powers]
  simp only [Dev.wanted, d.get64_accept]
  split
  · next hs => simp [hs, hi]
  · next hs =>
    rw [BitVec.getLsbD_and, BitVec.getLsbD_not, needsSwarm_mask i hi]
    simp [hs, hi]

/-- The device with `set` active: SYS_FEAT_ACCEPT shows it and HCP_STATUS.NEGOTIATED is 1. -/
def Dev.activate (d : Dev) (set : Word64) : Dev :=
  ((d.setHcp fun h => { h with active := set }).put64 F.sysFeatAcceptLo F.sysFeatAcceptHi set.toNat).put F.hcpStatusNegotiated 1

theorem Dev.activate_hcp (d : Dev) (set : Word64) : (d.activate set).hcp = { d.hcp with active := set } := rfl

theorem Dev.activate_acceptWord (d : Dev) (set : Word64) : (d.activate set).acceptWord = set := by
  have h := (d.setHcp fun h => { h with active := set }).acceptWord_put64 set
  unfold Dev.acceptWord at h ⊢
  unfold Dev.activate
  rw [Dev.reg_put_other _ _ _ _ (by decide), Dev.reg_put_other _ _ _ _ (by decide)]
  exact h

theorem Dev.activate_negotiated (d : Dev) (set : Word64) : (d.activate set).on F.hcpStatusNegotiated = true := by
  unfold Dev.activate Dev.on
  rw [Dev.get_put_same _ _ _ (by decide)]
  rfl

/-- Whether a feature in use would leave (R227). -/
def Dev.losesUse (d : Dev) : Bool := (List.range 64).any fun f => d.feature f && !d.wanted.getLsbD f && d.inUse f

theorem Dev.losesUse_iff (d : Dev) :
    d.losesUse = true ↔ ∃ f, d.feature f = true ∧ d.wanted.getLsbD f = false ∧ d.inUse f = true := by
  have hlt (f : Nat) (h : d.feature f = true) : f < 64 := BitVec.lt_of_getLsbD h
  simp only [Dev.losesUse, List.any_eq_true, List.mem_range, Bool.and_eq_true, Bool.not_eq_true', and_assoc]
  exact ⟨fun ⟨f, _, h⟩ => ⟨f, h⟩, fun ⟨f, h⟩ => ⟨f, hlt f h.1, h⟩⟩

/-- What NEGOTIATE answers. -/
def Dev.negotiateStatus (d : Dev) : Status := if d.losesUse then .estate else .ok

/-- The set that is active after NEGOTIATE. -/
def Dev.negotiateSet (d : Dev) : Word64 := if d.losesUse then d.hcp.active else d.wanted

/-- The device after NEGOTIATE `c` at the front of the stream. -/
def Dev.negotiated (d : Dev) (tag : Nat) (rest : List HostItem) : Dev :=
  (d.activate d.negotiateSet).responds tag rest d.negotiateStatus 0 d.negotiateSet

/-- NEGOTIATE at the front of the stream, in form and with no TRIGGER open. -/
theorem Dev.cmdNegotiate_fronts (d : Dev) (tag : Fin 16) (c : HostCmd) (rest : List HostItem) (hfront : d.Fronts c 0x01 tag rest)
    (hopen : d.trigOpen = false) (himm : c.imm = false) (hdue : c.due = 0) :
    d.cmdNegotiate tag = d.negotiated tag rest := by
  have hfrontSome := Dev.front_of_fronts hfront
  obtain ⟨hstream, hopc, htag, hpost, hheld, -, -, -⟩ := hfront
  have hcheck : d.cmdCheck c = .ok := by
    simp [Dev.cmdCheck, Dev.cmdFeature, HostCmd.timeOk, HostCmd.argsOk, isTimed, cmdLen, hopc, himm, hdue]
  have hdone := (d.activate d.negotiateSet).done_front c rest d.negotiateStatus 0 d.negotiateSet 0 hstream hpost (htag ▸ hheld)
  rw [htag] at hdone
  rw [Dev.negotiated, ← hdone]
  simp only [Dev.cmdNegotiate, hfrontSome, hcheck, hopen]
  rfl

/-- A NEGOTIATE that takes no feature in use away. -/
theorem Dev.negotiated_of_keeps (d : Dev) (tag : Nat) (rest : List HostItem) (h : d.losesUse = false) :
    d.negotiated tag rest = (d.activate d.wanted).responds tag rest .ok 0 d.wanted := by
  simp [Dev.negotiated, Dev.negotiateSet, Dev.negotiateStatus, h]

/-- A NEGOTIATE that would take one away (R227). -/
theorem Dev.negotiated_of_loses (d : Dev) (tag : Nat) (rest : List HostItem) (h : d.losesUse = true) :
    d.negotiated tag rest = (d.activate d.hcp.active).responds tag rest .estate 0 d.hcp.active := by
  simp [Dev.negotiated, Dev.negotiateSet, Dev.negotiateStatus, h]

/-- NEGOTIATE at the front of the stream leaves the negotiated device: a command behind it waits for its own step. -/
theorem negotiate_leaves (tag : Fin 16) (c : HostCmd) (rest : List HostItem) (s : State) (hfront : s.dev.Fronts c 0x01 tag rest)
    (hopen : s.dev.trigOpen = false) (himm : c.imm = false) (hdue : c.due = 0) :
    exec (.negotiate tag) s = .next { s with dev := s.dev.negotiated tag rest } := by
  obtain ⟨-, -, -, -, -, -, -, hrest⟩ := id hfront
  rw [exec_negotiate, State.effect, s.dev.cmdNegotiate_fronts tag c rest hfront hopen himm hdue,
    Dev.drain_of_cmd (s.dev.negotiated tag rest) hrest]

/-- Settles O31: the set asked for is the one R14 describes, bit by bit, and what NEGOTIATE leaves is known. -/
theorem negotiatedSet : Obligations.NegotiatedSet := by
  intro s tag c rest hfront hopen himm hdue _ d offer both needs want
  have hwant : want = d.wanted := d.wanted_eq.symm
  have hrun := negotiate_leaves tag c rest s hfront hopen himm hdue
  clear_value want
  subst hwant
  refine ⟨fun hkeep => ⟨_, hrun, rfl, ?_⟩, fun hlose => ⟨_, hrun, rfl, ?_⟩⟩
  · dsimp only
    rw [s.dev.negotiated_of_keeps tag rest (Bool.eq_false_iff.2 (mt s.dev.losesUse_iff.1 hkeep))]
    refine ⟨rfl, ?_, ?_, rfl, rfl⟩
    · rw [Dev.responds_reg, Dev.responds_reg]
      exact s.dev.activate_acceptWord _
    · rw [Dev.on, Dev.get, Dev.responds_reg]
      exact s.dev.activate_negotiated _
  · dsimp only
    rw [s.dev.negotiated_of_loses tag rest (s.dev.losesUse_iff.2 hlose)]
    exact ⟨rfl, rfl, rfl⟩

end Sys2Proof.Machine
end

section
/-! SUPPORT. The ledger (R45, R46, R49, R50, R148, R154): whose request it answers, what an answer can change, and its decision for a
VOFF. -/

namespace Sys2Proof.Machine

theorem exec_ledgerAdmission (s : State) : exec .ledgerAdmission s = s.effect Dev.ledgerStep := rfl

/-! ### A counter that counts one event -/

theorem Dev.get_bump_same (d : Dev) (f : Fld) (h : f.lo + f.w ≤ 32) :
    (d.bump f).get f = min (2 ^ f.w - 1) (d.get f + 1) := by
  have hpos := Nat.two_pow_pos f.w
  rw [Dev.bump, Dev.bumpBy, d.get_put_same f _ h]
  exact Nat.mod_eq_of_lt (by omega)

theorem Dev.get_bump_other (d : Dev) (f g : Fld) (h : g.addr ≠ f.addr) : (d.bump f).get g = d.get g :=
  d.get_put_other f g _ h

/-! ### The queue in order of due time (R154) -/

theorem queueInsert_splits (e : QEntry) (l : List QEntry) :
    ∃ before after, l = before ++ after ∧ queueInsert e l = before ++ e :: after
      ∧ (∀ q ∈ before, q.due ≤ e.due) ∧ (∀ q, after.head? = some q → e.due < q.due) := by
  induction l with
  | nil => exact ⟨[], [], rfl, rfl, by simp, by simp⟩
  | cons x l ih =>
    by_cases h : e.due < x.due
    · exact ⟨[], x :: l, rfl, by simp [queueInsert, h], by simp, by simpa using h⟩
    · obtain ⟨before, after, hl, hins, hbefore, hafter⟩ := ih
      refine ⟨x :: before, after, by rw [hl]; rfl, by simp [queueInsert, h, hins], ?_, hafter⟩
      intro q hq
      rcases List.mem_cons.1 hq with rfl | hq
      · omega
      · exact hbefore q hq

/-! ### What an answer can change -/

/-- Admission changes the allocator and its counters alone. -/
theorem Dev.ledgerAdmit_frame (d : Dev) (r : SwReq) :
    (d.ledgerAdmit r).2 = { d with alc := (d.ledgerAdmit r).2.alc, regs := (d.ledgerAdmit r).2.regs } := by
  unfold Dev.ledgerAdmit
  dsimp only
  split
  · rfl
  · split
    · rfl
    · rfl
    · split
      · rfl
      · split <;> rfl

/-- The request that thread `n` waits with. -/
def Dev.openReq (d : Dev) (n : Nat) : Option SwReq :=
  match (d.thread n).outst with
  | some ⟨_, r, none⟩ => some r
  | _ => none

theorem Dev.openReq_some {d : Dev} {n rd : Nat} {r : SwReq} (h : (d.thread n).outst = some ⟨rd, r, none⟩) :
    d.openReq n = some r := by
  rw [Dev.openReq, h]

theorem Dev.openReq_none {d : Dev} {n : Nat} (h : ∀ o, (d.thread n).outst = some o → o.ans ≠ none) : d.openReq n = none := by
  unfold Dev.openReq
  split
  · next rd r ho => exact absurd rfl (h _ ho)
  · rfl

/-- The first number of a range at which `f` has a value. -/
theorem findSome?_range_first {α : Type} (f : Nat → Option α) (k n : Nat) (x : α) (hn : n < k) (hx : f n = some x)
    (hfirst : ∀ m, m < n → f m = none) : (List.range k).findSome? (fun m => (f m).map fun y => (m, y)) = some (n, x) := by
  obtain ⟨j, rfl⟩ : ∃ j, k = n + (j + 1) := ⟨k - n - 1, by omega⟩
  rw [List.range_add, List.findSome?_append, List.findSome?_eq_none_iff.2, List.range_succ_eq_map]
  · simp [hx]
  · intro m hm
    rw [hfirst m (List.mem_range.1 hm)]
    rfl

/-- Without a request of the host, the ledger answers the first thread that waits. -/
theorem Dev.ledgerStep_thread (d : Dev) (n : Nat) (r : SwReq) (hn : n < 16) (hcore : d.coreOn = true)
    (hhost : d.hcp.ledgerReq = none) (hopen : d.openReq n = some r) (hfirst : ∀ m, m < n → d.openReq m = none) :
    d.ledgerStep = (d.ledgerAdmit r).2.modThread n fun x =>
      { x with outst := x.outst.map fun o => { o with ans := some (d.ledgerAdmit r).1 } } := by
  have hstep : d.ledgerStep = match (List.range 16).findSome? (fun m => (d.openReq m).map fun y => (m, y)) with
      | none => d
      | some (m, y) => (d.ledgerAdmit y).2.modThread m fun x =>
        { x with outst := x.outst.map fun o => { o with ans := some (d.ledgerAdmit y).1 } } := by
    simp only [Dev.ledgerStep, hcore, hhost]
    rfl
  rw [hstep, findSome?_range_first d.openReq 16 n r hn hopen hfirst]

/-- The waiting thread takes the answer into its slot; every other thread, the swarm and the memory stay. -/
theorem ledgerAdmission_thread (s : State) (n rd : Nat) (r : SwReq) (hn : n < 16) (hcore : s.dev.coreOn = true)
    (hhost : s.dev.hcp.ledgerReq = none) (hopen : (s.dev.thread n).outst = some ⟨rd, r, none⟩)
    (hfirst : ∀ m, m < n → ∀ o, (s.dev.thread m).outst = some o → o.ans ≠ none) :
    Leaves .ledgerAdmission s fun e =>
      e.thread n = { s.dev.thread n with outst := some ⟨rd, r, some (s.dev.ledgerAdmit r).1⟩ }
      ∧ (∀ k, k ≠ n → e.thread k = s.dev.thread k) ∧ e.swm = s.dev.swm ∧ e.mem = s.dev.mem
      ∧ e.alc = (s.dev.ledgerAdmit r).2.alc ∧ e.regs = (s.dev.ledgerAdmit r).2.regs := by
  have hstep := s.dev.ledgerStep_thread n r hn hcore hhost (Dev.openReq_some hopen)
    fun m hm => Dev.openReq_none (hfirst m hm)
  have hframe := s.dev.ledgerAdmit_frame r
  have hthread : ∀ k, (s.dev.ledgerAdmit r).2.thread k = s.dev.thread k := fun k => by rw [hframe]; rfl
  refine ⟨_, exec_ledgerAdmission s, rfl, ?_⟩
  dsimp only
  rw [hstep]
  refine ⟨?_, fun k hk => ?_, ?_, ?_, rfl, rfl⟩
  · rw [Dev.modThread, Dev.thread_setThread_same, hthread, hopen]
    rfl
  · rw [Dev.modThread, Dev.thread_setThread, if_neg hk, hthread]
  · rw [Dev.modThread_swm, hframe]
  · rw [Dev.modThread_mem, hframe]

/-- The host's request goes first: it leaves the port, and the threads stay as they are. -/
theorem ledgerAdmission_host (s : State) (q : SwReq) (hcore : s.dev.coreOn = true) (hhost : s.dev.hcp.ledgerReq = some q)
    (hstream : s.dev.hcp.stream = []) :
    Leaves .ledgerAdmission s fun e => e.cue = s.dev.cue ∧ e.hcp.ledgerReq = none := by
  have hframe := s.dev.ledgerAdmit_frame q
  have hempty : (s.dev.ledgerAdmit q).2.hcp.stream = [] := by rw [hframe]; exact hstream
  have hanswer : (s.dev.ledgerAdmit q).2.cmdAnswer (s.dev.ledgerAdmit q).1
      = (s.dev.ledgerAdmit q).2.setHcp fun h => { h with ledgerReq := none } := by
    rw [Dev.cmdAnswer, hempty]
  have hstep : s.dev.ledgerStep = (s.dev.ledgerAdmit q).2.setHcp fun h => { h with ledgerReq := none } := by
    simp only [Dev.ledgerStep, hcore, hhost, hanswer]
    exact Dev.drain_of_cmd _ fun i hi => by simp [hempty] at hi
  refine ⟨_, exec_ledgerAdmission s, rfl, ?_⟩
  dsimp only
  rw [hstep]
  exact ⟨by rw [Dev.setHcp_cue, hframe], rfl⟩

/-! ### The decision for a VOFF -/

/-- No counter of the allocator moves the grid that a due time is judged by. -/
theorem Dev.effDue_bump (d : Dev) (f : Fld) (r : SwReq) (h : F.swmCtrlRate.addr ≠ f.addr) :
    (d.bump f).effDue r = d.effDue r := by
  have hrate : (d.bump f).rate96 = d.rate96 := congrArg (· != 0) (d.get_bump_other f F.swmCtrlRate h)
  have hperiod : (d.bump f).period = d.period := by
    unfold Dev.period
    rw [hrate]
  simp only [Dev.effDue, hperiod, Dev.bump_time]

/-- No VOFF of voice `v` is admitted: admissions have stopped (R155), or it is beyond the count or a strike voice (R141). -/
def Dev.voffStopped (d : Dev) (v : Nat) : Prop := d.on F.alcCtrl = false ∨ d.voiceCount ≤ v ∨ d.strikeVoice v = true

/-- Whether R148 admits a VOFF's charge at the sample that holds its due time. -/
def Dev.voffFits (d : Dev) (r : SwReq) : Bool := d.fits (d.dueSample (d.effDue r).1) 0 0 1

/-- The entry that a VOFF queues. -/
def Dev.voffEntry (d : Dev) (r : SwReq) : QEntry :=
  plainEntry r (d.effDue r) r.target (d.expectAt r.target (d.dueSample (d.effDue r).1)).fam

section
variable (d : Dev) (r : SwReq) (hop : r.op = .voff) (htarget : r.target < 128)
include hop

theorem Dev.decision_voff_stopped (hstop : d.voffStopped r.target) : d.decision r = .error .estate := by
  have hcond : (!d.on F.alcCtrl || decide (d.voiceCount ≤ r.target) || (d.strikeVoice r.target && !r.op.isParam)) = true := by
    rcases hstop with h | h | h <;> simp [h, hop, SwOp.isParam]
  simp only [Dev.decision, hop, Dev.decideVoice] at hcond ⊢
  rw [if_pos hcond]

theorem Dev.decision_voff (hgo : ¬ d.voffStopped r.target) :
    d.decision r = if d.voffFits r then .ok (d.voffEntry r) else .error .eledger := by
  obtain ⟨hon, hcount, hstrike⟩ : d.on F.alcCtrl = true ∧ ¬ d.voiceCount ≤ r.target ∧ d.strikeVoice r.target = false := by
    simpa [Dev.voffStopped] using hgo
  simp only [Dev.decision, hop, Dev.decideVoice, hon, hcount, hstrike, SwOp.isParam, Dev.voffFits, Dev.voffEntry, plainEntry,
    SwOp.charge]
  rfl

theorem Dev.named_voff (h : r.target < 128) : r.named = r.target := by
  simp only [SwReq.named, hop]
  exact Nat.mod_eq_of_lt h

include htarget

theorem Dev.reqCheck_voff : d.reqCheck r = .ok := by
  simp only [Dev.reqCheck, hop, SwOp.isParam]
  rw [if_neg (by omega)]
  rfl

/-- The answer that refuses a VOFF. -/
theorem Dev.ledgerAdmit_voff_stopped (hstop : d.voffStopped r.target) :
    d.ledgerAdmit r = (⟨.estate, r.target, false, false, (d.effDue r).1⟩, d) := by
  simp only [Dev.ledgerAdmit, d.reqCheck_voff r hop htarget, d.decision_voff_stopped r hop hstop, Dev.named_voff r hop htarget]
  rfl

theorem Dev.ledgerAdmit_voff_dear (hgo : ¬ d.voffStopped r.target) (hfits : d.voffFits r = false) :
    d.ledgerAdmit r = (⟨.eledger, r.target, false, false, (d.effDue r).1⟩, d.bump F.alcCntRefuse) := by
  simp only [Dev.ledgerAdmit, d.reqCheck_voff r hop htarget, d.decision_voff r hop hgo, hfits, Dev.named_voff r hop htarget,
    ne_eq, not_true, if_false, Bool.false_eq_true, d.effDue_bump F.alcCntRefuse r (by decide)]

theorem Dev.ledgerAdmit_voff_full (hgo : ¬ d.voffStopped r.target) (hfits : d.voffFits r = true)
    (hroom : d.queueRoom r.imm = false) :
    d.ledgerAdmit r = (⟨.eqfull, r.target, false, false, (d.effDue r).1⟩, d.bump F.alcCntQfull) := by
  simp only [Dev.ledgerAdmit, d.reqCheck_voff r hop htarget, d.decision_voff r hop hgo, hfits, hroom, Dev.named_voff r hop htarget,
    ne_eq, not_true, if_true, if_false, Bool.not_false, d.effDue_bump F.alcCntQfull r (by decide)]

theorem Dev.ledgerAdmit_voff_taken (hgo : ¬ d.voffStopped r.target) (hfits : d.voffFits r = true)
    (hroom : d.queueRoom r.imm = true) :
    d.ledgerAdmit r = (⟨if (d.effDue r).2 then .late else .ok, r.target, false, false, (d.effDue r).1⟩,
      ((d.enqueue (d.voffEntry r)).bump F.alcCntAdmit).whenB (d.effDue r).2 fun e => e.bump F.alcCntLate) := by
  simp only [Dev.ledgerAdmit, d.reqCheck_voff r hop htarget, d.decision_voff r hop hgo, hfits, hroom]
  rfl

end

/-- R45 and R46 as one: whether the instant has passed, and when the entry takes effect. -/
theorem Dev.effDue_eq (d : Dev) (r : SwReq) :
    d.effDue r = (if r.imm || decide (r.due ≤ (d.time.smp.toNat + 1) * d.period) then (d.time.smp.toNat + 2) * d.period else r.due,
      !r.imm && decide (r.due ≤ (d.time.smp.toNat + 1) * d.period)) := by
  unfold Dev.effDue
  cases r.imm <;> by_cases h : r.due ≤ (d.time.smp.toNat + 1) * d.period <;> simp [h]

theorem Dev.queueRoom_iff (d : Dev) (imm : Bool) : d.queueRoom imm = true ↔
    if imm then d.alc.queue.length - (d.alc.queue.filter fun q => q.imm).length + (d.alc.queue.filter fun q => q.imm).length < 1024
    else d.alc.queue.length - (d.alc.queue.filter fun q => q.imm).length
      + ((d.alc.queue.filter fun q => q.imm).length - 64) < 960 := by
  cases imm <;> simp [Dev.queueRoom]

/-- An admitted entry counts once, wherever it is late besides. -/
theorem Dev.get_admit_taken (d : Dev) (e : QEntry) (late : Bool) :
    (((d.enqueue e).bump F.alcCntAdmit).whenB late fun x => x.bump F.alcCntLate).get F.alcCntAdmit
      = min (2 ^ 32 - 1) (d.get F.alcCntAdmit + 1) := by
  have hcount := (d.enqueue e).get_bump_same F.alcCntAdmit (by decide)
  cases late
  · exact hcount
  · exact (Dev.get_bump_other _ _ _ (by decide)).trans hcount

/-! ### O27 -/

/-- Settles O27: the thread's slot takes the ledger's answer, which the decision for a VOFF gives case by case; a request of the
host's leaves the port. -/
theorem ledgerAnswers : Obligations.LedgerAnswers := by
  intro s n rd r hn hcore d x
  refine ⟨?_, fun q hhost hstream => ledgerAdmission_host s q hcore hhost hstream⟩
  intro hhost hopen hfirst hop htarget m passed late due stopped fits imms timed room answers
  obtain ⟨t, hrun, hpend, hthread, hothers, hswm, hmem, halc, hregs⟩ :=
    ledgerAdmission_thread s n rd r hn hcore hhost hopen hfirst
  have hdue : d.effDue r = (due, late) := d.effDue_eq r
  have hfits : d.voffFits r = fits := by rw [Dev.voffFits, hdue]; rfl
  have hroom : d.queueRoom r.imm = true ↔ room := d.queueRoom_iff r.imm
  have hget (f : Fld) : t.dev.get f = (d.ledgerAdmit r).2.get f := Dev.get_congr hregs f
  have answered (st : Status) (e : Dev) (P : Dev → Prop)
      (h : d.ledgerAdmit r = (⟨st, r.target, false, false, (d.effDue r).1⟩, e)) (hP : P t.dev) : answers st P := by
    refine ⟨t, hrun, hpend, ?_, hothers, hswm, hmem, hP⟩
    rw [hthread, h, hdue]
  refine ⟨fun hstop => ?_, fun hgo hdear => ?_, fun hgo hok hfull => ?_, fun hgo hok hfree => ?_⟩
  · have h := d.ledgerAdmit_voff_stopped r hop htarget hstop
    exact answered _ _ _ h ⟨by rw [halc, h], by rw [hregs, h]⟩
  · have h := d.ledgerAdmit_voff_dear r hop htarget hgo (hfits.trans hdear)
    exact answered _ _ _ h ⟨by rw [halc, h]; rfl, by rw [hget, h]; exact d.get_bump_same F.alcCntRefuse (by decide)⟩
  · have h := d.ledgerAdmit_voff_full r hop htarget hgo (hfits.trans hok) (Bool.eq_false_iff.2 (mt hroom.1 hfull))
    exact answered _ _ _ h ⟨by rw [halc, h]; rfl, by rw [hget, h]; exact d.get_bump_same F.alcCntQfull (by decide)⟩
  · have h := d.ledgerAdmit_voff_taken r hop htarget hgo (hfits.trans hok) (hroom.2 hfree)
    rw [hdue] at h
    obtain ⟨before, after, hsplit, hins, hbefore, hafter⟩ :=
      queueInsert_splits { d.voffEntry r with seq := d.alc.seq } d.alc.queue
    refine answered _ _ _ (by rw [hdue]; exact h) ⟨by rw [hget, h]; exact d.get_admit_taken _ _, before, after, _, hsplit, ?_,
      hbefore, hafter, hop, rfl, ?_, rfl, rfl⟩
    · rw [halc, h]
      cases late <;> exact hins
    · simp only [Dev.voffEntry, plainEntry, hdue]

end Sys2Proof.Machine
end

section
/-! SUPPORT. What recording and rendering leave alone: applied values, house time, setters, the life cycle, and the registers that
hold configuration or run control. -/

namespace Sys2Proof.Machine

/-- A field with a shadow (R41). -/
def Access.staged : Access → Bool
  | .rws _ => true
  | _ => false

/-- Registers that no record, counter, view or render writes: those with STAGED fields, BLOCK_STICKY of every block, and
SWM_CTRL, SWM_STATUS and PWR_STATUS. -/
def steady (a : Nat) : Bool :=
  (regFields a).any (fun f => f.acc.staged) || decide (a % 0x400 = 0x3F8)
    || decide (a ∈ [F.swmCtrlRun.addr, F.swmStatusRunning.addr, F.pwrStatusState.addr])

/-- What is left alone. -/
structure Kept where
  applied : Tab Word
  time : TimeS
  setters : Tab Nat
  sys : SysS
  regs : Nat → Word

/-- The part of the device that records and renders leave alone. -/
def Dev.kept (d : Dev) : Kept := ⟨d.applied, d.time, d.setters, d.sys, fun a => if steady a then d.reg a else 0⟩

theorem steady_staged {a : Nat} {f : Field} {pt : ApplyPoint} (hf : f ∈ regFields a) (hacc : f.acc = .rws pt) : steady a = true := by
  have hany : (regFields a).any (fun f => f.acc.staged) = true := List.any_eq_true.2 ⟨f, hf, by rw [hacc]; rfl⟩
  simp [steady, hany]

section
variable {d e : Dev} (h : e.kept = d.kept)
include h

theorem Dev.applied_of_kept : e.applied = d.applied := congrArg Kept.applied h
theorem Dev.time_of_kept : e.time = d.time := congrArg Kept.time h
theorem Dev.setters_of_kept : e.setters = d.setters := congrArg Kept.setters h
theorem Dev.sys_of_kept : e.sys = d.sys := congrArg Kept.sys h
theorem Dev.reg_of_kept {a : Nat} (ha : steady a = true) : e.reg a = d.reg a := by
  have := congrFun (congrArg Kept.regs h) a
  simpa [Dev.kept, ha] using this
theorem Dev.get_of_kept (f : Fld) (ha : steady f.addr = true) : e.get f = d.get f := by
  rw [Dev.get, Dev.get, Dev.reg_of_kept h ha]

end

section
variable (d : Dev)

/-! ### Registers -/

theorem Dev.kept_setReg (a : Nat) (w : Word) (h : steady a = false) : (d.setReg a w).kept = d.kept := by
  have hregs : (fun b => if steady b then (d.setReg a w).reg b else 0) = fun b => if steady b then d.reg b else 0 := by
    funext b
    by_cases hb : b = a
    · simp [hb, h]
    · rw [Dev.reg_setReg, if_neg hb]
  exact congrArg (Kept.mk d.applied d.time d.setters d.sys) hregs

theorem Dev.kept_put (f : Fld) (v : Nat) (h : steady f.addr = false) : (d.put f v).kept = d.kept := d.kept_setReg _ _ h
theorem Dev.kept_bumpBy (f : Fld) (n : Nat) (h : steady f.addr = false) : (d.bumpBy f n).kept = d.kept := d.kept_put _ _ h
theorem Dev.kept_bump (f : Fld) (h : steady f.addr = false) : (d.bump f).kept = d.kept := d.kept_put _ _ h
theorem Dev.kept_putInt (f : Fld) (v : Int) (h : steady f.addr = false) : (d.putInt f v).kept = d.kept := d.kept_put _ _ h
theorem Dev.kept_put64 (lo hi : Fld) (v : Nat) (hlo : steady lo.addr = false) (hhi : steady hi.addr = false) :
    (d.put64 lo hi v).kept = d.kept := (Dev.kept_put _ _ _ hhi).trans (d.kept_put _ _ hlo)

/-! ### Lists of updates -/

theorem Dev.kept_each {α : Type} (l : List α) (f : α → Dev → Dev) (h : ∀ a ∈ l, ∀ e : Dev, (f a e).kept = e.kept) :
    (d.each l f).kept = d.kept :=
  l.foldlRecOn (motive := fun e : Dev => e.kept = d.kept) _ rfl fun e he a ha => (h a ha e).trans he

/-! ### Fault events -/

/-- The registers in which class `x` is counted and shown. -/
theorem steady_class : ∀ x < 10, steady (F.fltCnt x).addr = false ∧ steady (F.fltStatWcnt x).addr = false := by decide

theorem Dev.kept_dropHealth : d.dropHealth.kept = d.kept := by
  unfold Dev.dropHealth
  split <;> rfl

theorem Dev.kept_logPut (e : LogEntry) : (d.logPut e).kept = d.kept := by
  unfold Dev.logPut
  split
  · split <;> rfl
  · split
    · rfl
    · exact Dev.kept_bump _ _ (by decide)

theorem Dev.kept_fltEvent (n : Nat) : (d.fltEvent n).kept = d.kept := by
  unfold Dev.fltEvent
  split
  · rfl
  · exact d.kept_setReg _ _ (by decide)

theorem Dev.kept_setLasting (x : Nat) (hx : x < 10) (on : Bool) : (d.setLasting x on).kept = d.kept :=
  (Dev.kept_setReg _ _ _ (by decide)).trans (d.kept_put _ _ (steady_class x hx).2)

/-- An event of a class other than 0, which would move the reference loop. -/
theorem Dev.kept_fault (x : Nat) (h0 : x ≠ 0) (hx : x < 10) (w : Word) : (d.fault x w).kept = d.kept := by
  have hgo (e : Dev) (n : Nat) : (e.goLasting x n w).kept = e.kept := by
    unfold Dev.goLasting
    simp only [h0, if_false, Dev.kept_dropHealth, Dev.kept_logPut, Dev.kept_fltEvent, Dev.kept_setLasting _ x hx]
  obtain ⟨hcnt, hstat⟩ := steady_class x hx
  unfold Dev.fault
  dsimp only
  split
  · rw [hgo, Dev.kept_logPut, Dev.kept_put _ _ _ hstat, Dev.kept_bump _ _ hcnt]
    rfl
  · rw [Dev.kept_logPut, Dev.kept_put _ _ _ hstat, Dev.kept_bump _ _ hcnt]
    rfl

theorem Dev.kept_cause (n : Nat) : (d.cause n).kept = d.kept := d.kept_put _ _ (by decide)

theorem Dev.kept_classEdge (x : Nat) (hx : x < 10) : (d.classEdge x).kept = d.kept := by
  unfold Dev.classEdge Dev.goTransient
  dsimp only
  split
  · rw [Dev.kept_logPut, Dev.kept_setLasting _ x hx, Dev.kept_put _ _ _ (steady_class x hx).2]
  · exact d.kept_put _ _ (steady_class x hx).2

end

end Sys2Proof.Machine
end

section
/-! SUPPORT. Two writes of one ECLK cycle for one register (R36 to R38): the management path's and the host's. -/

namespace Sys2Proof.Machine

/-! ### The account of each request -/

/-- The side of whoever last set a field: nobody, management, or data path and cue threads. -/
theorem setterSide_cases (c : Nat) : setterSide c = 0 ∨ setterSide c = 1 ∨ setterSide c = 2 := by
  unfold setterSide
  split <;> omega

/-- The two requests in order of precedence: the management path's word, and the host's. -/
def rivals (a : Nat) (v w : Word) (posted : Bool) : List Req := [regReq .mgmt a w false, regReq .host a v posted]

theorem fieldValues_rivals (a : Nat) (v w : Word) (posted : Bool) :
    fieldValues (rivals a v w posted) a ⟨0, 32, .rw, 0⟩ = [(.mgmt, w.toNat), (.host, v.toNat)] := by
  simp [fieldValues, valuesOf, rivals, bitsOf_whole]

/-- R35 is left out of both: one value contradicts the other (R36), or both sides write the same (R38). -/
theorem Dev.splitAmong_rivals (d : Dev) (v w : Word) (a key side x : Nat) (hx : x = w.toNat ∨ x = v.toNat) :
    d.splitAmong [(.mgmt, w.toNat), (.host, v.toNat)] a key side x = .plain := by
  unfold Dev.splitAmong Dev.exempt Dev.splitOf
  by_cases h : w.toNat = v.toNat
  · have hxw : w.toNat = x := by omega
    rcases setterSide_cases (d.setter key) with h0 | h1 | h2
    · simp [h0]
    · simp [h1, Path.side]
    · simp [h2, Path.side]
  · rcases hx with rfl | rfl
    · simp [Ne.symm h]
    · simp [h]

section
variable (d e : Dev) (v w : Word) (posted : Bool) {f : Fld} (hf : f ∈ [F.htSetLo, F.htSetHi])
include hf

/-- What a write of such a register needs to know of it. -/
theorem htSet_plain : d.isHeld f.addr = false ∧ isPortal f.addr = false ∧ isLockable f.addr ⟨0, 32, .rw, 0⟩ = false
    ∧ d.present f.addr = d.reg f.addr := by
  fin_cases hf <;> exact ⟨rfl, rfl, rfl, rfl⟩

/-- One of the two requests, with the word `x`, in a cycle that began at `d`: it loses to another word of the management path's (R37), or
the register takes its word. -/
theorem Dev.fieldWrite_rivals (r : Req) (x : Word) (hr : r.addr = f.addr) (hw : reqWord r = x) (hx : x = w ∨ x = v) :
    (regFields f.addr).foldl (d.fieldWrite (rivals f.addr v w posted) r) (Met.none', e) =
      if w = x then (⟨0, true, false, false, false, none⟩, d.fieldSet r ⟨0, 32, .rw, 0⟩ x.toNat e)
      else (⟨0, false, false, true, false, none⟩, e) := by
  obtain ⟨-, -, hlock, -⟩ := htSet_plain d hf
  have hplain := d.splitAmong_rivals v w f.addr (d.fieldKey f.addr 0) r.path.side x.toNat (by rcases hx with rfl | rfl <;> simp)
  have hloses : loses [(Path.mgmt, w.toNat), (Path.host, v.toNat)] x.toNat = decide (w ≠ x) := by simp [loses, BitVec.toNat_inj]
  simp only [htSet_field hf, List.foldl, Dev.fieldWrite, hr, hw, bitsOf_whole, fieldValues_rivals, hlock, hplain, hloses, ite_self,
    Bool.false_and, Bool.false_eq_true, if_false, decide_eq_true_eq, ite_not, Met.none']

/-- The registers once such a register has taken a word. -/
theorem Dev.reg_fieldSet_htSet (r : Req) (hr : r.addr = f.addr) (x : Word) (b : Nat) :
    (d.fieldSet r ⟨0, 32, .rw, 0⟩ x.toNat e).reg b = if b = f.addr then x else e.reg b := by
  obtain ⟨hheld, -⟩ := htSet_plain d hf
  have hset : (e.setReg f.addr (insBits (e.reg f.addr) 0 32 x.toNat)).reg b = if b = f.addr then x else e.reg b := by
    rw [Dev.reg_setReg, insBits_ofNat, BitVec.ofNat_toNat, BitVec.setWidth_eq]
  unfold Dev.fieldSet
  simp only [hr, hheld, Bool.false_eq_true, if_false]
  split <;> exact hset

end

/-! ### The cycle -/

/-- What is recorded of the host's request where it loses (R36, R37). -/
def Dev.hostLost (d : Dev) (a : Nat) (posted : Bool) : Dev :=
  ((d.loser (unitOf a) .host).whenB posted fun e => e.put (F.stickyConflict (unitOf a)) 1).conflictEvent a .host

/-- The device once the management path's word stands in the register. -/
def Dev.mgmtTook (d : Dev) (a : Nat) (w : Word) : Dev := d.fieldSet (regReq .mgmt a w false) ⟨0, 32, .rw, 0⟩ w.toNat d

/-- The device after the cycle's fields: the host's equal word is taken as well, another one loses. -/
def Dev.rivalsDone (d : Dev) (a : Nat) (v w : Word) (posted : Bool) : Dev :=
  if w = v then d.fieldSet (regReq .host a v posted) ⟨0, 32, .rw, 0⟩ v.toNat (d.mgmtTook a w)
  else (d.mgmtTook a w).hostLost a posted

/-- The status of the host's request. -/
def hostStatus (v w : Word) : Status := if w = v then .ok else .econflict

section
variable (d : Dev) (v w : Word) (posted : Bool) {f : Fld} (hf : f ∈ [F.htSetLo, F.htSetHi])
  (hmgmt : d.regRefusal (regReq .mgmt f.addr w false) = .ok) (hhost : d.regRefusal (regReq .host f.addr v posted) = .ok)
include hf hmgmt hhost

theorem Dev.writeRegs_rivals :
    d.writeRegs [(0, regReq .host f.addr v posted), (1, regReq .mgmt f.addr w false)]
      = ([(1, .ok), (0, hostStatus v w)], d.rivalsDone f.addr v w posted) := by
  have hrank : byRank [(0, regReq .host f.addr v posted), (1, regReq .mgmt f.addr w false)]
      = [(1, regReq .mgmt f.addr w false), (0, regReq .host f.addr v posted)] := rfl
  have happly (e : Dev) (x : Word) : e.applyWrite f.addr x = e := by fin_cases hf <;> rfl
  have hstops : stopsLast [f.addr] = [f.addr] := by fin_cases hf <;> rfl
  have hm (e : Dev) := d.fieldWrite_rivals e v w posted hf (regReq .mgmt f.addr w false) w rfl (reqWord_regReq _ _ _ _) (.inl rfl)
  have hh (e : Dev) := d.fieldWrite_rivals e v w posted hf (regReq .host f.addr v posted) v rfl (reqWord_regReq _ _ _ _) (.inr rfl)
  have hhook (e : Dev) (x : Word) (b : Bool) : d.startHook e true f.addr x b = (.ok, e) := by
    simp only [Dev.startHook, if_true, (Dev.regHook_htSet _ d x b hf).1, (Dev.regHook_htSet e d x b hf).2]
  simp only [rivals] at hm hh
  have hdedup : [f.addr, f.addr].dedup = [f.addr] := by simp
  simp only [Dev.writeRegs, hmgmt, hhost, List.filter, hrank, Dev.fieldsOf, List.map, List.filterMap, Dev.each, regReq_addr,
    beq_self_eq_true, hm, hh, if_true, hdedup, List.foldl, happly, hstops, Dev.hooksOf, List.length]
  by_cases h : w = v
  · subst h
    simp [hhook, hostStatus, Dev.rivalsDone, Dev.mgmtTook, Met.statuses, Status.first, Status.worse]
    rfl
  · simp [h, hhook, hostStatus, Dev.rivalsDone, Dev.mgmtTook, Met.statuses, Status.first, Status.worse]
    exact ⟨by decide, rfl⟩

omit hmgmt hhost in
theorem isReg_htSet : isReg f.addr = true := by fin_cases hf <;> rfl

/-- The failures of the two requests, in the order given. -/
def hostFailures (a : Nat) (v w : Word) : Failures := if w = v then [] else [(a, .econflict)]

theorem Dev.arbitrate_rivals :
    d.arbitrate [regReq .host f.addr v posted, regReq .mgmt f.addr w false]
      = ([hostFailures f.addr v w, []], d.rivalsDone f.addr v w posted) := by
  have hrank : byRank [] = [] := rfl
  have hhost' : (hostStatus v w).isError = decide (w ≠ v) := by
    unfold hostStatus
    by_cases h : w = v <;> simp [h] <;> decide
  simp [Dev.arbitrate, isReg_htSet hf, hrank, d.writeRegs_rivals v w posted hf hmgmt hhost, Dev.writeMems, Dev.meetTurns, Dev.each,
    hhost', hostFailures]
  by_cases h : w = v <;> simp [h, hostStatus] <;> decide

/-- The senders are told of the cycle's outcome: the management path of success, the host of its failure where it posted. -/
def Dev.rivalsTold (d : Dev) (a : Nat) (v w : Word) (posted : Bool) : Dev :=
  (((d.rivalsDone a v w posted).settle d (d.liveOf [regReq .host a v posted, regReq .mgmt a w false]) (regReq .host a v posted)
    (hostFailures a v w))).lastSt .ok a false

theorem Dev.requests_rivals (hmr : d.reaches .mgmt f.addr = true) (hhr : d.reaches .host f.addr = true) :
    d.requests [regReq .host f.addr v posted, regReq .mgmt f.addr w false]
      = ([hostStatus v w, .ok], d.rivalsTold f.addr v w posted) := by
  have hne : (regReq .host f.addr v posted == regReq .mgmt f.addr w false) = false := by
    rw [beq_eq_false_iff_ne]
    exact fun h => nomatch congrArg Req.path h
  have hstatus : statusOf (hostFailures f.addr v w) = hostStatus v w := by
    unfold hostFailures hostStatus
    split <;> rfl
  simp only [Dev.requests, List.filter, regReq_path, regReq_addr, hmr, hhr, Bool.not_true, List.zip, List.zipWith,
    d.arbitrate_rivals v w posted hf hmgmt hhost, Dev.each, List.foldl, List.map, List.find?, hne, beq_self_eq_true, hstatus]
  rfl

end

/-! ### What a posted failure leaves -/

/-- The registers of the host command port, in which its failures are reported. -/
def hcpReg (a : Nat) : Bool := decide (0x3000 ≤ a ∧ a < 0x3400)

theorem recReg_hcpReg {a : Nat} (h : recReg a = false) : hcpReg a = false := by
  simp only [recReg, Bool.or_eq_false_iff, decide_eq_false_iff_not] at h
  simp only [hcpReg, decide_eq_false_iff_not]
  omega

theorem Dev.reg_put_hcp (d : Dev) (f : Fld) (x : Nat) {b : Nat} (hb : hcpReg b = false) (hf : hcpReg f.addr = true) :
    (d.put f x).reg b = d.reg b :=
  d.reg_put_other f x b (by rintro rfl; simp [hf] at hb)

/-- A posted failure reports itself in the port's registers alone (R224). -/
theorem Dev.reg_postFail (d : Dev) (st : Status) (addr : Option Nat) (opc tag : Nat) {b : Nat} (hb : hcpReg b = false) :
    (d.postFail st addr opc tag).reg b = d.reg b := by
  have hput (e : Dev) (f : Fld) (x : Nat) (hf : hcpReg f.addr = true) : (e.put f x).reg b = e.reg b := e.reg_put_hcp f x hb hf
  have hrsp (e : Dev) (g : HcpS → HcpS) : (if 16 ≤ e.shared then e else e.setHcp g).reg b = e.reg b := by split <;> rfl
  unfold Dev.postFail
  dsimp only
  rw [hrsp, Dev.cause, hput _ _ _ (by decide), Dev.bump, Dev.bumpBy]
  simp (disch := decide) only [hput]
  cases addr with
  | none => rfl
  | some a => exact hput d F.hcpPerrAddr a (by decide)

theorem Dev.reg_settle_host (d d0 : Dev) (live : List Req) (a : Nat) (v : Word) (posted : Bool) (fs : Failures) {b : Nat}
    (hb : hcpReg b = false) : (d.settle d0 live (regReq .host a v posted) fs).reg b = d.reg b := by
  cases posted
  · rfl
  · exact (d0.failingWords (regReq .host a v true) fs).foldlRecOn (motive := fun e : Dev => e.reg b = d.reg b) _ rfl
      fun e he x _ => (e.reg_postFail _ _ _ _ hb).trans he

/-! ### O7 -/

/-- The loser's record stays within the recording registers and the fault state; it names the host in CONF_SRC, and the conflict where the
request was posted (Table 1.6). -/
theorem Dev.hostLost_records (d : Dev) (posted : Bool) {f : Fld} (hf : f ∈ [F.htSetLo, F.htSetHi]) :
    d.FltOnly (d.hostLost f.addr posted) ∧ (d.hostLost f.addr posted).get (F.stickyConfSrc 0x0800) = 2
      ∧ (posted = true → (d.hostLost f.addr posted).on (F.stickyConflict 0x0800) = true) := by
  have hunit : unitOf f.addr = 0x0800 := by fin_cases hf <;> rfl
  have hfault (e : Dev) (g : Fld) (hg : g.addr = 0x0BF8) : (e.conflictEvent f.addr .host).get g = e.get g :=
    Dev.get_of_kept (e.kept_fault _ (by decide) (by decide) _) g (by rw [hg]; decide)
  unfold Dev.hostLost
  rw [hunit]
  refine ⟨((d.fltOnly_loser _ _).trans (Dev.fltOnly_whenPut _ _ _ _ (by decide))).trans (Dev.fltOnly_conflictEvent _ _ _), ?_, ?_⟩
  · have hsrc : (d.loser 0x0800 .host).get (F.stickyConfSrc 0x0800) = 2 := by
      unfold Dev.loser
      rw [Dev.get_put_beside _ _ _ _ (by decide)]
      exact d.get_put_same _ _ (by decide)
    rw [hfault _ _ (by decide)]
    cases posted
    · exact hsrc
    · exact (Dev.get_put_beside _ _ _ _ (by decide)).trans hsrc
  · rintro rfl
    have hbit : ((d.loser 0x0800 .host).put (F.stickyConflict 0x0800) 1).get (F.stickyConflict 0x0800) = 1 :=
      Dev.get_put_same _ _ _ (by decide)
    have hget := (hfault ((d.loser 0x0800 .host).put (F.stickyConflict 0x0800) 1) (F.stickyConflict 0x0800) (by decide)).trans hbit
    exact congrArg (fun x => x != 0) hget

theorem Dev.reg_mgmtTook (d : Dev) (w : Word) (b : Nat) {f : Fld} (hf : f ∈ [F.htSetLo, F.htSetHi]) :
    (d.mgmtTook f.addr w).reg b = if b = f.addr then w else d.reg b :=
  d.reg_fieldSet_htSet d hf (regReq .mgmt f.addr w false) rfl w b

/-- After the cycle the register holds the management path's word, and every register but it and the records stays. -/
theorem Dev.reg_rivalsDone (d : Dev) (v w : Word) (posted : Bool) (b : Nat) (hb : recReg b = false) {f : Fld}
    (hf : f ∈ [F.htSetLo, F.htSetHi]) : (d.rivalsDone f.addr v w posted).reg b = if b = f.addr then w else d.reg b := by
  unfold Dev.rivalsDone
  split
  · next h =>
    rw [Dev.reg_fieldSet_htSet _ _ hf _ rfl, d.reg_mgmtTook w b hf, h]
    split <;> rfl
  · rw [((Dev.mgmtTook _ _ _).hostLost_records posted hf).1.reg b hb, d.reg_mgmtTook w b hf]

/-- Settles O7: the management path's word is taken first; the host's is taken after it where it is the same, and loses where not. -/
theorem requestsOfOneCycle : Obligations.RequestsOfOneCycle := by
  intro s v w posted f hf ⟨_, hmr, hmgmt⟩ ⟨_, hhr, hhost⟩
  have hreq := s.dev.requests_rivals v w posted hf hmgmt hhost hmr hhr
  have hrec : recReg f.addr = false := by fin_cases hf <;> decide
  have htold (b : Nat) (hb : hcpReg b = false) :
      (s.dev.rivalsTold f.addr v w posted).reg b = (s.dev.rivalsDone f.addr v w posted).reg b :=
    Dev.reg_settle_host _ _ _ _ _ _ _ hb
  have hreg (b : Nat) (hb : recReg b = false) :
      (s.dev.rivalsTold f.addr v w posted).reg b = if b = f.addr then w else s.dev.reg b :=
    (htold b (recReg_hcpReg hb)).trans (s.dev.reg_rivalsDone v w posted b hb hf)
  refine ⟨{ s with dev := (s.dev.rivalsTold f.addr v w posted).answer [hostStatus v w, .ok] }, ?_, rfl, ?_, ?_, ?_, ?_⟩
  · rw [exec_registerWrite, State.effect, hreq]
  · exact (hreg _ hrec).trans (if_pos rfl)
  · exact fun b hb hrb => (hreg b hrb).trans (if_neg (by simpa using hb))
  · rintro rfl
    simp [hostStatus]
  · intro hvw
    have hlost : s.dev.rivalsDone f.addr v w posted = (s.dev.mgmtTook f.addr w).hostLost f.addr posted := if_neg (Ne.symm hvw)
    have hget (g : Fld) (hg : g.addr = 0x0BF8) :
        (s.dev.rivalsTold f.addr v w posted).get g = ((s.dev.mgmtTook f.addr w).hostLost f.addr posted).get g := by
      rw [← hlost, Dev.get, Dev.get, htold _ (by rw [hg]; decide)]
    obtain ⟨-, hsrc, hbit⟩ := (s.dev.mgmtTook f.addr w).hostLost_records posted hf
    refine ⟨by simp [hostStatus, Ne.symm hvw], (hget _ (by decide)).trans hsrc, fun hp => ?_⟩
    exact (congrArg (fun x => x != 0) (hget (F.stickyConflict 0x0800) (by decide))).trans (hbit hp)

end Sys2Proof.Machine
end

section
/-! SUPPORT. The on-chip memory leaves configuration and run control alone: reads, stores, wipes and the scrubber. -/

namespace Sys2Proof.Machine

section
variable (d : Dev)

/-! ### Reads -/

theorem Dev.kept_whenB (c : Bool) (f : Dev → Dev) (h : (f d).kept = d.kept) : (d.whenB c f).kept = d.kept := by
  cases c
  · rfl
  · exact h

theorem Dev.kept_ite (c : Prop) [Decidable c] {e : Dev} (h : e.kept = d.kept) : (if c then e else d).kept = d.kept := by
  split
  · exact h
  · rfl

theorem Dev.kept_errLatch (k m a w b : Nat) : (d.errLatch k m a w b).kept = d.kept := by
  unfold Dev.errLatch
  split
  · rfl
  · simp (disch := decide) only [Dev.kept_put]

theorem Dev.kept_faultUe (l : Nat) : (d.faultUe l).kept = d.kept := by
  unfold Dev.faultUe
  exact d.kept_ite _ (Dev.kept_fault _ 4 (by decide) (by decide) _)

theorem Dev.kept_recordCe (m l w b : Nat) : (d.recordCe m l w b).kept = d.kept := by
  unfold Dev.recordCe
  rw [Dev.kept_fault _ _ (by decide) (by decide), Dev.kept_errLatch, Dev.kept_bump _ _ (by decide), Dev.kept_put _ _ _ (by decide)]

theorem Dev.kept_recordUe (m l w : Nat) : (d.recordUe m l w).kept = d.kept := by
  unfold Dev.recordUe
  rw [Dev.kept_faultUe, Dev.kept_errLatch, Dev.kept_bump _ _ (by decide), Dev.kept_put _ _ _ (by decide)]

theorem Dev.kept_recordPoison (m l : Nat) : (d.recordPoison m l).kept = d.kept := by
  unfold Dev.recordPoison
  rw [Dev.kept_faultUe, Dev.kept_errLatch, Dev.kept_bump _ _ (by decide), Dev.kept_put _ _ _ (by decide)]

theorem Dev.kept_recordVirgin (m l : Nat) : (d.recordVirgin m l).kept = d.kept := by
  unfold Dev.recordVirgin
  rw [Dev.kept_errLatch, Dev.kept_bump _ _ (by decide), Dev.kept_put _ _ _ (by decide)]

theorem Dev.kept_recordRefusal (m a w : Nat) : (d.recordRefusal m a w).kept = d.kept := by
  unfold Dev.recordRefusal
  rw [Dev.kept_errLatch, Dev.kept_bump _ _ (by decide), Dev.kept_put _ _ _ (by decide)]

theorem Dev.kept_queueCe (l : Nat) : (d.queueCe l).kept = d.kept := rfl
theorem Dev.kept_unqueue (l : Nat) : (d.unqueue l).kept = d.kept := rfl
theorem Dev.kept_setTag (l : Nat) (t : LineTag) : (d.setTag l t).kept = d.kept := rfl

theorem Dev.kept_lineDraws (l : Nat) : (d.lineDraws l).kept = d.kept := by
  unfold Dev.lineDraws
  split <;> rfl

theorem Dev.kept_grant (m a : Nat) : (d.grant m a).kept = d.kept := by
  unfold Dev.grant
  split <;> rfl

theorem Dev.kept_waitWipe (a : Nat) : (d.waitWipe a).kept = d.kept := by
  unfold Dev.waitWipe
  split
  · exact Dev.kept_put _ _ _ (by decide)
  · rfl

theorem Dev.kept_recordRead (m l : Nat) (snapshot : Bool) (s : LineState) : (d.recordRead m l snapshot s).kept = d.kept := by
  cases s with
  | virgin =>
    cases snapshot
    · exact d.kept_recordVirgin m l
    · rfl
  | clean => rfl
  | corrected k b => exact d.kept_recordCe m l k b
  | bad k => exact d.kept_recordUe m l k
  | poison => exact d.kept_recordPoison m l

theorem Dev.kept_readLine (m l : Nat) (snapshot : Bool) : (d.readLine m l snapshot).2.kept = d.kept := by
  unfold Dev.readLine
  rw [Dev.kept_recordRead, Dev.kept_lineDraws, Dev.kept_grant, Dev.kept_waitWipe]

theorem Dev.kept_readLines (m : Nat) (l : List Nat) : (d.readLines m l).2.kept = d.kept := by
  induction l generalizing d with
  | nil => rfl
  | cons a l ih => exact (ih _).trans (d.kept_readLine m a false)

theorem Dev.kept_readMem (m a n : Nat) : (d.readMem m a n).2.2.kept = d.kept := d.kept_readLines m _

/-! ### Stores -/

theorem Dev.kept_setBytes (a : Nat) (l : List Byte) : (d.setBytes a l).kept = d.kept := by
  induction l generalizing d a with
  | nil => rfl
  | cons b l ih => exact ih (d.setByte a b) (a + 1)

theorem Dev.kept_storeLine (l : Nat) (c : BitVec 2) (data : List Byte) : (d.storeLine l c data).kept = d.kept := by
  unfold Dev.storeLine
  dsimp only
  rw [Dev.kept_unqueue, Dev.kept_setTag, Dev.kept_setBytes]
  exact d.kept_ite _ (d.kept_put _ _ (by decide))

theorem Dev.kept_partialCheck (m : Nat) (c : Chunk) : (d.partialCheck m c).2.kept = d.kept := by
  unfold Dev.partialCheck
  dsimp only
  split
  · exact d.kept_lineDraws _
  · exact d.kept_lineDraws _
  · rw [Dev.kept_queueCe, Dev.kept_recordCe, Dev.kept_lineDraws]
  · rw [Dev.kept_recordRefusal, Dev.kept_unqueue, Dev.kept_setTag, Dev.kept_recordUe, Dev.kept_lineDraws]
  · rw [Dev.kept_recordRefusal, Dev.kept_recordPoison, Dev.kept_lineDraws]

theorem Dev.kept_chunkCheck (m : Nat) (c : Chunk) : (d.chunkCheck m c).2.kept = d.kept := by
  unfold Dev.chunkCheck
  split
  · rfl
  · exact d.kept_partialCheck m c

theorem Dev.kept_checkAll (m : Nat) (l : List Chunk) : (d.checkAll m l).2.kept = d.kept := by
  induction l generalizing d with
  | nil => rfl
  | cons c l ih =>
    refine (ih _).trans ?_
    rw [Dev.kept_chunkCheck, Dev.kept_grant, Dev.kept_waitWipe]

theorem Dev.kept_foldl_chunkStore (l : List (Chunk × List Byte)) : (l.foldl Dev.chunkStore d).kept = d.kept :=
  l.foldlRecOn (motive := fun e : Dev => e.kept = d.kept) _ rfl fun e he _ _ => (e.kept_storeLine _ _ _).trans he

theorem Dev.kept_writePart (m : Nat) (c : Chunk) : (d.writePart m c).kept = d.kept := by
  have hcheck : (((d.waitWipe c.1).grant m c.1).partialCheck m c).2.kept = d.kept := by
    rw [Dev.kept_partialCheck, Dev.kept_grant, Dev.kept_waitWipe]
  unfold Dev.writePart
  dsimp only
  split
  · exact (Dev.kept_storeLine _ _ _ _).trans hcheck
  · exact hcheck

theorem Dev.kept_writeWhole (m a : Nat) (data : List Byte) : (d.writeWhole m a data).2.kept = d.kept := by
  unfold Dev.writeWhole
  dsimp only
  split
  · exact (Dev.kept_foldl_chunkStore _ _).trans (d.kept_checkAll m _)
  · exact d.kept_checkAll m _

theorem Dev.kept_writeLines (m : Nat) (l : List Chunk) : (d.writeLines m l).2.kept = d.kept := by
  induction l generalizing d with
  | nil => rfl
  | cons c l ih => exact (ih _).trans (d.kept_writeWhole m _ _)

theorem Dev.kept_endRamps (l : List Nat) : (d.endRamps l).kept = d.kept := rfl

theorem Dev.kept_planStore (m : Nat) (pl : Plan) (a n : Nat) : (d.planStore m pl a n).2.kept = d.kept := by
  have hheld (l : List (Nat × Option Word)) (e : Dev) : (e.each l fun h x => x.setHeld h.1 h.2).kept = e.kept :=
    e.kept_each l _ fun _ _ _ => rfl
  unfold Dev.planStore
  dsimp only
  split
  · rw [hheld, Dev.kept_endRamps, Dev.kept_foldl_chunkStore, Dev.kept_checkAll]
  · exact (hheld _ _).trans (d.kept_checkAll m _)

/-! ### The scrubber -/

theorem Dev.kept_scrubLine : d.scrubLine.kept = d.kept := by
  unfold Dev.scrubLine
  split
  · rfl
  · exact d.kept_readLine _ _ _

theorem Dev.kept_scrubMetered : d.scrubMetered.kept = d.kept := by
  unfold Dev.scrubMetered
  split
  · rfl
  · exact d.kept_scrubLine

theorem Dev.kept_scrubBlock : d.scrubBlock.kept = d.kept := by
  have hrepeat (n : Nat) (e : Dev) : (Nat.repeat Dev.scrubMetered n e).kept = e.kept := by
    induction n generalizing e with
    | zero => rfl
    | succ n ih => exact (Dev.kept_scrubMetered _).trans (ih e)
  exact d.kept_ite (d.on F.memCtrlScrubEn && d.coreOn && decide (d.mem.pass = 0)) (hrepeat (d.get F.memCfg - d.mem.scrubbed) d)

end

end Sys2Proof.Machine
end

section
/-! SUPPORT. A sample of the swarm leaves configuration and run control alone: its render, the sentinel, binding and the snapshot. -/

namespace Sys2Proof.Machine

section
variable (d : Dev)

/-! ### Reads of a voice -/

theorem Dev.kept_waveSample (a n : Nat) : (d.waveSample a n).2.2.kept = d.kept := d.kept_readMem _ _ _

theorem Dev.kept_waveOut (w : Words) (o p : Nat) : (d.waveOut w o p).2.2.kept = d.kept :=
  (Dev.kept_waveSample _ _ _).trans (d.kept_waveSample _ _)

theorem Dev.kept_sampleOut (w : Words) (o : Nat) (pos : Int) : (d.sampleOut w o pos).2.2.kept = d.kept := by
  unfold Dev.sampleOut
  dsimp only
  split
  · rfl
  · split
    · exact d.kept_waveSample _ _
    · split
      · exact d.kept_waveSample _ _
      · exact (Dev.kept_waveSample _ _ _).trans (d.kept_waveSample _ _)

theorem Dev.kept_oscRender (c : Scene) (v : Voice) (o : Osc) (w : Words) (base field : Nat) (pt pm pw : Int) :
    (d.oscRender c v o w base field pt pm pw).2.2.2.kept = d.kept := by
  -- with `incEff` opaque: its table is nothing that the kernel should compute on the way
  obtain ⟨eff, heff⟩ : ∃ eff, eff = incEff := ⟨_, rfl⟩
  obtain ⟨render, hrender⟩ : ∃ render, render = @Dev.oscRender := ⟨_, rfl⟩
  rw [← hrender]
  delta Dev.oscRender at hrender
  rw [← heff] at hrender
  rw [hrender]
  dsimp only
  split
  · split
    · rfl
    · exact d.kept_sampleOut _ _ _
  · split
    · rfl
    · split
      · exact d.kept_waveOut _ _ _
      · rfl

theorem Dev.kept_renderVoice (c : Scene) (w : Words) (v : Voice) : (d.renderVoice c w v).2.2.kept = d.kept := by
  -- `lfoNow` and `oscRender` are opaque as well: the kernel would unfold them to compare their projections
  have hosc := @Dev.kept_oscRender
  obtain ⟨eff, heff⟩ : ∃ eff, eff = incEff := ⟨_, rfl⟩
  obtain ⟨lfo, hlfo⟩ : ∃ lfo, lfo = lfoNow := ⟨_, rfl⟩
  obtain ⟨osc, hosc'⟩ : ∃ osc, osc = @Dev.oscRender := ⟨_, rfl⟩
  obtain ⟨render, hrender⟩ : ∃ render, render = @Dev.renderVoice := ⟨_, rfl⟩
  rw [← hrender]
  rw [← hosc'] at hosc
  delta Dev.renderVoice at hrender
  rw [← heff, ← hlfo, ← hosc'] at hrender
  rw [hrender]
  exact (hosc _ _ _ _ _ _ _ _ _ _).trans (hosc _ _ _ _ _ _ _ _ _ _)

/-! ### The sentinel -/

theorem Dev.kept_setSen (s : Sentinel) : (d.setSen s).kept = d.kept := rfl
theorem Dev.kept_setVoice (v : Nat) (x : Voice) : (d.setVoice v x).kept = d.kept := rfl
theorem Dev.kept_setHusk (h : Nat) (x : Husk) : (d.setHusk h x).kept = d.kept := rfl
theorem Dev.kept_setVentry (v : Nat) (x : VEntry) : (d.setVentry v x).kept = d.kept := rfl
theorem Dev.kept_setHeld (a : Nat) (x : Option Word) : (d.setHeld a x).kept = d.kept := rfl
theorem Dev.kept_busAdd (b : Nat) (x : Int) : (d.busAdd b x).kept = d.kept := rfl

theorem Dev.kept_senShow (v b : Nat) (m a : Bool) : (d.senShow v b m a).kept = d.kept := by
  unfold Dev.senShow
  simp (disch := decide) only [Dev.kept_put64, Dev.kept_put]

theorem Dev.kept_senAbandon : d.senAbandon.kept = d.kept := by
  unfold Dev.senAbandon
  dsimp only
  split
  · rw [Dev.kept_setSen, Dev.kept_bump _ _ (by decide), Dev.kept_senShow]
  · rfl

theorem Dev.kept_senLeave (v : Nat) : (d.senLeave v).kept = d.kept := by
  unfold Dev.senLeave
  split
  · exact d.kept_senAbandon
  · rfl

theorem Dev.kept_senPublish : d.senPublish.kept = d.kept := by
  unfold Dev.senPublish
  extract_lets s
  split
  · rfl
  · extract_lets live ref bad shown d'
    have hcheck : d'.kept = d.kept := by
      refine (Dev.kept_setSen _ _).trans ((Dev.kept_bump _ _ (by decide)).trans ((Dev.kept_setReg _ _ _ (by decide)).trans
        ((Dev.kept_setReg _ _ _ (by decide)).trans (d.kept_senShow _ _ _ _))))
    refine (d'.kept_ite _ ?_).trans hcheck
    rw [Dev.kept_fault _ _ (by decide) (by decide), Dev.kept_put64 _ _ _ _ (by decide) (by decide),
      Dev.kept_put _ _ _ (by decide), Dev.kept_bump _ _ (by decide)]

theorem Dev.kept_senComplete : d.senComplete.kept = d.kept := by
  unfold Dev.senComplete
  dsimp only
  split
  · rw [Dev.kept_senPublish, Dev.kept_setSen, Dev.kept_senPublish]
  · rw [Dev.kept_setSen, Dev.kept_senPublish]

theorem Dev.kept_senBegin (n : Nat) : (d.senBegin n).kept = d.kept := by
  unfold Dev.senBegin
  extract_lets q s bs
  split
  · rfl
  · split <;> rfl

theorem Dev.kept_senRender (n v : Nat) : (d.senRender n v).kept = d.kept := by
  unfold Dev.senRender
  extract_lets s r d'
  have hstep : d'.kept = d.kept := (Dev.kept_setSen _ _).trans (d.kept_renderVoice _ _ _)
  split
  · rfl
  · exact (d'.kept_ite _ d'.kept_senComplete).trans hstep

theorem Dev.kept_modVoice (v : Nat) (f : Voice → Voice) : (d.modVoice v f).kept = d.kept := by
  unfold Dev.modVoice
  dsimp only
  split <;> rfl

/-! ### Stores of the swarm -/

theorem Dev.kept_swarmStore (a : Nat) (data : List Byte) : (d.swarmStore a data).kept = d.kept := d.kept_writeLines _ _

theorem Dev.kept_writeRt (v : Nat) (w : Words) : (d.writeRt v w).kept = d.kept :=
  d.kept_each _ _ fun c _ e => e.kept_writePart _ c

theorem Dev.kept_freeVoice (v : Nat) : (d.freeVoice v).kept = d.kept := by
  unfold Dev.freeVoice
  exact (Dev.kept_writeRt _ _ _).trans (d.kept_senLeave v)

theorem Dev.kept_molt (v n : Nat) : (d.molt v n).kept = d.kept := by
  unfold Dev.molt
  split <;> exact d.kept_senLeave v

theorem Dev.kept_huskStep (h : Nat) : (d.huskStep h).kept = d.kept := by
  unfold Dev.huskStep
  dsimp only
  split
  · rfl
  · rw [Dev.kept_setHusk, Dev.kept_ite _ _ (Dev.kept_busAdd _ _ _), Dev.kept_ite _ _ (Dev.kept_busAdd _ _ _)]

/-! ### Binding -/

theorem Dev.kept_patchCopy (p v : Nat) : (d.patchCopy p v).kept = d.kept := by
  have hread (l : List Nat) (acc : List Byte × Dev) :
      (l.foldl (fun (acc : List Byte × Dev) l =>
        let x := acc.2.readLine Master.swarm l
        (acc.1 ++ x.1.2, x.2)) acc).2.kept = acc.2.kept :=
    l.foldlRecOn (motive := fun r : List Byte × Dev => r.2.kept = acc.2.kept) _ rfl fun r hr a _ => (r.2.kept_readLine _ _ _).trans hr
  unfold Dev.patchCopy
  dsimp only
  rw [Dev.kept_each _ _ _ fun _ _ e => e.kept_setHeld _ _, Dev.kept_endRamps, Dev.kept_swarmStore]
  exact hread _ _

theorem Dev.kept_bindVoice (v fam n : Nat) (late : Bool) (a b : Int) : (d.bindVoice v fam n late a b).kept = d.kept := by
  unfold Dev.bindVoice
  dsimp only
  split
  · exact Dev.kept_bump _ _ (by decide)
  · rfl

theorem Dev.kept_bindVon (e : QEntry) (n : Nat) (alloc : Bool) (p : Option Nat) (vel dEff : Nat) :
    (d.bindVon e n alloc p vel dEff).kept = d.kept := by
  have hleave : (if ((d.voice e.voice).bound && !e.hard) = true then
      d.molt e.voice (if e.husk then e.huskLen else d.huskLen (d.voice e.voice).fam) else d.senLeave e.voice).kept = d.kept := by
    split
    · exact d.kept_molt _ _
    · exact d.kept_senLeave _
  have hcount (x : Dev) (c c' : Bool) : (if c then x.bump F.alcCntRetrig else if c' then x.bump F.alcCntMolt else x).kept = x.kept := by
    split
    · exact x.kept_bump _ (by decide)
    · exact x.kept_ite _ (x.kept_bump _ (by decide))
  have hhard (x : Dev) (c : Bool) : (if c then x.bump F.alcCntHard else x).kept = x.kept := x.kept_ite _ (x.kept_bump _ (by decide))
  have hpatch (x : Dev) (v : Nat) : (match p with
      | some p => x.patchCopy p v
      | none => x).kept = x.kept := by
    cases p with
    | none => rfl
    | some p => exact x.kept_patchCopy p v
  unfold Dev.bindVon
  dsimp only
  rw [Dev.kept_bindVoice, Dev.kept_swarmStore]
  exact (hpatch _ _).trans ((hhard _ _).trans ((hcount _ _ _).trans hleave))

theorem Dev.kept_bindParam (e : QEntry) (dEff : Nat) : (d.bindParam e dEff).kept = d.kept := by
  unfold Dev.bindParam
  dsimp only
  split
  · exact d.kept_bump _ (by decide)
  · split
    · rfl
    · split
      · split
        · split
          · exact d.kept_planStore _ _ _ _
          · exact (Dev.kept_ite _ _ (Dev.kept_setHeld _ _ _)).trans (d.kept_endRamps _)
        · rfl
      · exact d.kept_planStore _ _ _ _

theorem Dev.kept_evict (e : QEntry) : (d.evict e).kept = d.kept := by
  unfold Dev.evict
  dsimp only
  split
  · rfl
  · split
    · exact d.kept_freeVoice _
    · exact (Dev.kept_freeVoice _ _).trans (d.kept_molt _ _)

end

end Sys2Proof.Machine
end

section
/-! SUPPORT. A sample edge of the swarm leaves configuration and run control alone: the entries that bind, the snapshot, the samples. -/

namespace Sys2Proof.Machine

section
variable (d : Dev)

/-! ### Entries -/

theorem Dev.kept_bindEntry (e : QEntry) (n : Nat) : (d.bindEntry e n).kept = d.kept := by
  have hcount (x : Dev) (c : Bool) (f : Fld) (h : steady f.addr = false) : (x.whenB c fun x => x.bump f).kept = x.kept :=
    x.kept_whenB c _ (x.kept_bump f h)
  unfold Dev.bindEntry
  extract_lets dEff v was away moltsNow alc d'
  have hd : d'.kept = d.kept := rfl
  split
  · exact (Dev.kept_ite _ _ (Dev.kept_bindVon _ _ _ _ _ _ _)).trans hd
  · exact (Dev.kept_ite _ _ (Dev.kept_modVoice _ _ _)).trans hd
  · exact ((Dev.kept_evict _ _).trans (hcount _ _ F.alcCntHard (by decide))).trans hd
  · rename_i evicted _ _
    refine (Dev.kept_setVentry _ _ _).trans ?_
    unfold evicted
    split
    · exact hd
    · exact ((Dev.kept_evict _ _).trans ((hcount _ _ F.alcCntHard (by decide)).trans (hcount _ _ F.alcCntMolt (by decide)))).trans hd
  · exact hd
  · exact (Dev.kept_bindParam _ _ _).trans hd

theorem Dev.kept_carry (e : QEntry) : (d.carry e).kept = d.kept := by
  unfold Dev.carry
  dsimp only
  split
  · rfl
  · exact d.kept_bump F.alcCntLate (by decide)

theorem Dev.kept_bindList (n : Nat) (carry : Bool) (l : List QEntry) : (d.bindList n carry l).kept = d.kept := by
  induction l generalizing d with
  | nil => rfl
  | cons e l ih =>
    unfold Dev.bindList
    extract_lets d'
    split
    · exact d.kept_each _ _ fun q _ x => x.kept_carry q
    · exact (ih _).trans (d.kept_bindEntry e n)

theorem Dev.kept_markHard (n : Nat) : (d.markHard n).kept = d.kept :=
  d.kept_each _ _ fun _ _ x => x.kept_ite _ (x.kept_modVoice _ _)

theorem Dev.kept_discardAll (l : List QEntry) : (d.discardAll l).kept = d.kept :=
  (Dev.kept_bumpBy _ _ _ (by decide)).trans (d.kept_each _ _ fun _ _ _ => rfl)

/-! ### The snapshot -/

theorem Dev.kept_rampStep (tau : Nat) : (d.rampStep tau).2.kept = d.kept := by
  unfold Dev.rampStep
  extract_lets vals d'
  refine d.kept_each _ _ fun x _ e => ?_
  split
  · split <;> exact e.kept_swarmStore _ _
  · rfl

theorem Dev.kept_swm (x : SwmS) : ({ d with swm := x } : Dev).kept = d.kept := rfl

theorem Dev.kept_keepSnap (v : Nat) (l : List Byte) (vals : List (Ramp × Nat)) : (d.keepSnap v l vals).kept = d.kept := rfl

theorem Dev.kept_snapRead (v : Nat) : (d.snapRead v).2.2.kept = d.kept :=
  (List.range 10).foldlRecOn (motive := fun r : List Byte × Bool × Dev => r.2.2.kept = d.kept) _ rfl
    fun r hr _ _ => (r.2.2.kept_readLine _ _ true).trans hr

theorem Dev.kept_snapVoice (v : Nat) (vals : List (Ramp × Nat)) : (d.snapVoice v vals).kept = d.kept := by
  unfold Dev.snapVoice
  extract_lets r d1 swm d2 x
  have h1 : d1.kept = d.kept := (r.2.2.kept_keepSnap v _ _).trans (d.kept_snapRead v)
  have h2 : d2.kept = d.kept := (d1.kept_ite _ (d1.kept_swm _)).trans h1
  exact (d2.kept_ite _ (d2.kept_modVoice _ _)).trans h2

theorem Dev.kept_glfoStep (n g : Nat) (hg : g < 4) : (d.glfoStep n g).kept = d.kept := by
  have hval : ∀ g < 4, steady (F.swmGlfoVal g).addr = false := by decide
  exact Dev.kept_putInt _ _ _ (hval g hg)

theorem Dev.kept_bindSample (n : Nat) : (d.bindSample n).kept = d.kept := by
  unfold Dev.bindSample
  extract_lets tau swm alc d1 due passed d2 r d3 swm' d4 d5 strikes
  have h1 : d1.kept = d.kept := rfl
  split
  · exact (d1.kept_discardAll _).trans h1
  · have h2 : d2.kept = d.kept := by
      unfold d2
      rw [Dev.kept_markHard, Dev.kept_bindList, h1]
    have h3 : d3.kept = d.kept := by
      unfold d3 r
      rw [Dev.kept_each _ _ _ fun g hg e => e.kept_glfoStep n g (List.mem_range.1 hg), Dev.kept_rampStep, h2]
    have h4 : d4.kept = d.kept := h3
    have h5 : d5.kept = d.kept := (d4.kept_each _ _ fun v _ e => e.kept_snapVoice v r.1).trans h4
    exact (Dev.kept_senBegin _ n).trans ((d5.kept_each _ _ fun v _ e => e.kept_keepSnap v _ r.1).trans h5)

/-! ### The samples -/

theorem Dev.kept_countFlags (v : Nat) (f : Flags) : (d.countFlags v f).kept = d.kept := by
  have hone (x : Dev) (c : Bool) (g : Fld) (h : steady g.addr = false) : (if c then x.bump g else x).kept = x.kept :=
    x.kept_ite _ (x.kept_bump g h)
  unfold Dev.countFlags
  dsimp only
  rw [hone _ _ _ (by decide), hone _ _ _ (by decide), hone _ _ _ (by decide), hone _ _ _ (by decide), hone _ _ _ (by decide)]

theorem Dev.kept_renderOne (n v : Nat) : (d.renderOne n v).kept = d.kept := by
  unfold Dev.renderOne
  extract_lets w r d1 d2 d3
  have h1 : d1.kept = d.kept := (Dev.kept_senRender _ n v).trans ((Dev.kept_countFlags _ v _).trans
    ((Dev.kept_setVoice _ v _).trans (d.kept_renderVoice _ _ _)))
  have h2 : d2.kept = d.kept := (d1.kept_ite _ (d1.kept_busAdd _ _)).trans h1
  have h3 : d3.kept = d.kept := (d2.kept_ite _ (d2.kept_busAdd _ _)).trans h2
  exact (d3.kept_writeRt v w).trans h3

theorem Dev.kept_finishSample (n : Nat) : (d.finishSample n).kept = d.kept := by
  unfold Dev.finishSample
  extract_lets swm d1 d2 d3
  have h2 : d2.kept = d.kept := d1.kept_each _ _ fun v _ e => e.kept_renderOne n v
  have h3 : d3.kept = d.kept := (d2.kept_each _ _ fun h _ e => e.kept_huskStep h).trans h2
  exact (d3.kept_each _ _ fun v _ e => e.kept_freeVoice v).trans h3

theorem Dev.kept_engineLosses : d.engineLosses.kept = d.kept := by
  have hconf (e : Dev) (m n : Nat) (hm : m < 2) : (e.confBy m n).kept = e.kept := by
    unfold Dev.confBy
    match m, hm with
    | 0, _ => exact e.kept_bumpBy F.memCntConfSwm n (by decide)
    | 1, _ => exact e.kept_bumpBy F.memCntConfCue n (by decide)
  unfold Dev.engineLosses
  extract_lets swarm cue
  exact d.kept_ite _ ((hconf _ Master.cue _ (by decide)).trans (hconf _ Master.swarm _ (by decide)))

/-! ### The strike path -/

theorem Dev.kept_freeTag (t : Nat) : (d.freeTag t).kept = d.kept := rfl

theorem Dev.kept_postFail (st : Status) (addr : Option Nat) (opc tag : Nat) : (d.postFail st addr opc tag).kept = d.kept := by
  have hrsp (e : Dev) (g : HcpS → HcpS) : (if 16 ≤ e.shared then e else e.setHcp g).kept = e.kept := by split <;> rfl
  unfold Dev.postFail
  dsimp only
  rw [hrsp, Dev.kept_cause, Dev.kept_bump _ _ (by decide)]
  simp (disch := decide) only [Dev.kept_put]
  cases addr with
  | none => rfl
  | some a => exact d.kept_put F.hcpPerrAddr a (by decide)

theorem Dev.kept_trigOutcome (src tag : Nat) (posted : Bool) (st : Status) (onset : Word64) :
    (d.trigOutcome src tag posted st onset).kept = d.kept := by
  have hcomplete : (d.complete 0x30 tag posted st 0 0 onset).kept = d.kept := by
    unfold Dev.complete
    split
    · rfl
    · split
      · exact (Dev.kept_ite _ _ (Dev.kept_postFail _ _ _ _ _)).trans (d.kept_freeTag tag)
      · rfl
  exact d.kept_ite _ hcomplete

theorem Dev.kept_strikeBind (n : Nat) (s : Strike) : (d.strikeBind n s).kept = d.kept := by
  unfold Dev.strikeBind
  extract_lets v late o husk out d1 d2 d3 d4
  have hout (e : Dev) (st : Status) : (out e st).kept = e.kept := e.kept_trigOutcome _ _ _ _ _
  split
  · exact hout _ _
  · split
    · exact (hout _ _).trans (d.kept_bump _ (by decide))
    · have h1 : d1.kept = d.kept := by
        unfold d1
        split
        · exact d.kept_senLeave v
        · rfl
      have h2 : d2.kept = d.kept := (Dev.kept_bump _ _ (by decide)).trans ((d1.kept_bindVoice _ _ _ _ _ _).trans h1)
      have h3 : d3.kept = d.kept := (d2.kept_ite _ (d2.kept_bump _ (by decide))).trans h2
      refine (hout _ _).trans (Eq.trans ?_ h3)
      simp (disch := decide) only [d4, Dev.kept_put]

theorem Dev.kept_strikeMerge (l : List Strike) : (d.strikeMerge l).2.kept = d.kept := by
  induction l with
  | nil => rfl
  | cons s l ih =>
    unfold Dev.strikeMerge
    extract_lets r
    split
    · exact ih
    · exact (Dev.kept_trigOutcome _ _ _ _ _ _).trans ((Dev.kept_bump _ _ (by decide)).trans ih)

theorem Dev.kept_openWindow (n : Nat) : (d.openWindow n).kept = d.kept := by
  unfold Dev.openWindow
  extract_lets due alc d1 r
  exact (r.2.kept_each _ _ fun s _ e => e.kept_strikeBind n s).trans (d1.kept_strikeMerge due)

end

end Sys2Proof.Machine
end

section
/-! SUPPORT. The outputs and a sample edge's other work leave configuration and run control alone. -/

namespace Sys2Proof.Machine

section
variable (d : Dev)

theorem Dev.kept_setPort (p : Nat) (x : Port) : (d.setPort p x).kept = d.kept := rfl
theorem Dev.kept_setDac (c : Nat) (x : DacCh) : (d.setDac c x).kept = d.kept := rfl
theorem Dev.kept_outp (x : OutS) : ({ d with outp := x } : Dev).kept = d.kept := rfl

theorem Dev.kept_fmuteEval : d.fmuteEval.kept = d.kept := by
  unfold Dev.fmuteEval
  simp (disch := decide) only [Dev.kept_put]

/-! ### DAC channels -/

theorem Dev.kept_putFallback (c : Nat) (on : Bool) : (d.putFallback c on).kept = d.kept := d.kept_put _ _ (by decide)

theorem Dev.kept_dacTake (c : Nat) (act : Bool) : (d.dacTake c act).kept = d.kept := by
  unfold Dev.dacTake
  extract_lets x d1
  have h1 : d1.kept = d.kept := d.kept_setDac c _
  split
  · exact h1
  · exact (d1.kept_putFallback c false).trans h1

theorem Dev.kept_dacSettle (c : Nat) : (d.dacSettle c).kept = d.kept := d.kept_dacTake c _

theorem Dev.kept_dacFactor (c : Nat) : (d.dacFactor c).kept = d.kept := rfl

theorem Dev.kept_dacFall (c j : Nat) : (d.dacFall c j).kept = d.kept := by
  unfold Dev.dacFall
  extract_lets x d1
  have h1 : d1.kept = d.kept := d.kept_setDac c _
  exact (d1.kept_ite _ ((Dev.kept_bump _ _ (by decide)).trans (d1.kept_putFallback c true))).trans h1

theorem Dev.kept_dacSearch (c : Nat) (w : Int) : (d.dacSearch c w).kept = d.kept := by
  unfold Dev.dacSearch
  extract_lets x t i crosses
  split
  · exact d.kept_setDac c _
  · split
    · exact (Dev.kept_bump _ _ (by decide)).trans ((Dev.kept_putFallback _ c false).trans (d.kept_setDac c _))
    · exact d.kept_setDac c _

theorem Dev.kept_dacCode (c : Nat) (w : Int) : (d.dacCode c w).2.kept = d.kept := by
  unfold Dev.dacCode
  extract_lets d1 x w'
  refine (d1.kept_setDac c _).trans ?_
  unfold d1
  split
  · exact (Dev.kept_dacFall _ c _).trans (d.kept_dacFactor c)
  · exact (Dev.kept_dacSearch _ c w).trans (d.kept_dacFactor c)

theorem Dev.kept_otRampEnd : d.otRampEnd.kept = d.kept := d.kept_ite _ (d.kept_outp _)

/-! ### Channel status and signatures -/

/-- The registers in which the transmitters' sent bytes and the ports' signatures are shown. -/
theorem steady_aesTxSent : ∀ x < 4, ∀ w < 6, steady (F.aesTxSent x w).addr = false := by decide
theorem steady_outSig : ∀ p < 7, steady (F.outSigVal p).addr = false ∧ steady (F.outSigBlk p).addr = false := by decide

theorem Dev.kept_aesFrame (x k : Nat) (hx : x < 4) : (d.aesFrame x k).kept = d.kept := by
  unfold Dev.aesFrame
  extract_lets p d1 bytes d2
  have h1 : d1.kept = d.kept := d.kept_ite _ (d.kept_bump _ (by decide))
  have h2 : d2.kept = d.kept :=
    (d1.kept_each _ _ fun w hw e => e.kept_put _ _ (steady_aesTxSent x hx w (List.mem_range.1 hw))).trans h1
  split
  · exact (d2.kept_setPort _ _).trans h2
  · exact d.kept_setPort _ _

theorem Dev.kept_sigPublish (p : Nat) (hp : p < 7) : (d.sigPublish p).kept = d.kept := by
  obtain ⟨hval, hblk⟩ := steady_outSig p hp
  unfold Dev.sigPublish
  extract_lets x q sig part clean d1 outp d2 h
  have h1 : d1.kept = d.kept :=
    (Dev.kept_put _ _ _ (by decide)).trans ((Dev.kept_put _ _ _ hblk).trans (d.kept_setReg _ _ hval))
  have h2 : d2.kept = d.kept := (d1.kept_outp _).trans h1
  split
  · exact h2
  · exact h2

theorem Dev.kept_sigSample (p k : Nat) (codes : List Int) (hp : p < 7) : (d.sigSample p k codes).kept = d.kept := by
  unfold Dev.sigSample
  extract_lets x q b bytes opens d1
  split
  · exact d.kept_setPort p _
  · split
    · exact d.kept_setPort p _
    · exact (d1.kept_setPort p _).trans (d.kept_ite _ (d.kept_sigPublish p hp))

/-! ### Ports -/

theorem Dev.kept_portStop (p : Nat) : (d.portStop p).kept = d.kept := by
  unfold Dev.portStop
  extract_lets d1 d2 outp
  have h2 : d2.kept = d.kept := (d1.kept_put _ _ (by decide)).trans (d.kept_setPort p _)
  split
  · refine (Dev.kept_each _ _ _ fun c _ e => ?_).trans ((d2.kept_outp _).trans h2)
    exact (Dev.kept_ite _ _ (Dev.kept_setDac _ c _)).trans (e.kept_dacSettle c)
  · exact h2

theorem Dev.kept_stage (p : Nat) (vals : List Int) (k : Nat) (hp : p < 7) : (d.stage p vals k).kept = d.kept := by
  have hcodes (ws : List (Int × Nat)) : (ws.foldl (fun (acc : List Int × Dev) w =>
      let y := acc.2.dacCode w.2 w.1
      (acc.1 ++ [y.1], y.2)) ([], d)).2.kept = d.kept :=
    ws.foldlRecOn (motive := fun r : List Int × Dev => r.2.kept = d.kept) _ rfl fun r hr w _ => (r.2.kept_dacCode _ _).trans hr
  unfold Dev.stage
  extract_lets x m ws r d1 d2
  have hr : r.2.kept = d.kept := by
    unfold r
    split
    · exact hcodes _
    · rfl
  have h1 : d1.kept = d.kept := (r.2.kept_setPort p _).trans hr
  have h2 : d2.kept = d.kept := by
    unfold d2
    split
    · exact (d1.kept_aesFrame _ k (by omega)).trans h1
    · exact h1
  exact (d2.kept_sigSample p k r.1 hp).trans h2

theorem Dev.kept_portEdge (n p : Nat) (vals : List Int) (hp : p < 7) : (d.portEdge n p vals).kept = d.kept := by
  unfold Dev.portEdge
  extract_lets x zero
  split
  · rfl
  · split
    · exact d.kept_portStop p
    · split
      rename_i given rest _
      extract_lets d1
      have h1 : d1.kept = d.kept := (Dev.kept_stage _ p _ _ hp).trans (d.kept_setPort p _)
      exact (d1.kept_ite _ (d1.kept_portStop p)).trans h1

theorem Dev.kept_outputEdge (n : Nat) : (d.outputEdge n).kept = d.kept := by
  unfold Dev.outputEdge
  extract_lets d1 outp d2 vs d3 d4 d5
  have h2 : d2.kept = d.kept := (d1.kept_outp _).trans d.kept_fmuteEval
  have h3 : d3.kept = d.kept := (d2.kept_bumpBy _ _ (by decide)).trans h2
  have h4 : d4.kept = d.kept := (d3.kept_each _ _ fun p hp e => e.kept_portEdge n p _ (List.mem_range.1 hp)).trans h3
  have h5 : d5.kept = d.kept := by
    unfold d5
    split
    · exact h4
    · exact (d4.kept_each _ _ fun c _ e => (Dev.kept_dacSettle _ c).trans (e.kept_dacFactor c)).trans h4
  exact (Dev.kept_otRampEnd _).trans ((d5.kept_swm _).trans h5)

theorem Dev.kept_portStart (p : Nat) : (d.portStart p).kept = d.kept := by
  unfold Dev.portStart
  extract_lets fill next zero port d1 d2 outp
  have h2 : d2.kept = d.kept := (d1.kept_put _ _ (by decide)).trans (d.kept_setPort p _)
  split
  · rfl
  · exact (d2.kept_ite _ (d2.kept_outp _)).trans h2

/-! ### The render side of an edge, but for the stop of the swarm -/

/-- The samples of an edge: a window not yet opened opens, the sample is finished and leaves. -/
def Dev.sampleLeaves (d : Dev) (n : Nat) : Dev :=
  ((if d.strikeOn && decide (d.alc.window < n) then d.openWindow n else d).engineLosses.finishSample n).outputEdge n

theorem Dev.renderEdge_eq (n : Nat) : d.renderEdge n = ((d.sampleLeaves n).swarmStop).bindSample (n + 1) := rfl

theorem Dev.kept_sampleLeaves (n : Nat) : (d.sampleLeaves n).kept = d.kept := by
  unfold Dev.sampleLeaves
  rw [Dev.kept_outputEdge, Dev.kept_finishSample, Dev.kept_engineLosses]
  exact d.kept_ite _ (d.kept_openWindow n)

end

end Sys2Proof.Machine
end

section
/-! SUPPORT. An apply point (R41): the staged fields of the registers whose clocks run take their shadows, and no others. -/

namespace Sys2Proof.Machine

/-! ### Fields of one register -/

/-- Whether no two fields of a list overlap. -/
def apart (l : List Field) : Bool :=
  l.all fun f => l.all fun g => decide (f = g) || decide (f.lo + f.w ≤ g.lo) || decide (g.lo + g.w ≤ f.lo)

/-- The fields of a register are those of a row of the tables, BLOCK_STICKY's, BLOCK_APPLY's or none. -/
theorem regFields_cases (a : Nat) :
    (∃ r ∈ tableRows, regFields a = r.fields) ∨ regFields a = stickyFields ∨ regFields a = applyFields ∨ regFields a = [] := by
  unfold regFields
  split
  · next r hr =>
    refine .inl ⟨r, blockRows_tableRows ?_ (List.mem_of_find?_eq_some hr), rfl⟩
    by_contra hreg
    have hge : 0x8000 ≤ a := by simpa [isReg] using hreg
    have hnone : blockRows a = [] := by
      have hne (k : Nat) (hk : k < 0x20) : a / 0x400 ≠ k := by omega
      simp (disch := decide) only [blockRows, hne, if_false]
    rw [hnone] at hr
    cases hr
  · split
    · exact .inr (.inr (.inr rfl))
    · split
      · exact .inr (.inl rfl)
      · split
        · exact .inr (.inr (.inl rfl))
        · exact .inr (.inr (.inr rfl))

theorem apart_blockRows : ∀ k < 32, ((blockRows (0x400 * k)).all fun r => apart r.fields) = true := by decide

theorem apart_regFields (a : Nat) : apart (regFields a) = true := by
  rcases regFields_cases a with ⟨r, hr, h⟩ | h | h | h <;> rw [h]
  · obtain ⟨k, hk, hrow⟩ := List.mem_flatMap.1 hr
    exact List.all_eq_true.1 (apart_blockRows k (List.mem_range.1 hk)) r hrow
  · decide
  · decide
  · rfl

theorem regFields_disjoint {a : Nat} {f g : Field} (hf : f ∈ regFields a) (hg : g ∈ regFields a) (h : f ≠ g) :
    f.lo + f.w ≤ g.lo ∨ g.lo + g.w ≤ f.lo := by
  have hfg := List.all_eq_true.1 (List.all_eq_true.1 (apart_regFields a) f hf) g hg
  simpa [h] using hfg

/-! ### The shadows of an apply point -/

/-- The shadows that apply at `pt`: staged fields of the listed registers that `run` admits. -/
def Dev.shadowsAt (d : Dev) (pt : ApplyPoint) (run : Nat → Bool) : List (Nat × Field) :=
  ((d.regs.map (·.1) ++ d.applied.map (·.1)).filter run).flatMap fun a =>
    ((regFields a).filter fun f => f.acc = .rws pt).map fun f => (a, f)

theorem Dev.mem_shadowsAt (d : Dev) (pt : ApplyPoint) (run : Nat → Bool) (a : Nat) (f : Field) :
    (a, f) ∈ d.shadowsAt pt run ↔
      ((a ∈ d.regs.map (·.1) ∨ a ∈ d.applied.map (·.1)) ∧ run a = true) ∧ f ∈ regFields a ∧ f.acc = .rws pt := by
  simp only [Dev.shadowsAt, List.mem_flatMap, List.mem_filter, List.mem_append, List.mem_map, Prod.mk.injEq, decide_eq_true_eq]
  constructor
  · rintro ⟨a', ha, f', hf, rfl, rfl⟩
    exact ⟨ha, hf⟩
  · rintro ⟨ha, hf⟩
    exact ⟨a, ha, f, hf, rfl, rfl⟩

/-- The device with those shadows applied. -/
def Dev.shadowed (d : Dev) (pt : ApplyPoint) (run : Nat → Bool) : Dev := (d.shadowsAt pt run).foldl Dev.applyField d

theorem Dev.applyWhere_eq (d : Dev) (pt : ApplyPoint) (run : Nat → Bool) :
    d.applyWhere pt run = if pt = .block ∧ run (F.fltWin 0).addr = true then (d.shadowed pt run).aonCopy.dropHealth
      else d.shadowed pt run := by
  have hfold : ((d.regs.map (·.1) ++ d.applied.map (·.1)).filter run).foldl (fun d a => d.applyReg pt a) d = d.shadowed pt run := by
    simp only [Dev.shadowed, Dev.shadowsAt, List.foldl_flatMap, List.foldl_map]
    rfl
  exact congrArg (fun e : Dev => if pt = .block ∧ run (F.fltWin 0).addr = true then e.aonCopy.dropHealth else e) hfold

theorem Dev.dropHealth_aside (d : Dev) : d.dropHealth = { d with flt := d.dropHealth.flt } := by
  unfold Dev.dropHealth
  split <;> rfl

/-- An apply point changes applied values, and the fault state of class 0's AON copy (R463). -/
theorem Dev.applyWhere_frame (d : Dev) (pt : ApplyPoint) (run : Nat → Bool) :
    ∃ x, d.applyWhere pt run = { d with applied := (d.shadowed pt run).applied, flt := x } := by
  have hframe := (d.applyField_foldl (d.shadowsAt pt run)).1
  rw [d.applyWhere_eq]
  split
  · have haon (e : Dev) : e.aonCopy.dropHealth = { e with flt := e.aonCopy.dropHealth.flt } := e.aonCopy.dropHealth_aside
    refine ⟨(d.shadowed pt run).aonCopy.dropHealth.flt, (haon _).trans ?_⟩
    exact congrArg (fun e : Dev => { e with flt := (d.shadowed pt run).aonCopy.dropHealth.flt }) hframe
  · exact ⟨d.flt, hframe⟩

theorem Dev.ap_shadowed (d : Dev) (pt : ApplyPoint) (run : Nat → Bool) {a : Nat} {f : Field} (hf : f ∈ regFields a)
    (hacc : f.acc = .rws pt) (hrun : run a = true) : (d.shadowed pt run).ap ⟨a, f.lo, f.w⟩ = d.get ⟨a, f.lo, f.w⟩ := by
  change bitsOf ((d.shadowed pt run).apReg a) f.lo f.w = bitsOf (d.reg a) f.lo f.w
  rw [Dev.shadowed, (d.applyField_foldl _).2]
  by_cases hlist : a ∈ d.regs.map (·.1) ∨ a ∈ d.applied.map (·.1)
  · exact copyField_listed _ _ _ ((d.mem_shadowsAt pt run a f).2 ⟨⟨hlist, hrun⟩, hf, hacc⟩)
  · rw [copyField_unlisted _ _ _ fun x hx => ?_]
    · rw [not_or] at hlist
      rw [Dev.apReg, Dev.reg, Tab.get_unlisted _ _ _ hlist.1, Tab.get_unlisted _ _ _ hlist.2]
    · rintro rfl
      exact hlist ((d.mem_shadowsAt pt run x.1 x.2).1 hx).1.1

theorem Dev.ap_shadowed_other (d : Dev) (pt : ApplyPoint) (run : Nat → Bool) {a : Nat} {f : Field} (hf : f ∈ regFields a)
    (hacc : f.acc ≠ .rws pt) : (d.shadowed pt run).ap ⟨a, f.lo, f.w⟩ = d.ap ⟨a, f.lo, f.w⟩ := by
  change bitsOf ((d.shadowed pt run).apReg a) f.lo f.w = bitsOf (d.apReg a) f.lo f.w
  rw [Dev.shadowed, (d.applyField_foldl _).2]
  refine (d.shadowsAt pt run).foldlRecOn (motive := fun r : Nat → Word => bitsOf (r a) f.lo f.w = bitsOf (d.apReg a) f.lo f.w) _ rfl
    fun r hr x hx => ?_
  unfold copyField
  split
  · next ha =>
    obtain ⟨-, hg, hgacc⟩ := (d.mem_shadowsAt pt run x.1 x.2).1 hx
    have hne : f ≠ x.2 := fun h => hacc (h ▸ hgacc)
    rw [bitsOf_insBits_other _ _ _ _ _ _ (regFields_disjoint hf (ha ▸ hg) hne), hr]
  · exact hr

end Sys2Proof.Machine
end

section
/-! SUPPORT. Edges of the grids (R28, R41): what moving house time, the counting channels, the power controller and the stop of the swarm
leave alone, and the edges as an apply point followed by the work of the edge. -/

namespace Sys2Proof.Machine

section
variable (d : Dev)

/-! ### Counting channels -/

/-- The registers that counting writes. -/
theorem steady_tcu : ∀ n < 9, steady (F.tcuChCnt n).addr = false ∧ steady (F.tcuChStatOvf n).addr = false
    ∧ steady (F.tcuChStatCmpa n).addr = false ∧ steady (F.tcuChStatCmpb n).addr = false := by decide

theorem Dev.kept_setLevel (n : Nat) (f : Bool → Bool) : (d.setLevel n f).kept = d.kept := rfl
theorem Dev.kept_setChan (n : Nat) (c : Channel) : (d.setChan n c).kept = d.kept := rfl

theorem Dev.kept_fire (n : Nat) (o a b : Bool) (hn : n < 9) : (d.fire n o a b).kept = d.kept := by
  obtain ⟨-, hovf, hcmpa, hcmpb⟩ := steady_tcu n hn
  have hone (e : Dev) (c : Bool) (f : Fld) (g : Bool → Bool) (h : steady f.addr = false) :
      (if c then (e.put f 1).setLevel n g else e).kept = e.kept :=
    e.kept_ite _ ((Dev.kept_setLevel _ _ _).trans (e.kept_put f 1 h))
  unfold Dev.fire
  extract_lets d1 d2
  exact (hone d2 b _ _ hcmpb).trans ((hone d1 a _ _ hcmpa).trans (hone d o _ _ hovf))

theorem Dev.kept_stepChan (n e : Nat) (hn : n < 8) : (d.stepChan n e).kept = d.kept := by
  obtain ⟨hcnt, -⟩ := steady_tcu n (by omega)
  obtain ⟨hcnt', -⟩ := steady_tcu (n + 1) (by omega)
  unfold Dev.stepChan
  extract_lets c p lo once stops wide hi pairA pairB hiA hiB loA loB d1 d2 moves high d3
  have h1 : d1.kept = d.kept := (Dev.kept_setChan _ n _).trans (d.kept_put _ _ hcnt)
  have h2 : d2.kept = d.kept := (d1.kept_fire n _ _ _ (by omega)).trans h1
  split
  · rfl
  · split
    · have h3 : d3.kept = d.kept := ((Dev.kept_setChan _ (n + 1) _).trans (d2.kept_put _ _ hcnt')).trans h2
      exact (d3.kept_fire (n + 1) _ _ _ (by omega)).trans h3
    · exact h2

theorem Dev.kept_sourceEvent (k : Nat) : (d.sourceEvent k).kept = d.kept :=
  d.kept_each _ _ fun n hn e => e.kept_ite _ (e.kept_stepChan n 1 (List.mem_range.1 hn))

theorem Dev.kept_eclkRun (k : Nat) : (d.eclkRun k).kept = d.kept := by
  refine d.kept_ite _ ?_
  induction k with
  | zero => rfl
  | succ k ih => exact (Dev.kept_sourceEvent _ 0).trans ih

/-! ### House time -/

theorem Dev.xiWrite_incr : ∃ i r n, d.xiWrite = { d with time := { d.time with incr := i }, ref := r, fresh := n } := by
  unfold Dev.xiWrite Dev.steer Dev.setIncr
  split
  · dsimp only
    split <;> exact ⟨_, _, _, rfl⟩
  · exact ⟨d.time.incr, d.ref, d.fresh, rfl⟩

/-- House time is the instant reached, unless it was past it; HT_INCR is the loop's. -/
theorem Dev.reach_time (t : Nat) :
    ∃ i, (d.reach t).time = { d.time with ht := BitVec.ofNat 64 (max d.now t), incr := i } := by
  unfold Dev.reach
  split
  · next h =>
    refine ⟨d.time.incr, ?_⟩
    rw [max_eq_left h, Dev.now, BitVec.ofNat_toNat, BitVec.setWidth_eq]
  · next h =>
    obtain ⟨i, r, n, hx⟩ := Dev.xiWrite_incr { d with time := { d.time with ht := BitVec.ofNat 64 t } }
    refine ⟨i, ?_⟩
    rw [Dev.time_of_kept (Dev.kept_eclkRun _ _), hx, max_eq_right (by omega)]

theorem Dev.reach_reg (t : Nat) {a : Nat} (ha : steady a = true) : (d.reach t).reg a = d.reg a := by
  unfold Dev.reach
  split
  · rfl
  · obtain ⟨i, r, n, hx⟩ := Dev.xiWrite_incr { d with time := { d.time with ht := BitVec.ofNat 64 t } }
    rw [Dev.reg_of_kept (Dev.kept_eclkRun _ _) ha, hx]
    rfl

end

/-! ### Applied values and time -/

/-- Applied values and house time with its counters. -/
def Dev.clocked (d : Dev) : Tab Word × TimeS := (d.applied, d.time)

theorem Dev.clocked_of_kept {d e : Dev} (h : e.kept = d.kept) : e.clocked = d.clocked :=
  Prod.ext (Dev.applied_of_kept h) (Dev.time_of_kept h)

section
variable (d : Dev)

theorem Dev.clocked_beginWake (n : Nat) : (d.beginWake n).clocked = d.clocked := by
  unfold Dev.beginWake
  split <;> rfl

theorem Dev.clocked_choosePower : d.choosePower.clocked = d.clocked := by
  unfold Dev.choosePower
  extract_lets s ceil chosen pwr d1
  have h1 : d1.clocked = d.clocked := rfl
  split
  · rfl
  · split
    · split
      · exact (d1.clocked_beginWake _).trans h1
      · exact h1
    · split
      · exact (d1.clocked_beginWake _).trans h1
      · split
        · exact h1
        · split <;> exact h1

theorem Dev.clocked_swarmStop : d.swarmStop.clocked = d.clocked := by
  unfold Dev.swarmStop
  extract_lets d1 swm
  split
  · rfl
  · have h1 : d1.clocked = d.clocked := Dev.clocked_of_kept (d.kept_each _ _ fun v _ e => e.kept_freeVoice v)
    exact h1

theorem Dev.clocked_renderEdge (n : Nat) : (d.renderEdge n).clocked = d.clocked := by
  rw [Dev.renderEdge_eq, Dev.clocked_of_kept (Dev.kept_bindSample _ _), Dev.clocked_swarmStop,
    Dev.clocked_of_kept (Dev.kept_sampleLeaves _ _)]

/-! ### The edges -/

/-- The device at a sample edge: house time is there, and the SAMPLE shadows have applied. -/
def Dev.atSample (d : Dev) (n : Nat) : Dev :=
  ({ d.reach (n * d.period) with time := { (d.reach (n * d.period)).time with smp := BitVec.ofNat 64 n } } : Dev).applyPoint .sample

/-- What happens at the edge (R390). -/
def Dev.sampleWork (d : Dev) (n : Nat) : Dev :=
  if d.coreOn then d.renderEdge n
  else if d.coreOff then d
  else ({ d with swm := { d.swm with acc := [] } } : Dev).outputEdge n

theorem Dev.sampleEdge_eq (h : d.time.counting = true) :
    d.sampleEdge = (((d.atSample (d.time.smp.toNat + 1)).sampleWork (d.time.smp.toNat + 1)).choosePower).sourceEvent 1 := by
  unfold Dev.sampleEdge
  simp only [h, Bool.not_true, Bool.false_eq_true, if_false]
  rfl

theorem Dev.clocked_sampleWork (n : Nat) : (d.sampleWork n).clocked = d.clocked := by
  unfold Dev.sampleWork
  split
  · exact d.clocked_renderEdge n
  · split
    · rfl
    · exact Dev.clocked_of_kept ((Dev.kept_outputEdge _ n).trans (d.kept_swm _))

end

end Sys2Proof.Machine
end

section
/-! SUPPORT. Applied values, counters and house time after an edge of each grid (R28, R41). -/

namespace Sys2Proof.Machine

/-! ### What an apply point takes -/

/-- `e` has the shadows, the applied values and the clocks of `d`. -/
structure Dev.SameShadows (d e : Dev) : Prop where
  applied : e.applied = d.applied
  reg : ∀ a, steady a = true → e.reg a = d.reg a
  sys : e.sys = d.sys

theorem Dev.SameShadows.trans {a b c : Dev} (h : a.SameShadows b) (h' : b.SameShadows c) : a.SameShadows c :=
  ⟨h'.applied.trans h.applied, fun x hx => (h'.reg x hx).trans (h.reg x hx), h'.sys.trans h.sys⟩

theorem Dev.SameShadows.of_kept {d e : Dev} (h : e.kept = d.kept) : d.SameShadows e :=
  ⟨Dev.applied_of_kept h, fun _ ha => Dev.reg_of_kept h ha, Dev.sys_of_kept h⟩

theorem Dev.SameShadows.get {d e : Dev} (h : d.SameShadows e) (f : Fld) (hf : steady f.addr = true) : e.get f = d.get f := by
  rw [Dev.get, Dev.get, h.reg _ hf]

theorem Dev.SameShadows.coreOn {d e : Dev} (h : d.SameShadows e) : e.coreOn = d.coreOn := by
  unfold Dev.coreOn Dev.power
  rw [h.get F.pwrStatusState (by decide), h.sys]

theorem Dev.SameShadows.clockRuns {d e : Dev} (h : d.SameShadows e) (a : Nat) : e.clockRuns a = d.clockRuns a := by
  unfold Dev.clockRuns Dev.coreOff Dev.power
  rw [h.get F.pwrStatusState (by decide), h.sys]

theorem Dev.sameShadows_reach (d : Dev) (t : Nat) : d.SameShadows (d.reach t) :=
  ⟨d.reach_applied t, fun _ ha => d.reach_reg t ha, d.reach_sys t⟩

/-- The value of a field once apply point `pt` has been reached in a state with the shadows of `d`: its shadow where it applies at `pt` and its
block's clocks run, and as before where it does not apply there. -/
def Dev.Applies (d : Dev) (pt : ApplyPoint) (a : Nat) (f : Field) (e : Dev) : Prop :=
  (f.acc = .rws pt → d.clockRuns a = true → e.ap ⟨a, f.lo, f.w⟩ = d.get ⟨a, f.lo, f.w⟩)
    ∧ (f.acc ≠ .rws pt → e.ap ⟨a, f.lo, f.w⟩ = d.ap ⟨a, f.lo, f.w⟩)

theorem Dev.ap_of_applied {d e : Dev} (h : e.applied = d.applied) (f : Fld) : e.ap f = d.ap f := by rw [Dev.ap, Dev.ap, h]

theorem Dev.Applies.congr {d e e' : Dev} {pt : ApplyPoint} {a : Nat} {f : Field} (h : d.Applies pt a f e)
    (he : e'.applied = e.applied) : d.Applies pt a f e' := by
  unfold Dev.Applies
  rwa [Dev.ap_of_applied he]

theorem Dev.SameShadows.applyPoint {d e : Dev} (h : d.SameShadows e) (pt : ApplyPoint) {a : Nat} {f : Field} (hf : f ∈ regFields a) :
    d.Applies pt a f (e.applyPoint pt) := by
  obtain ⟨x, hx⟩ := e.applyWhere_frame pt e.clockRuns
  have hap : (e.applyPoint pt).applied = (e.shadowed pt e.clockRuns).applied := (congrArg Dev.applied hx :)
  refine Dev.Applies.congr ⟨fun hacc hrun => ?_, fun hacc => ?_⟩ hap
  · rw [e.ap_shadowed pt _ hf hacc ((h.clockRuns a).trans hrun)]
    exact h.get _ (steady_staged hf hacc)
  · rw [e.ap_shadowed_other pt _ hf hacc]
    exact Dev.ap_of_applied h.applied _

/-- What an apply point leaves alone. -/
theorem Dev.applyPoint_frame (d : Dev) (pt : ApplyPoint) : (d.applyPoint pt).regs = d.regs ∧ (d.applyPoint pt).time = d.time
    ∧ (d.applyPoint pt).setters = d.setters ∧ (d.applyPoint pt).mem = d.mem ∧ (d.applyPoint pt).cue = d.cue
    ∧ (d.applyPoint pt).swm = d.swm ∧ (d.applyPoint pt).sys = d.sys := by
  obtain ⟨x, hx⟩ := d.applyWhere_frame pt d.clockRuns
  rw [Dev.applyPoint, hx]
  exact ⟨rfl, rfl, rfl, rfl, rfl, rfl, rfl⟩

section
variable (d : Dev) {a : Nat} {f : Field} (hf : f ∈ regFields a)

/-! ### Sample edges -/

/-- The device at a sample edge before its shadows apply. -/
def Dev.sampleReached (d : Dev) (n : Nat) : Dev :=
  { d.reach (n * d.period) with time := { (d.reach (n * d.period)).time with smp := BitVec.ofNat 64 n } }

theorem Dev.sameShadows_sampleReached (n : Nat) : d.SameShadows (d.sampleReached n) :=
  (d.sameShadows_reach (n * d.period)).trans ⟨rfl, fun _ _ => rfl, rfl⟩

theorem Dev.atSample_eq (n : Nat) : d.atSample n = (d.sampleReached n).applyPoint .sample := rfl

/-- Applied values and time at the end of the edge are those once the shadows have applied. -/
theorem Dev.clocked_sampleEdge (h : d.time.counting = true) :
    d.sampleEdge.clocked = (d.atSample (d.time.smp.toNat + 1)).clocked := by
  rw [d.sampleEdge_eq h, Dev.clocked_of_kept (Dev.kept_sourceEvent _ 1), Dev.clocked_choosePower, Dev.clocked_sampleWork]

theorem Dev.time_sampleEdge (h : d.time.counting = true) :
    d.sampleEdge.time.smp = BitVec.ofNat 64 (d.time.smp.toNat + 1)
      ∧ d.sampleEdge.time.ht = BitVec.ofNat 64 (max d.now ((d.time.smp.toNat + 1) * d.period))
      ∧ d.sampleEdge.time.blk = d.time.blk := by
  obtain ⟨i, hi⟩ := d.reach_time ((d.time.smp.toNat + 1) * d.period)
  have htime : d.sampleEdge.time = { (d.reach ((d.time.smp.toNat + 1) * d.period)).time with
      smp := BitVec.ofNat 64 (d.time.smp.toNat + 1) } :=
    (congrArg Prod.snd (d.clocked_sampleEdge h)).trans (Dev.applyPoint_frame _ .sample).2.1
  rw [htime, hi]
  exact ⟨rfl, rfl, rfl⟩

include hf in
theorem Dev.applies_sampleEdge (h : d.time.counting = true) : d.Applies .sample a f d.sampleEdge :=
  ((d.sameShadows_sampleReached (d.time.smp.toNat + 1)).applyPoint .sample hf).congr
    (congrArg Prod.fst (d.clocked_sampleEdge h))

/-! ### Block edges -/

/-- The block edge is counted, and the setters of R35 are forgotten. -/
def Dev.blockReached (d : Dev) (b : Nat) : Dev :=
  { d with setters := [], time := { d.time with blk := BitVec.ofNat 64 b } }

/-- A newly detected AES rate counts (R497). -/
def Dev.aesTaken (d : Dev) : Dev :=
  if d.ref.newRate ≠ 0 ∧ d.ref.newRate ≠ d.ref.aesRate then
    let d := { d with ref := { d.ref with aesRate := d.ref.newRate } }
    { d with time := { d.time with frame := BitVec.ofNat 64 (d.std.frameOf d.now) } }
  else d

/-- What happens at the edge once the BLOCK shadows have applied. -/
def Dev.blockWork (d : Dev) : Dev :=
  if d.coreOff then d.classEdge 0
  else
    let d := (d.each (List.range 7) fun p d => d.portStart p).okBlock
    (if d.coreOn then d.senPublish else d).each (List.range 10) fun x d => d.classEdge x

/-- The device at a block edge once the scrubber's block has ended and the BLOCK shadows have applied. -/
def Dev.atBlock (d : Dev) (b : Nat) : Dev :=
  (((d.reach (b * blockTk)).scrubBlock.blockReached b).aesTaken).applyPoint .block

theorem Dev.blockEdge_eq (h : d.time.counting = true) :
    d.blockEdge = ((d.atBlock (d.time.blk.toNat + 1)).blockWork.healthRise).sourceEvent 2 := by
  unfold Dev.blockEdge Dev.atBlock
  rw [if_neg (by simp [h])]
  obtain ⟨apply, happly⟩ : ∃ g, g = Dev.applyPoint := ⟨_, rfl⟩
  obtain ⟨scrub, hscrub⟩ : ∃ g, g = Dev.scrubBlock := ⟨_, rfl⟩
  obtain ⟨source, hsource⟩ : ∃ g, g = Dev.sourceEvent := ⟨_, rfl⟩
  rw [← happly, ← hscrub, ← hsource]
  rfl

theorem Dev.kept_okBlock : d.okBlock.kept = d.kept := d.kept_outp _

theorem Dev.kept_blockWork : d.blockWork.kept = d.kept := by
  unfold Dev.blockWork
  extract_lets d1
  have h1 : d1.kept = d.kept := (Dev.kept_okBlock _).trans (d.kept_each _ _ fun p _ e => e.kept_portStart p)
  split
  · exact d.kept_classEdge 0 (by decide)
  · refine (Dev.kept_each _ _ _ fun x hx e => e.kept_classEdge x (List.mem_range.1 hx)).trans (Eq.trans ?_ h1)
    exact d1.kept_ite _ d1.kept_senPublish

theorem Dev.kept_healthRise : d.healthRise.kept = d.kept := rfl

theorem Dev.kept_blockEdge (h : d.time.counting = true) : d.blockEdge.kept = (d.atBlock (d.time.blk.toNat + 1)).kept := by
  rw [d.blockEdge_eq h, Dev.kept_sourceEvent, Dev.kept_healthRise, Dev.kept_blockWork]

theorem Dev.aesTaken_frame : ∃ k r, d.aesTaken = { d with time := { d.time with frame := k }, ref := r } := by
  unfold Dev.aesTaken
  split
  · exact ⟨_, _, rfl⟩
  · exact ⟨d.time.frame, d.ref, rfl⟩

theorem Dev.sameShadows_blockReached (b : Nat) : d.SameShadows (d.blockReached b) := ⟨rfl, fun _ _ => rfl, rfl⟩

theorem Dev.sameShadows_aesTaken : d.SameShadows d.aesTaken := by
  obtain ⟨k, r, h⟩ := d.aesTaken_frame
  rw [h]
  exact ⟨rfl, fun _ _ => rfl, rfl⟩

include hf in
theorem Dev.applies_blockEdge (h : d.time.counting = true) : d.Applies .block a f d.blockEdge := by
  have hscrub := (d.sameShadows_reach ((d.time.blk.toNat + 1) * blockTk)).trans (.of_kept (Dev.kept_scrubBlock _))
  have hall := (hscrub.trans (Dev.sameShadows_blockReached _ (d.time.blk.toNat + 1))).trans (Dev.sameShadows_aesTaken _)
  exact (hall.applyPoint .block hf).congr (Dev.applied_of_kept (d.kept_blockEdge h))

/-- The counters and the setters once the edge is reached and a new AES rate is taken. -/
theorem Dev.aesTaken_blockReached (b : Nat) : ((d.blockReached b).aesTaken).setters = [] ∧ ∃ k,
    ((d.blockReached b).aesTaken).time = { d.time with blk := BitVec.ofNat 64 b, frame := k } := by
  obtain ⟨k, r, h⟩ := (d.blockReached b).aesTaken_frame
  rw [h]
  exact ⟨rfl, k, rfl⟩

theorem Dev.time_blockEdge (h : d.time.counting = true) :
    d.blockEdge.time.blk = BitVec.ofNat 64 (d.time.blk.toNat + 1)
      ∧ d.blockEdge.time.ht = BitVec.ofNat 64 (max d.now ((d.time.blk.toNat + 1) * blockTk))
      ∧ d.blockEdge.time.smp = d.time.smp ∧ d.blockEdge.setters = [] := by
  obtain ⟨i, hi⟩ := d.reach_time ((d.time.blk.toNat + 1) * blockTk)
  have hscrub := (Dev.time_of_kept (Dev.kept_scrubBlock _)).trans hi
  obtain ⟨hsetters, k, htime⟩ := Dev.aesTaken_blockReached
    ((d.reach ((d.time.blk.toNat + 1) * blockTk)).scrubBlock) (d.time.blk.toNat + 1)
  obtain ⟨-, hpoint, hpoint', -⟩ := Dev.applyPoint_frame
    (((d.reach ((d.time.blk.toNat + 1) * blockTk)).scrubBlock.blockReached (d.time.blk.toNat + 1)).aesTaken) .block
  rw [Dev.time_of_kept (d.kept_blockEdge h), Dev.setters_of_kept (d.kept_blockEdge h), Dev.atBlock, hpoint, hpoint', htime, hscrub]
  exact ⟨rfl, rfl, rfl, hsetters⟩

/-! ### Frame boundaries -/

/-- The device at a frame boundary before its shadows apply. -/
def Dev.frameReached (d : Dev) (k : Nat) : Dev :=
  { d.reach (d.std.firstTick k) with time := { (d.reach (d.std.firstTick k)).time with frame := BitVec.ofNat 64 k } }

theorem Dev.frameEdge_eq (h : d.time.counting = true) :
    d.frameEdge = (d.frameReached (d.time.frame.toNat + 1)).applyPoint .frame := by
  unfold Dev.frameEdge
  simp only [h, Bool.not_true, Bool.false_eq_true, if_false]
  rfl

include hf in
theorem Dev.applies_frameEdge (h : d.time.counting = true) : d.Applies .frame a f d.frameEdge := by
  have hsame : d.SameShadows (d.frameReached (d.time.frame.toNat + 1)) :=
    (d.sameShadows_reach _).trans ⟨rfl, fun _ _ => rfl, rfl⟩
  rw [d.frameEdge_eq h]
  exact hsame.applyPoint .frame hf

theorem Dev.frameEdge_frame (h : d.time.counting = true) :
    d.frameEdge.time.ht = BitVec.ofNat 64 (max d.now (d.std.firstTick (d.time.frame.toNat + 1)))
      ∧ d.frameEdge.regs = (d.reach (d.std.firstTick (d.time.frame.toNat + 1))).regs ∧ d.frameEdge.mem = d.mem
      ∧ d.frameEdge.cue = d.cue := by
  obtain ⟨i, hi⟩ := d.reach_time (d.std.firstTick (d.time.frame.toNat + 1))
  obtain ⟨hregs, htime, -, hmem, hcue, -⟩ := (d.frameReached (d.time.frame.toNat + 1)).applyPoint_frame .frame
  rw [d.frameEdge_eq h, hregs, htime, hmem, hcue, Dev.frameReached, hi]
  exact ⟨rfl, rfl, d.reach_mem _, d.reach_cue _⟩

end

/-! ### The commands -/

theorem exec_sampleEdge (s : State) : exec .sampleEdge s = s.effect Dev.sampleEdge := rfl
theorem exec_blockEdge (s : State) : exec .blockEdge s = s.effect Dev.blockEdge := rfl
theorem exec_frameBoundary (s : State) : exec .frameBoundary s = s.effect Dev.frameEdge := rfl

/-- Until house time counts, no grid has an edge. -/
theorem edges_idle (s : State) (h : s.dev.time.counting = false) :
    exec .sampleEdge s = .next s ∧ exec .blockEdge s = .next s ∧ exec .frameBoundary s = .next s := by
  simp [exec_sampleEdge, exec_blockEdge, exec_frameBoundary, State.effect, Dev.sampleEdge, Dev.blockEdge, Dev.frameEdge, h]

end Sys2Proof.Machine
end

section
/-! SUPPORT. The stop of the swarm at a sample edge (R134): what writes of voice records leave of the swarm, and that every voice ends. -/

namespace Sys2Proof.Machine

/-! ### Memory writes leave the swarm -/

theorem Dev.FltOnly.swm {d e : Dev} (h : d.FltOnly e) : e.swm = d.swm := by
  obtain ⟨r, f, rfl, -⟩ := h
  rfl

theorem Dev.Recorded.swm {d e : Dev} (h : d.Recorded e) : e.swm = d.swm := by
  obtain ⟨r, f, n, c, u, g, rfl, -⟩ := h
  rfl

section
variable (d : Dev)

theorem Dev.swm_waitWipe (a : Nat) : (d.waitWipe a).swm = d.swm := by
  unfold Dev.waitWipe
  split <;> rfl

theorem Dev.swm_setBytes (a : Nat) (l : List Byte) : (d.setBytes a l).swm = d.swm := by
  induction l generalizing d a with
  | nil => rfl
  | cons b l ih => exact ih (d.setByte a b) (a + 1)

theorem Dev.swm_storeLine (l : Nat) (c : BitVec 2) (data : List Byte) : (d.storeLine l c data).swm = d.swm := by
  unfold Dev.storeLine
  rw [Dev.unqueue_swm, Dev.setTag_swm, Dev.swm_setBytes]
  split <;> rfl

theorem Dev.swm_recordRefusal (m a w : Nat) : (d.recordRefusal m a w).swm = d.swm :=
  (Dev.recorded_errLatch _ _ _ _ _ _).swm

theorem Dev.swm_partialCheck (m : Nat) (c : Chunk) : (d.partialCheck m c).2.swm = d.swm := by
  have hdraws (l : Nat) : (d.lineDraws l).swm = d.swm := (d.recorded_lineDraws l).swm
  unfold Dev.partialCheck
  dsimp only
  split
  · exact hdraws _
  · exact hdraws _
  · rw [Dev.queueCe_swm, (Dev.recorded_recordCe _ _ _ _ _).swm, hdraws]
  · rw [Dev.swm_recordRefusal, Dev.unqueue_swm, Dev.setTag_swm, (Dev.recorded_recordUe _ _ _ _).swm, hdraws]
  · rw [Dev.swm_recordRefusal, (Dev.recorded_recordPoison _ _ _).swm, hdraws]

theorem Dev.swm_writePart (m : Nat) (c : Chunk) : (d.writePart m c).swm = d.swm := by
  have hcheck : (((d.waitWipe c.1).grant m c.1).partialCheck m c).2.swm = d.swm := by
    rw [Dev.swm_partialCheck, (Dev.recorded_grant _ _ _).swm, Dev.swm_waitWipe]
  unfold Dev.writePart
  dsimp only
  split
  · exact (Dev.swm_storeLine _ _ _ _).trans hcheck
  · exact hcheck

theorem Dev.swm_writeRt (v : Nat) (w : Words) : (d.writeRt v w).swm = d.swm :=
  List.foldlRecOn (motive := fun e : Dev => e.swm = d.swm) _ _ rfl fun e he _ _ => (e.swm_writePart _ _).trans he

/-! ### Voices -/

theorem Dev.voices_senLeave (v : Nat) : (d.senLeave v).swm.voices = d.swm.voices := by
  unfold Dev.senLeave Dev.senAbandon
  dsimp only
  split
  · split <;> rfl
  · rfl

/-- A freed voice is free, and the others are as they were. -/
theorem Dev.voice_freeVoice (v u : Nat) : (d.freeVoice v).voice u = if u = v then Voice.free else d.voice u := by
  have hvoices : (d.freeVoice v).swm.voices = Tab.set (fun _ => Voice.free) d.swm.voices v .free := by
    unfold Dev.freeVoice
    extract_lets d1 swm d2
    have h1 : d1.swm.voices = Tab.set (fun _ => Voice.free) (d.senLeave v).swm.voices v .free := rfl
    rw [Dev.swm_writeRt]
    exact h1.trans (by rw [Dev.voices_senLeave])
  rw [Dev.voice, hvoices, Tab.get_set, Dev.voice]

/-- A voice that is freed, or was free, is free once a list of voices is freed. -/
theorem Dev.free_eachFreeVoice (l : List Nat) (u : Nat) (h : u ∈ l ∨ (d.voice u).bound = false) :
    ((d.each l fun v d => d.freeVoice v).voice u).bound = false := by
  induction l generalizing d with
  | nil => exact h.resolve_left (by simp)
  | cons v l ih =>
    refine ih (d.freeVoice v) ?_
    rw [d.voice_freeVoice v u]
    by_cases huv : u = v
    · exact .inr (by rw [if_pos huv]; rfl)
    · rw [if_neg huv]
      exact h.imp_left fun hu => (List.mem_cons.1 hu).resolve_left huv

/-- What a table lists. -/
theorem Tab.mem_of_find {α : Type} (t : Tab α) (k : Nat) (v : α) (h : Tab.find t k = some v) : (k, v) ∈ t := by
  induction t with
  | nil => cases h
  | cons x t ih =>
    obtain ⟨k', v'⟩ := x
    by_cases hk : k = k'
    · simp only [Tab.find, hk, if_true, Option.some.injEq] at h
      simp [hk, h]
    · simp only [Tab.find, hk, if_false] at h
      exact List.mem_cons_of_mem _ (ih h)

theorem Dev.mem_boundVoices (u : Nat) (h : (d.voice u).bound = true) : u ∈ d.boundVoices := by
  have hfind : (Tab.find d.swm.voices u).isSome = true := by
    by_contra hnone
    rw [Dev.voice, Tab.get, Option.not_isSome_iff_eq_none.1 hnone] at h
    exact absurd h (by decide)
  obtain ⟨x, hx⟩ := Option.isSome_iff_exists.1 hfind
  rw [Dev.voice, Tab.get, hx] at h
  exact List.mem_map.2 ⟨(u, x), List.mem_filter.2 ⟨Tab.mem_of_find _ _ _ hx, h⟩, rfl⟩

/-! ### The stop -/

/-- Every voice, husk and ramp has ended. -/
def Dev.Ended (d : Dev) : Prop := (∀ v, (d.voice v).bound = false) ∧ d.swm.husks = [] ∧ d.swm.ramps = []

theorem Dev.Ended.congr {d e : Dev} (h : d.Ended) (hv : e.swm.voices = d.swm.voices) (hh : e.swm.husks = d.swm.husks)
    (hr : e.swm.ramps = d.swm.ramps) : e.Ended := by
  unfold Dev.Ended Dev.voice
  rw [hv, hh, hr]
  exact h

theorem Dev.Ended.swm {d e : Dev} (h : d.Ended) (he : e.swm = d.swm) : e.Ended := h.congr (by rw [he]) (by rw [he]) (by rw [he])

/-- The state of the swarm once every bound voice is freed. -/
def Dev.allFreed (d : Dev) : Dev := d.each d.boundVoices fun v d => d.freeVoice v

theorem Dev.kept_allFreed : d.allFreed.kept = d.kept := d.kept_each _ _ fun v _ e => e.kept_freeVoice v

theorem Dev.swarmStop_eq (hrun : d.on F.swmCtrlRun = false) (hrunning : d.on F.swmStatusRunning = true) :
    d.swarmStop = ({ d.allFreed with
      swm := { d.allFreed.swm with husks := [], ramps := [], ramped := [], snap := [] } } : Dev).put F.swmStatusRunning 0 := by
  unfold Dev.swarmStop
  rw [if_neg (by simp [hrun, hrunning])]
  rfl

theorem Dev.swarmStop_ends (hrun : d.on F.swmCtrlRun = false) (hrunning : d.on F.swmStatusRunning = true) :
    d.swarmStop.Ended ∧ d.swarmStop.on F.swmStatusRunning = false ∧ d.swarmStop.on F.swmCtrlRun = false := by
  rw [d.swarmStop_eq hrun hrunning]
  refine ⟨⟨fun v => ?_, rfl, rfl⟩, ?_, ?_⟩
  · refine d.free_eachFreeVoice d.boundVoices v ?_
    cases h : (d.voice v).bound
    · exact .inr rfl
    · exact .inl (d.mem_boundVoices v h)
  · rw [Dev.on, Dev.get_put_same _ _ _ (by decide)]
    rfl
  · rw [Dev.on, Dev.get_put_other _ _ _ _ (by decide), Dev.get_of_kept ((Dev.kept_swm _ _).trans d.kept_allFreed) _ (by decide)]
    exact hrun

/-! ### The rest of the edge -/

theorem Dev.swm_discardAll (l : List QEntry) : (d.discardAll l).swm = d.swm :=
  (d.each l fun e d => d.dropEntry e).bumpBy_swm _ _ |>.trans
    (l.foldlRecOn (motive := fun e : Dev => e.swm = d.swm) _ rfl fun _ he _ _ => he)

theorem Dev.ended_bindSample (n : Nat) (hrun : d.on F.swmCtrlRun = false) (h : d.Ended) : (d.bindSample n).Ended := by
  unfold Dev.bindSample
  extract_lets tau alc swm d1 due
  have h1 : d1.Ended := h.congr rfl rfl rfl
  have hrun1 : d1.on F.swmCtrlRun = false := hrun
  split
  · exact h1.swm (d1.swm_discardAll _)
  · next hneg => simp [hrun1] at hneg

theorem Dev.swm_beginWake (n : Nat) : (d.beginWake n).swm = d.swm := by
  unfold Dev.beginWake
  split <;> rfl

theorem Dev.swm_choosePower : d.choosePower.swm = d.swm := by
  unfold Dev.choosePower
  extract_lets s ceil chosen pwr d1
  have h1 : d1.swm = d.swm := rfl
  split
  · rfl
  · split
    · split
      · exact (d1.swm_beginWake _).trans h1
      · exact h1
    · split
      · exact (d1.swm_beginWake _).trans h1
      · split
        · exact h1
        · split <;> exact h1

theorem Dev.swm_sourceEvent (k : Nat) : (d.sourceEvent k).swm = d.swm := by
  have haside (e : Dev) : e.aside.swm = e.swm := rfl
  rw [← haside, Dev.sourceEvent_aside, haside]

theorem Dev.running_beginWake (n : Nat) : (d.beginWake n).get F.swmStatusRunning = d.get F.swmStatusRunning := by
  unfold Dev.beginWake
  split
  · rfl
  · simp (disch := decide) only [Dev.get_put_other]

theorem Dev.running_choosePower : d.choosePower.get F.swmStatusRunning = d.get F.swmStatusRunning := by
  unfold Dev.choosePower
  extract_lets s ceil chosen pwr d1
  have h1 : d1.get F.swmStatusRunning = d.get F.swmStatusRunning := d.get_put_other _ _ _ (by decide)
  split
  · rfl
  · split
    · split
      · exact (d1.running_beginWake _).trans h1
      · exact h1
    · split
      · exact (d1.running_beginWake _).trans h1
      · split
        · exact (d1.get_put_other _ _ _ (by decide)).trans h1
        · split <;> exact h1

theorem Dev.get_atSample (n : Nat) (f : Fld) (hf : steady f.addr = true) : (d.atSample n).get f = d.get f := by
  obtain ⟨hregs, -⟩ := (d.sampleReached n).applyPoint_frame .sample
  exact (Dev.get_congr hregs f).trans ((d.sameShadows_sampleReached n).get f hf)

theorem Dev.coreOn_atSample (n : Nat) : (d.atSample n).coreOn = d.coreOn := by
  obtain ⟨hregs, -, -, -, -, -, hsys⟩ := (d.sampleReached n).applyPoint_frame .sample
  rw [← (d.sameShadows_sampleReached n).coreOn]
  unfold Dev.coreOn Dev.power
  rw [d.atSample_eq, Dev.get_congr hregs, hsys]

/-- The swarm written to stop ends at the sample edge. -/
theorem Dev.sampleEdge_ends (h : d.time.counting = true) (hcore : d.coreOn = true) (hrun : d.on F.swmCtrlRun = false)
    (hrunning : d.on F.swmStatusRunning = true) : d.sampleEdge.Ended ∧ d.sampleEdge.on F.swmStatusRunning = false := by
  obtain ⟨n, hn⟩ : ∃ n, n = d.time.smp.toNat + 1 := ⟨_, rfl⟩
  have hleaves := (d.atSample n).kept_sampleLeaves n
  have hget (f : Fld) (hf : steady f.addr = true) : ((d.atSample n).sampleLeaves n).get f = d.get f :=
    (Dev.get_of_kept hleaves f hf).trans (d.get_atSample n f hf)
  have hrun' : ((d.atSample n).sampleLeaves n).on F.swmCtrlRun = false := by rw [Dev.on, hget _ (by decide)]; exact hrun
  have hrunning' : ((d.atSample n).sampleLeaves n).on F.swmStatusRunning = true := by
    rw [Dev.on, hget _ (by decide)]; exact hrunning
  obtain ⟨hended, hstat, hctrl⟩ := ((d.atSample n).sampleLeaves n).swarmStop_ends hrun' hrunning'
  have hbind := Dev.ended_bindSample _ (n + 1) hctrl hended
  have hwork : (d.atSample n).sampleWork n = (((d.atSample n).sampleLeaves n).swarmStop).bindSample (n + 1) := by
    rw [← Dev.renderEdge_eq, Dev.sampleWork, if_pos ((d.coreOn_atSample n).trans hcore)]
  rw [d.sampleEdge_eq h, ← hn, hwork]
  refine ⟨(hbind.swm (Dev.swm_choosePower _)).swm (Dev.swm_sourceEvent _ _), ?_⟩
  rw [Dev.on, Dev.get_of_kept (Dev.kept_sourceEvent _ _) _ (by decide), Dev.running_choosePower,
    Dev.get_of_kept (Dev.kept_bindSample _ _) _ (by decide)]
  exact hstat

end

end Sys2Proof.Machine
end

section
/-! SUPPORT. Run control of the swarm and of admissions (R134, R135, R155, R158), and INJECT of the sentinel (R166): one field of a
register written with its other fields as they stand. -/

namespace Sys2Proof.Machine

/-! ### Words and their fields -/

/-- A field that takes the value it shows leaves the word. -/
theorem insBits_bitsOf (w : Word) (lo n : Nat) : insBits w lo n (bitsOf w lo n) = w := by
  refine BitVec.eq_of_getLsbD_eq fun i hi => ?_
  rw [getLsbD_insBits _ _ _ _ _ hi, testBit_bitsOf]
  split
  · next h =>
    have hlt : i - lo < n := by omega
    have hsum : lo + (i - lo) = i := by omega
    simp [hlt, hsum]
  · rfl

/-- What a word shows of a field that took a value, and nothing else. -/
theorem insBits_and_fieldMask (w : Word) (lo n v : Nat) : insBits w lo n v &&& fieldMask lo n = insBits 0 lo n v := by
  refine BitVec.eq_of_getLsbD_eq fun i hi => ?_
  rw [BitVec.getLsbD_and, getLsbD_fieldMask _ _ _ hi, getLsbD_insBits _ _ _ _ _ hi, getLsbD_insBits _ _ _ _ _ hi]
  by_cases h : lo ≤ i ∧ i < lo + n
  · simp [h]
  · rw [if_neg h, if_neg h, ← Bool.decide_and, decide_eq_false h]
    simp

theorem bitsOf_lt (w : Word) (lo n : Nat) : bitsOf w lo n < 2 ^ n := Nat.mod_lt _ (Nat.two_pow_pos n)

/-! ### Changes of registers, setters and the fault state -/

/-- `e` is `d` but for setters, the fault state, and registers of the list and those in which events are recorded. -/
def Dev.RegsOnly (d e : Dev) (l : List Nat) : Prop :=
  ∃ r x f, e = { d with regs := r, setters := x, flt := f } ∧ ∀ b, b ∉ l → recReg b = false → Tab.get regReset r b = d.reg b

theorem Dev.RegsOnly.refl (d : Dev) (l : List Nat) : d.RegsOnly d l := ⟨d.regs, d.setters, d.flt, rfl, fun _ _ _ => rfl⟩

theorem Dev.RegsOnly.trans {a b c : Dev} {l : List Nat} (h : a.RegsOnly b l) (h' : b.RegsOnly c l) : a.RegsOnly c l := by
  obtain ⟨r, x, f, rfl, hr⟩ := h
  obtain ⟨r', x', f', rfl, hr'⟩ := h'
  exact ⟨r', x', f', rfl, fun y hy hrec => (hr' y hy hrec).trans (hr y hy hrec)⟩

theorem Dev.RegsOnly.mono {d e : Dev} {l l' : List Nat} (h : d.RegsOnly e l) (hl : ∀ b ∈ l, b ∈ l') : d.RegsOnly e l' := by
  obtain ⟨r, x, f, he, hr⟩ := h
  exact ⟨r, x, f, he, fun b hb => hr b fun hmem => hb (hl b hmem)⟩

theorem Dev.FltOnly.regsOnly {d e : Dev} (h : d.FltOnly e) (l : List Nat) : d.RegsOnly e l := by
  obtain ⟨r, f, rfl, hr⟩ := h
  exact ⟨r, d.setters, f, rfl, fun b _ hb => hr b hb⟩

theorem Dev.regsOnly_setReg (d : Dev) (a : Nat) (w : Word) : d.RegsOnly (d.setReg a w) [a] :=
  ⟨_, d.setters, d.flt, rfl, fun b hb _ => Tab.get_set_other _ _ _ (by simpa using hb)⟩

theorem Dev.regsOnly_setSetter (d : Dev) (key : Nat) (p : Path) (l : List Nat) : d.RegsOnly (d.setSetter key p) l :=
  ⟨d.regs, _, d.flt, rfl, fun _ _ _ => rfl⟩

theorem Dev.RegsOnly.reg {d e : Dev} {l : List Nat} (h : d.RegsOnly e l) {b : Nat} (hb : b ∉ l) (hrec : recReg b = false) :
    e.reg b = d.reg b := by
  obtain ⟨r, x, f, rfl, hr⟩ := h
  exact hr b hb hrec

theorem Dev.RegsOnly.frame {d e : Dev} {l : List Nat} (h : d.RegsOnly e l) :
    e.mem = d.mem ∧ e.cue = d.cue ∧ e.swm = d.swm ∧ e.alc = d.alc := by
  obtain ⟨r, x, f, rfl, -⟩ := h
  exact ⟨rfl, rfl, rfl, rfl⟩

/-- What a device keeps when the sender of a write is told. -/
theorem Dev.told_frame (d : Dev) (src : Src) (a : Nat) : (d.told src a).regs = d.regs ∧ (d.told src a).mem = d.mem
    ∧ (d.told src a).cue = d.cue ∧ (d.told src a).swm = d.swm ∧ (d.told src a).alc = d.alc := by
  rw [Dev.told_eq]
  exact ⟨rfl, rfl, rfl, rfl, rfl⟩

/-! ### One field of a lone write -/

/-- What a write needs to know of a register: it is held nowhere, is no portal, and no write of it applies a held word. -/
structure Dev.PlainReg (d : Dev) (a : Nat) : Prop where
  held : d.isHeld a = false
  portal : isPortal a = false
  apply : isApply a = false
  present : d.present a = d.reg a
  applyHeld : ∀ e, d.applyHeld a e = e
  isReg : isReg a = true
  unrecorded : recReg a = false

theorem Dev.plainReg_run (d : Dev) {f : Fld} (hf : f ∈ [F.swmCtrlRun, F.alcCtrl, F.swmSenCtrlInject]) : d.PlainReg f.addr := by
  fin_cases hf <;> exact ⟨rfl, rfl, rfl, rfl, fun _ => rfl, rfl, rfl⟩

section
variable {d : Dev} {r : Req} (h : d.PlainReg r.addr) (f : Field) (m : Met) (e : Dev)
include h

/-- A field's value goes to its register. -/
theorem Dev.fieldSet_plain (v : Nat) : e.RegsOnly (d.fieldSet r f v e) [r.addr]
    ∧ (d.fieldSet r f v e).reg r.addr = insBits (e.reg r.addr) f.lo f.w v := by
  unfold Dev.fieldSet
  simp only [h.held, Bool.false_eq_true, if_false]
  split
  · exact ⟨e.regsOnly_setReg _ _, e.reg_setReg_same _ _⟩
  · exact ⟨(e.regsOnly_setReg _ _).trans (Dev.regsOnly_setSetter _ _ _ _), e.reg_setReg_same _ _⟩

omit h in
/-- A field for RW whose setter R35 admits takes its value. -/
theorem Dev.fieldWrite_taken (hacc : f.acc = .rw) (hlock : isLockable r.addr f = false)
    (hmay : d.splitOf r.addr (d.fieldKey r.addr f.lo) r.path.side ≠ .refused) :
    ∃ won, d.fieldWrite [r] r (m, e) f = ({ m with did := true, won := won }, d.fieldSet r f (bitsOf (reqWord r) f.lo f.w) e) := by
  have hsplit := d.splitAmong_one r r.addr (d.fieldKey r.addr f.lo) (bitsOf (reqWord r) f.lo f.w) f hmay
  unfold Dev.fieldWrite
  simp only [hacc, hlock, loses_one, Bool.false_and, Bool.false_eq_true, if_false]
  split
  · next hres => exact absurd hres (by split <;> [decide; exact hsplit])
  · exact ⟨_, rfl⟩
  · exact ⟨m.won, rfl⟩

/-- A field written with the value it holds: its register's word stays, and so does the account but for the field's being written. -/
theorem Dev.fieldWrite_same (hacc : f.acc = .lk ∨ ∃ pt, f.acc = .rws pt)
    (hsame : bitsOf (reqWord r) f.lo f.w = bitsOf (d.reg r.addr) f.lo f.w)
    (hkept : bitsOf (e.reg r.addr) f.lo f.w = bitsOf (d.reg r.addr) f.lo f.w) :
    ∃ did e', d.fieldWrite [r] r (m, e) f = ({ m with did := m.did || did }, e') ∧ e.RegsOnly e' [r.addr]
      ∧ e'.reg r.addr = e.reg r.addr := by
  obtain ⟨hset, hreg⟩ := Dev.fieldSet_plain h f e (bitsOf (d.reg r.addr) f.lo f.w)
  have hword : (d.fieldSet r f (bitsOf (d.reg r.addr) f.lo f.w) e).reg r.addr = e.reg r.addr := by
    rw [hreg, ← hkept, insBits_bitsOf]
  have hwrite : d.fieldWrite [r] r (m, e) f =
      if isLockable r.addr f && d.lockedReg r.addr then (m, e)
      else ({ m with did := true }, d.fieldSet r f (bitsOf (d.reg r.addr) f.lo f.w) e) := by
    have hloses := hsame ▸ loses_one r f
    rcases hacc with hlk | ⟨pt, hrws⟩
    · simp [Dev.fieldWrite, hlk, hloses, h.present, hsame]
    · simp [Dev.fieldWrite, hrws, hloses, h.present, hsame]
  rw [hwrite]
  split
  · exact ⟨false, e, by simp, .refl _ _, rfl⟩
  · exact ⟨true, _, by simp, hset, hword⟩

end

/-! ### A write of one field -/

/-- The request of a write of one field. -/
def Dev.fieldReq (d : Dev) (src : Src) (f : Fld) (v : Nat) : Req := regReq src.path f.addr (d.fieldWord f v) src.posted

@[simp] theorem Dev.fieldReq_addr (d : Dev) (src : Src) (f : Fld) (v : Nat) : (d.fieldReq src f v).addr = f.addr := rfl
@[simp] theorem Dev.fieldReq_path (d : Dev) (src : Src) (f : Fld) (v : Nat) : (d.fieldReq src f v).path = src.path := rfl

/-- A lone write of one field, from its account and from what it starts. -/
theorem Dev.srcWrite_done {d : Dev} {src : Src} {f : Fld} {v : Nat} {w1 : Word} {won : Option Path} {e : Dev} (hplain : d.PlainReg f.addr)
    (htake : d.TakesField src f v) (hmet : d.oneMet (d.fieldReq src f v) = (⟨w1, true, false, false, false, won⟩, e)) (hook : Dev → Dev)
    (hhook : ∀ e : Dev, e.regHook d f.addr w1 (src.path == .host) = (.ok, hook e)) :
    ∃ e', e.FltOnly e' ∧ d.srcWrite src f v = (hook e').told src f.addr := by
  refine ⟨e.recordMet (d.fieldReq src f v) ⟨w1, true, false, false, false, won⟩, Dev.fltOnly_recordMet _ _ _, ?_⟩
  have hdone : d.oneHook (d.fieldReq src f v)
      = (.ok, hook (e.recordMet (d.fieldReq src f v) ⟨w1, true, false, false, false, won⟩)) := by
    simp only [Dev.oneHook, hmet, Dev.fieldReq_addr, Dev.fieldReq_path, if_true, hplain.applyHeld, hhook]
  have hstatus : d.oneStatus (d.fieldReq src f v) = .ok := by
    simp only [Dev.oneStatus, hdone, hmet]
    rfl
  have hword := d.srcWord_takes src f.addr (d.fieldWord f v) hplain.isReg htake (by
    rw [show regReq src.path f.addr (d.fieldWord f v) src.posted = d.fieldReq src f v from rfl, hstatus]; rfl)
  rw [Dev.srcWrite, hword, show regReq src.path f.addr (d.fieldWord f v) src.posted = d.fieldReq src f v from rfl, hdone]

/-! ### The accounts of the three registers -/

/-- The account of a lone write, field by field. -/
theorem Dev.oneMet_plain {d : Dev} {r : Req} (h : d.PlainReg r.addr) :
    d.oneMet r = (regFields r.addr).foldl (d.fieldWrite [r] r) (Met.none', d) := by
  simp [Dev.oneMet, Dev.applyWrite, h.apply]

section
variable {d : Dev} {src : Src} {v : Nat}

/-- RUN, at bit 0 of its register, written `v`. -/
theorem Dev.fieldWrite_run {f : Fld} (hf : f ∈ [F.swmCtrlRun, F.alcCtrl]) (hv : v < 2) (hmay : d.MaySet src f) :
    ∃ won e, d.fieldWrite [d.fieldReq src f v] (d.fieldReq src f v) (Met.none', d) ⟨0, 1, .rw, 0⟩
        = (⟨0, true, false, false, false, won⟩, e)
      ∧ d.RegsOnly e [f.addr] ∧ e.reg f.addr = insBits (d.reg f.addr) 0 1 v := by
  have hplain : d.PlainReg f.addr := d.plainReg_run (by simp only [List.mem_cons] at hf ⊢; tauto)
  obtain ⟨hlo, hlock⟩ : f.lo = 0 ∧ isLockable f.addr ⟨0, 1, .rw, 0⟩ = false := by fin_cases hf <;> exact ⟨rfl, rfl⟩
  have hshows : bitsOf (reqWord (d.fieldReq src f v)) 0 1 = v := by
    have hone : ∃ w, d.fieldWord f v = insBits w 0 1 v := by fin_cases hf <;> exact ⟨_, rfl⟩
    obtain ⟨w, hw⟩ := hone
    rw [Dev.fieldReq, reqWord_regReq, hw, bitsOf_insBits_same _ _ _ _ (by decide)]
    exact Nat.mod_eq_of_lt hv
  obtain ⟨won, hwrite⟩ := Dev.fieldWrite_taken (d := d) (r := d.fieldReq src f v) ⟨0, 1, .rw, 0⟩ Met.none' d rfl hlock
    (by rw [Dev.MaySet, hlo] at hmay; exact hmay)
  rw [hshows] at hwrite
  exact ⟨won, _, hwrite, Dev.fieldSet_plain hplain _ _ _⟩

theorem Dev.oneMet_alcRun (hv : v < 2) (hmay : d.MaySet src F.alcCtrl) :
    ∃ won e, d.oneMet (d.fieldReq src F.alcCtrl v) = (⟨0, true, false, false, false, won⟩, e)
      ∧ d.RegsOnly e [F.alcCtrl.addr] ∧ e.get F.alcCtrl = v := by
  obtain ⟨won, e, hwrite, honly, hreg⟩ := Dev.fieldWrite_run (f := F.alcCtrl) (by decide) hv hmay
  have hfields : regFields F.alcCtrl.addr = [⟨0, 1, .rw, 0⟩] := rfl
  refine ⟨won, e, ?_, honly, ?_⟩
  · rw [Dev.oneMet_plain (d.plainReg_run (f := F.alcCtrl) (by decide)), Dev.fieldReq_addr, hfields]
    exact hwrite
  · rw [Dev.get, hreg]
    exact (bitsOf_insBits_same _ _ _ _ (by decide)).trans (Nat.mod_eq_of_lt hv)

/-- RATE beside RUN is written as it stands. -/
theorem Dev.oneMet_swmRun (hv : v < 2) (hmay : d.MaySet src F.swmCtrlRun) :
    ∃ won e, d.oneMet (d.fieldReq src F.swmCtrlRun v) = (⟨0, true, false, false, false, won⟩, e)
      ∧ d.RegsOnly e [F.swmCtrlRun.addr] ∧ e.get F.swmCtrlRun = v ∧ e.get F.swmCtrlRate = d.get F.swmCtrlRate := by
  obtain ⟨won, e, hrun, honly, hreg⟩ := Dev.fieldWrite_run (f := F.swmCtrlRun) (by decide) hv hmay
  have hplain := d.plainReg_run (f := F.swmCtrlRun) (by decide)
  have hword : d.fieldWord F.swmCtrlRun v = insBits (insBits (insBits 0 0 1 (bitsOf (d.reg F.swmCtrlRun.addr) 0 1)) 1 1
      (bitsOf (d.reg F.swmCtrlRun.addr) 1 1)) 0 1 v := rfl
  have hrate : bitsOf (reqWord (d.fieldReq src F.swmCtrlRun v)) 1 1 = bitsOf (d.reg F.swmCtrlRun.addr) 1 1 := by
    rw [Dev.fieldReq, reqWord_regReq, hword, bitsOf_insBits_other _ _ _ _ _ _ (by decide),
      bitsOf_insBits_same _ _ _ _ (by decide), Nat.mod_eq_of_lt (bitsOf_lt _ _ _)]
  have hbeside : bitsOf (e.reg F.swmCtrlRun.addr) 1 1 = bitsOf (d.reg F.swmCtrlRun.addr) 1 1 := by
    rw [hreg]
    exact bitsOf_insBits_other _ _ _ _ _ _ (by decide)
  obtain ⟨did, e', hsame, honly', hreg'⟩ := Dev.fieldWrite_same (r := d.fieldReq src F.swmCtrlRun v) hplain ⟨1, 1, .lk, 0⟩
    ⟨0, true, false, false, false, won⟩ e (.inl rfl) hrate hbeside
  have hfields : regFields F.swmCtrlRun.addr = [⟨0, 1, .rw, 0⟩, ⟨1, 1, .lk, 0⟩] := rfl
  have hword' : e'.reg F.swmCtrlRun.addr = insBits (d.reg F.swmCtrlRun.addr) 0 1 v := hreg'.trans hreg
  refine ⟨won, e', ?_, honly.trans honly', ?_, ?_⟩
  · rw [Dev.oneMet_plain hplain, Dev.fieldReq_addr, hfields, List.foldl, List.foldl, hrun, hsame]
    rfl
  · rw [Dev.get, hword']
    exact (bitsOf_insBits_same _ _ _ _ (by decide)).trans (Nat.mod_eq_of_lt hv)
  · rw [Dev.get, show F.swmCtrlRate.addr = F.swmCtrlRun.addr from rfl, hword']
    exact bitsOf_insBits_other _ _ _ _ _ _ (by decide)

/-- INJECT is an action; EN beside it is written as it stands. -/
theorem Dev.oneMet_inject :
    ∃ e, d.oneMet (d.fieldReq src F.swmSenCtrlInject 1) = (⟨2, true, false, false, false, none⟩, e) ∧ d.RegsOnly e [] := by
  have hplain := d.plainReg_run (f := F.swmSenCtrlInject) (by decide)
  have hword : reqWord (d.fieldReq src F.swmSenCtrlInject 1)
      = insBits (insBits 0 0 1 (bitsOf (d.reg F.swmSenCtrlInject.addr) 0 1)) 1 1 1 := by
    rw [Dev.fieldReq, reqWord_regReq]
    rfl
  have hen : bitsOf (reqWord (d.fieldReq src F.swmSenCtrlInject 1)) 0 1 = bitsOf (d.reg F.swmSenCtrlInject.addr) 0 1 := by
    rw [hword, bitsOf_insBits_other _ _ _ _ _ _ (by decide), bitsOf_insBits_same _ _ _ _ (by decide),
      Nat.mod_eq_of_lt (bitsOf_lt _ _ _)]
  have hone : reqWord (d.fieldReq src F.swmSenCtrlInject 1) &&& fieldMask 1 1 = 2 := by
    rw [hword, insBits_and_fieldMask]
    decide
  obtain ⟨did, e, hsame, ⟨x, y, z, he, hx⟩, hreg⟩ := Dev.fieldWrite_same (r := d.fieldReq src F.swmSenCtrlInject 1) hplain
    ⟨0, 1, .rws .block, 0⟩ Met.none' d (.inr ⟨_, rfl⟩) hen rfl
  have hfields : regFields F.swmSenCtrlInject.addr = [⟨0, 1, .rws .block, 0⟩, ⟨1, 1, .w1s, 0⟩] := rfl
  refine ⟨e, ?_, ⟨x, y, z, he, fun b _ hrec => ?_⟩⟩
  · rw [Dev.oneMet_plain hplain, Dev.fieldReq_addr, hfields, List.foldl, List.foldl, hsame]
    simp [Dev.fieldWrite, Met.none', hone]
  · by_cases hb : b = F.swmSenCtrlInject.addr
    · subst hb
      rw [he] at hreg
      exact hreg
    · exact hx b (by simpa using hb) hrec

end

end Sys2Proof.Machine
end

section
/-! SUPPORT. What a write of RUN or INJECT starts, and the settlement of O26. -/

namespace Sys2Proof.Machine

/-- A field of one bit. -/
theorem bitsOf_bit (w : Word) (k : Nat) : (bitsOf w k 1 != 0) = w.getLsbD k := by
  have hbit := testBit_bitsOf w k 1 0
  have hlt := bitsOf_lt w k 1
  generalize bitsOf w k 1 = x at hbit hlt
  have hx : x = 0 ∨ x = 1 := by omega
  rcases hx with rfl | rfl <;> simpa using hbit

/-! ### What the writes start -/

section
variable {d e : Dev} {l : List Nat}

/-- SWM_CTRL keeps its RATE: the grid stays, and RUN shows in SWM_STATUS. -/
theorem Dev.swmHook_run (hrate : e.get F.swmCtrlRate = d.get F.swmCtrlRate) (w1 : Word) :
    e.swmHook F.swmCtrlRun.addr (d.reg F.swmCtrlRun.addr) w1
      = (if e.on F.swmCtrlRun then e.put F.swmStatusRunning 1 else e).dropHealth := by
  have hperiod : (if (d.reg F.swmCtrlRun.addr).getLsbD 1 then 32768 else 65536) = e.period := by
    rw [Dev.period, Dev.rate96, Dev.on, hrate]
    exact (congrArg (fun b : Bool => if b = true then 32768 else 65536) (bitsOf_bit (d.reg F.swmCtrlRun.addr) 1)).symm
  have hgrid : e.regrid e.period = e := if_pos rfl
  unfold Dev.swmHook
  rw [if_pos rfl, hperiod, hgrid]

/-- RUN of ALC_CTRL written 0 discards every entry. -/
theorem Dev.alcHook_stop (hrun : (d.reg F.alcCtrl.addr).getLsbD 0 = true) (hstop : e.on F.alcCtrl = false) :
    e.alcHook F.alcCtrl.addr (d.reg F.alcCtrl.addr) = e.alcStop.dropHealth := if_pos ⟨rfl, hrun, hstop⟩

theorem Dev.alcHook_start (old : Word) (hstart : e.on F.alcCtrl = true) : e.alcHook F.alcCtrl.addr old = e :=
  if_neg (by simp [hstart])

/-- Entries that leave the queue one by one leave what none of them names. -/
theorem Dev.alc_eachDrop (d : Dev) (l : List QEntry) : ∃ q h, d.each l (fun e d => d.dropEntry e) =
      { d with alc := { d.alc with queue := q, huskRes := h } }
    ∧ q = d.alc.queue.filter fun x => l.all fun y => x.seq != y.seq := by
  induction l generalizing d with
  | nil => exact ⟨d.alc.queue, d.alc.huskRes, rfl, by simp⟩
  | cons y l ih =>
    obtain ⟨q, h, heq, hq⟩ := ih (d.dropEntry y)
    refine ⟨q, h, heq, ?_⟩
    rw [hq]
    simp [Dev.dropEntry, List.filter_filter, Bool.and_comm]

/-- ALC_CTRL.RUN at 0: no entry is left, and each is counted. -/
theorem Dev.alcStop_eq (d : Dev) : ∃ h, d.alcStop =
    ({ d with alc := { d.alc with queue := [], huskRes := h } } : Dev).bumpBy F.alcCntDiscard d.alc.queue.length := by
  obtain ⟨q, h, heq, hq⟩ := d.alc_eachDrop d.alc.queue
  have hnone : q = [] := by
    rw [hq, List.filter_eq_nil_iff]
    intro x hx hall
    exact absurd (List.all_eq_true.1 hall x hx) (by simp)
  exact ⟨h, by rw [Dev.alcStop, Dev.discardAll, heq, hnone]⟩

/-! ### The hooks, by register -/

theorem Dev.regHook_swmRun (e d : Dev) (byHost : Bool) :
    e.regHook d F.swmCtrlRun.addr 0 byHost = (.ok, e.swmHook F.swmCtrlRun.addr (d.reg F.swmCtrlRun.addr) 0) := rfl
theorem Dev.regHook_alcRun (e d : Dev) (byHost : Bool) :
    e.regHook d F.alcCtrl.addr 0 byHost = (.ok, e.alcHook F.alcCtrl.addr (d.reg F.alcCtrl.addr)) := rfl
theorem Dev.regHook_inject (e d : Dev) (byHost : Bool) :
    e.regHook d F.swmSenCtrlInject.addr 2 byHost = (.ok, e.setSen { e.swm.sen with inject := true }) := rfl

end

section
variable {s : State} {src : Src}

/-! ### The commands -/

theorem exec_swmRunStart : exec (.swmRunStart src) s = s.effect fun d => d.srcWrite src F.swmCtrlRun 1 := rfl
theorem exec_swmRunStop : exec (.swmRunStop src) s = s.effect fun d => d.srcWrite src F.swmCtrlRun 0 := rfl
theorem exec_alcRunStart : exec (.alcRunStart src) s = s.effect fun d => d.srcWrite src F.alcCtrl 1 := rfl
theorem exec_alcRunStop : exec (.alcRunStop src) s = s.effect fun d => d.srcWrite src F.alcCtrl 0 := rfl
theorem exec_sentinelInject : exec (.sentinelInject src) s = s.effect fun d => d.srcWrite src F.swmSenCtrlInject 1 := rfl

theorem leaves_effect {c : Instr} {g : Dev → Dev} {P : Dev → Prop} (hc : exec c s = s.effect g) (h : P (g s.dev)) : Leaves c s P :=
  ⟨{ s with dev := g s.dev }, hc, rfl, h⟩

variable {d : Dev}

/-- What a write that changes registers alone leaves, once its sender is told. -/
theorem Dev.RegsOnly.told {e : Dev} {l : List Nat} (h : d.RegsOnly e l) (src : Src) (a : Nat) :
    (e.told src a).mem = d.mem ∧ (e.told src a).cue = d.cue ∧ (e.told src a).swm = d.swm ∧ (e.told src a).alc = d.alc
      ∧ d.KeepsRegs (e.told src a) l := by
  obtain ⟨hmem, hcue, hswm, halc⟩ := h.frame
  obtain ⟨hregs, hmem', hcue', hswm', halc'⟩ := e.told_frame src a
  exact ⟨hmem'.trans hmem, hcue'.trans hcue, hswm'.trans hswm, halc'.trans halc,
    fun b hb hrec => (Dev.reg_congr hregs b).trans (h.reg hb hrec)⟩

theorem Dev.get_told (e : Dev) (src : Src) (a : Nat) (f : Fld) : (e.told src a).get f = e.get f :=
  Dev.get_congr (e.told_frame src a).1 f

theorem Dev.get_dropHealth (e : Dev) (f : Fld) : e.dropHealth.get f = e.get f := by
  unfold Dev.dropHealth
  split <;> rfl

/-- SWM_CTRL.RUN written `v`: the registers after it. -/
theorem Dev.srcWrite_swmRun {v : Nat} (hv : v < 2) (htake : d.TakesField src F.swmCtrlRun v) (hmay : d.MaySet src F.swmCtrlRun) :
    ∃ e, d.RegsOnly e [F.swmCtrlRun.addr] ∧ e.get F.swmCtrlRun = v
      ∧ d.srcWrite src F.swmCtrlRun v
        = ((if e.on F.swmCtrlRun then e.put F.swmStatusRunning 1 else e).dropHealth).told src F.swmCtrlRun.addr := by
  obtain ⟨won, e, hmet, honly, hrun, hrate⟩ := Dev.oneMet_swmRun hv hmay
  obtain ⟨e', hflt, hwrite⟩ := Dev.srcWrite_done (d.plainReg_run (f := F.swmCtrlRun) (by decide)) htake hmet _
    fun x => x.regHook_swmRun d _
  have hget (f : Fld) (hf : f.addr = 0x1800) : e'.get f = e.get f := hflt.get f (by rw [hf]; decide)
  refine ⟨e', honly.trans (hflt.regsOnly _), (hget _ rfl).trans hrun, ?_⟩
  rw [hwrite, Dev.swmHook_run ((hget _ rfl).trans hrate)]

theorem swmRunStart_runs (htake : s.dev.TakesField src F.swmCtrlRun 1) (hmay : s.dev.MaySet src F.swmCtrlRun) :
    Leaves (.swmRunStart src) s fun e => e.get F.swmCtrlRun = 1 ∧ e.mem = s.dev.mem ∧ e.cue = s.dev.cue
      ∧ e.on F.swmStatusRunning = true ∧ e.swm = s.dev.swm ∧ e.alc = s.dev.alc
      ∧ s.dev.KeepsRegs e [F.swmCtrlRun.addr, F.swmStatusRunning.addr] := by
  refine leaves_effect exec_swmRunStart ?_
  obtain ⟨e, honly, hrun, hwrite⟩ := Dev.srcWrite_swmRun (by decide) htake hmay
  have hon : e.on F.swmCtrlRun = true := by rw [Dev.on, hrun]; rfl
  rw [hwrite, if_pos hon]
  have hput : e.RegsOnly (e.put F.swmStatusRunning 1) [F.swmStatusRunning.addr] := e.regsOnly_setReg _ _
  have hall := ((honly.mono (by simp)).trans (hput.mono (by simp))).trans ((Dev.fltOnly_dropHealth _).regsOnly
    [F.swmCtrlRun.addr, F.swmStatusRunning.addr])
  obtain ⟨hmem, hcue, hswm, halc, hkeeps⟩ := hall.told src F.swmCtrlRun.addr
  refine ⟨?_, hmem, hcue, ?_, hswm, halc, hkeeps⟩
  · rw [Dev.get_told, Dev.get_dropHealth, Dev.get_put_other _ _ _ _ (by decide)]
    exact hrun
  · rw [Dev.on, Dev.get_told, Dev.get_dropHealth, Dev.get_put_same _ _ _ (by decide)]
    rfl

theorem swmRunStop_runs (htake : s.dev.TakesField src F.swmCtrlRun 0) (hmay : s.dev.MaySet src F.swmCtrlRun) :
    Leaves (.swmRunStop src) s fun e => e.get F.swmCtrlRun = 0 ∧ e.mem = s.dev.mem ∧ e.cue = s.dev.cue
      ∧ e.swm = s.dev.swm ∧ e.alc = s.dev.alc ∧ s.dev.KeepsRegs e [F.swmCtrlRun.addr] := by
  refine leaves_effect exec_swmRunStop ?_
  obtain ⟨e, honly, hrun, hwrite⟩ := Dev.srcWrite_swmRun (by decide) htake hmay
  have hoff : e.on F.swmCtrlRun = false := by rw [Dev.on, hrun]; rfl
  rw [hwrite, if_neg (by simp [hoff])]
  obtain ⟨hmem, hcue, hswm, halc, hkeeps⟩ :=
    (honly.trans ((Dev.fltOnly_dropHealth _).regsOnly _)).told src F.swmCtrlRun.addr
  exact ⟨by rw [Dev.get_told, Dev.get_dropHealth, hrun], hmem, hcue, hswm, halc, hkeeps⟩

/-- ALC_CTRL.RUN written `v`: the registers after it. -/
theorem Dev.srcWrite_alcRun {v : Nat} (hv : v < 2) (htake : d.TakesField src F.alcCtrl v) (hmay : d.MaySet src F.alcCtrl) :
    ∃ e, d.RegsOnly e [F.alcCtrl.addr] ∧ e.get F.alcCtrl = v
      ∧ d.srcWrite src F.alcCtrl v = (e.alcHook F.alcCtrl.addr (d.reg F.alcCtrl.addr)).told src F.alcCtrl.addr := by
  obtain ⟨won, e, hmet, honly, hrun⟩ := Dev.oneMet_alcRun hv hmay
  obtain ⟨e', hflt, hwrite⟩ := Dev.srcWrite_done (d.plainReg_run (f := F.alcCtrl) (by decide)) htake hmet _
    fun x => x.regHook_alcRun d _
  exact ⟨e', honly.trans (hflt.regsOnly _), (hflt.get _ (by decide)).trans hrun, hwrite⟩

theorem alcRunStart_runs (htake : s.dev.TakesField src F.alcCtrl 1) (hmay : s.dev.MaySet src F.alcCtrl) :
    Leaves (.alcRunStart src) s fun e => e.get F.alcCtrl = 1 ∧ e.mem = s.dev.mem ∧ e.cue = s.dev.cue
      ∧ e.swm = s.dev.swm ∧ e.alc = s.dev.alc ∧ s.dev.KeepsRegs e [F.alcCtrl.addr] := by
  refine leaves_effect exec_alcRunStart ?_
  obtain ⟨e, honly, hrun, hwrite⟩ := Dev.srcWrite_alcRun (by decide) htake hmay
  have hon : e.on F.alcCtrl = true := by rw [Dev.on, hrun]; rfl
  rw [hwrite, Dev.alcHook_start _ hon]
  obtain ⟨hmem, hcue, hswm, halc, hkeeps⟩ := honly.told src F.alcCtrl.addr
  exact ⟨by rw [Dev.get_told, hrun], hmem, hcue, hswm, halc, hkeeps⟩

theorem alcRunStop_runs (htake : s.dev.TakesField src F.alcCtrl 0) (hmay : s.dev.MaySet src F.alcCtrl) (hruns : s.dev.get F.alcCtrl ≠ 0) :
    Leaves (.alcRunStop src) s fun e => e.get F.alcCtrl = 0 ∧ e.mem = s.dev.mem ∧ e.cue = s.dev.cue
      ∧ e.swm = s.dev.swm ∧ e.alc.queue = [] ∧ e.alc.vtab = s.dev.alc.vtab
      ∧ e.get F.alcCntDiscard = min (2 ^ 32 - 1) (s.dev.get F.alcCntDiscard + s.dev.alc.queue.length)
      ∧ s.dev.KeepsRegs e [F.alcCtrl.addr, F.alcCntDiscard.addr] := by
  refine leaves_effect exec_alcRunStop ?_
  obtain ⟨e, honly, hrun, hwrite⟩ := Dev.srcWrite_alcRun (by decide) htake hmay
  have hoff : e.on F.alcCtrl = false := by rw [Dev.on, hrun]; rfl
  have hwas : (s.dev.reg F.alcCtrl.addr).getLsbD 0 = true := by
    rw [← bitsOf_bit]
    exact bne_iff_ne.2 hruns
  obtain ⟨h, hstop⟩ := e.alcStop_eq
  obtain ⟨hmem, hcue, hswm, halc⟩ := honly.frame
  rw [hwrite, Dev.alcHook_stop hwas hoff, hstop, halc]
  obtain ⟨x, hx⟩ : ∃ x : Dev, x = { e with alc := { s.dev.alc with queue := [], huskRes := h } } := ⟨_, rfl⟩
  have hget (f : Fld) : x.get f = e.get f := by rw [hx]; rfl
  have hreg (b : Nat) : x.reg b = e.reg b := by rw [hx]; rfl
  have hcount : x.get F.alcCntDiscard = s.dev.get F.alcCntDiscard := by
    rw [hget, Dev.get, Dev.get, honly.reg (by decide) (by decide)]
  have hbump : x.RegsOnly (x.bumpBy F.alcCntDiscard s.dev.alc.queue.length) [F.alcCntDiscard.addr] := x.regsOnly_setReg _ _
  obtain ⟨hmem', hcue', hswm', halc', hkeeps⟩ :=
    (hbump.trans ((Dev.fltOnly_dropHealth _).regsOnly _)).told src F.alcCtrl.addr
  rw [← hx]
  refine ⟨?_, hmem'.trans (by rw [hx, ← hmem]), hcue'.trans (by rw [hx, ← hcue]), hswm'.trans (by rw [hx, ← hswm]),
    by rw [halc', hx], by rw [halc', hx], ?_, fun b hb hrec => ?_⟩
  · rw [Dev.get_told, Dev.get_dropHealth, Dev.bumpBy, Dev.get_put_other _ _ _ _ (by decide), hget, hrun]
  · rw [Dev.get_told, Dev.get_dropHealth, Dev.bumpBy, Dev.get_put_same _ _ _ (by decide), hcount]
    exact Nat.mod_eq_of_lt (by simp only [F.alcCntDiscard]; omega)
  · simp only [List.mem_cons, List.not_mem_nil, or_false, not_or] at hb
    obtain ⟨hctrl, hdiscard⟩ := hb
    rw [hkeeps b (by simpa using hdiscard) hrec, hreg, honly.reg (by simpa using hctrl) hrec]

theorem sentinelInject_taken (htake : s.dev.TakesField src F.swmSenCtrlInject 1) :
    Leaves (.sentinelInject src) s fun e =>
      e.swm = { s.dev.swm with sen := { s.dev.swm.sen with inject := true } } ∧ e.mem = s.dev.mem ∧ e.alc = s.dev.alc
        ∧ s.dev.KeepsRegs e [] := by
  refine leaves_effect exec_sentinelInject ?_
  obtain ⟨e, hmet, honly⟩ := Dev.oneMet_inject (d := s.dev) (src := src)
  obtain ⟨e', hflt, hwrite⟩ := Dev.srcWrite_done (s.dev.plainReg_run (f := F.swmSenCtrlInject) (by decide)) htake hmet _
    fun x => x.regHook_inject s.dev _
  have hall := honly.trans (hflt.regsOnly _)
  obtain ⟨hmem, -, hswm, halc⟩ := hall.frame
  obtain ⟨hregs, hmem', -, hswm', halc'⟩ := (e'.setSen { e'.swm.sen with inject := true }).told_frame src F.swmSenCtrlInject.addr
  rw [hwrite]
  refine ⟨hswm'.trans ?_, hmem'.trans hmem, halc'.trans halc, fun b hb hrec => (Dev.reg_congr hregs b).trans (hall.reg hb hrec)⟩
  rw [← hswm]
  rfl

end

/-! ### O26 -/

theorem edges_counting (s : State) (h : s.dev.time.counting = true) (a : Nat) (f : Field) (hf : f ∈ regFields a) :
    (Leaves .sampleEdge s fun e => s.dev.Applies .sample a f e ∧ e.time.smp = BitVec.ofNat 64 (s.dev.time.smp.toNat + 1)
        ∧ e.time.ht = BitVec.ofNat 64 (max s.dev.now ((s.dev.time.smp.toNat + 1) * s.dev.period)) ∧ e.time.blk = s.dev.time.blk)
      ∧ (Leaves .blockEdge s fun e => s.dev.Applies .block a f e ∧ e.time.blk = BitVec.ofNat 64 (s.dev.time.blk.toNat + 1)
        ∧ e.time.ht = BitVec.ofNat 64 (max s.dev.now ((s.dev.time.blk.toNat + 1) * blockTk)) ∧ e.time.smp = s.dev.time.smp
        ∧ e.setters = [])
      ∧ (Leaves .frameBoundary s fun e => s.dev.Applies .frame a f e
        ∧ e.time.ht = BitVec.ofNat 64 (max s.dev.now (s.dev.std.firstTick (s.dev.time.frame.toNat + 1)))
        ∧ e.regs = (s.dev.reach (s.dev.std.firstTick (s.dev.time.frame.toNat + 1))).regs ∧ e.mem = s.dev.mem ∧ e.cue = s.dev.cue) :=
  ⟨leaves_effect (exec_sampleEdge s) ⟨s.dev.applies_sampleEdge hf h, s.dev.time_sampleEdge h⟩,
    leaves_effect (exec_blockEdge s) ⟨s.dev.applies_blockEdge hf h, s.dev.time_blockEdge h⟩,
    leaves_effect (exec_frameBoundary s) ⟨s.dev.applies_frameEdge hf h, s.dev.frameEdge_frame h⟩⟩

/-- Settles O26: each edge is an apply point followed by work that leaves applied values and time alone; a write of RUN or INJECT is the
account of its one field and what it starts; the stop of the swarm frees every bound voice at the sample edge. -/
theorem swarmEdgesAndRunControl : Obligations.SwarmEdgesAndRunControl := by
  refine ⟨fun s a f hf => ⟨fun h => edges_counting s h a f hf, edges_idle s⟩,
    fun s src => ⟨?_, ?_, ?_, ?_, ?_, sentinelInject_taken⟩⟩
  · exact fun htake hmay _ => swmRunStart_runs htake hmay
  · exact fun htake hmay _ => swmRunStop_runs htake hmay
  · exact fun htake hmay _ => alcRunStart_runs htake hmay
  · exact fun htake hmay hruns => alcRunStop_runs htake hmay hruns
  · intro h hcore hrun hrunning
    obtain ⟨⟨hvoices, hhusks, hramps⟩, hstat⟩ := s.dev.sampleEdge_ends h hcore hrun hrunning
    exact leaves_effect (exec_sampleEdge s) ⟨hvoices, hhusks, hramps, hstat⟩

end Sys2Proof.Machine
end

section
/-! SUPPORT. The state after reset; the empty queue and the order of the waiting commands (log 3, R54). -/

namespace Sys2Proof.Machine

/-! ### O5 -/

/-- Settles O5: the tables of the reset state are empty, so every register and thread shows what an unlisted one does. -/
theorem resetState : Obligations.ResetState := by
  refine ⟨rfl, rfl, rfl, rfl, rfl, rfl, rfl, rfl, ?_, fun _ => rfl, fun _ => rfl, rfl, rfl, rfl, rfl⟩
  decide

/-! ### Every command answers a next state and leaves the queue -/

theorem exec_next (c : Instr) (s : State) : ∃ d, exec c s = .next { s with dev := d } := by
  cases c <;> exact ⟨_, rfl⟩

theorem step_next (s : State) : ∃ t, step s = .next t ∧ t.pending = s.pending.drop 1 := by
  unfold step
  cases hp : s.pending with
  | nil => exact ⟨_, rfl, by simp⟩
  | cons c rest =>
    obtain ⟨d, hd⟩ := exec_next c { s with pending := rest }
    exact ⟨_, hd, rfl⟩

/-- Each of `n` steps takes one command off the front of the queue. -/
theorem run_drops (n : Nat) (s : State) :
    ∃ t, Host.Core.run Sys2Proof.core n s = .next t ∧ t.pending = s.pending.drop n := by
  induction n generalizing s with
  | zero => exact ⟨s, rfl, rfl⟩
  | succ n ih =>
    obtain ⟨u, hstep, hu⟩ := step_next s
    obtain ⟨t, hrun, ht⟩ := ih u
    refine ⟨t, ?_, ?_⟩
    · have hcore : Sys2Proof.core.step s = .next u := hstep
      simp only [Host.Core.run, hcore]
      exact hrun
    · rw [ht, hu, List.drop_drop, Nat.add_comm]

/-! ### One XI cycle -/

/-- House time with its counters, the memory, the cue engine, the swarm and the host port. -/
def Dev.mains (d : Dev) : TimeS × MemS × CueS × SwmS × HcpS := (d.time, d.mem, d.cue, d.swm, d.hcp)

section
variable (d : Dev)

theorem Dev.mains_rechoose : d.rechoose.mains = d.mains := by
  have hchoose : d.choosePower.mains = d.mains := by
    unfold Dev.choosePower
    extract_lets s ceil chosen pwr d1
    have hwake (n : Nat) : (d1.beginWake n).mains = d.mains := by
      unfold Dev.beginWake
      split <;> rfl
    split
    · rfl
    · split
      · split
        · exact hwake _
        · rfl
      · split
        · exact hwake _
        · split
          · rfl
          · split <;> rfl
  unfold Dev.rechoose
  split
  · rfl
  · exact hchoose

theorem Dev.mains_ibaCycle : d.ibaCycle.mains = d.mains := by
  unfold Dev.ibaCycle
  split <;> dsimp only <;> split <;> rfl

theorem Dev.mains_cardFail (why : Nat) : (d.cardFail why).mains = d.mains := by
  have hdeact (e : Dev) : e.cardDeact.mains = e.mains := by
    unfold Dev.cardDeact
    split <;> rfl
  unfold Dev.cardFail
  extract_lets st d1 d2
  have h2 : d2.mains = d.mains := by
    unfold d2
    split
    · exact hdeact d1
    · rfl
  split
  · exact h2
  · exact h2

theorem Dev.mains_cardCycle : d.cardCycle.mains = d.mains := by
  unfold Dev.cardCycle
  split
  · rfl
  · extract_lets left d1 d2
    split
    · rfl
    · split
      · split
        · rfl
        · exact d2.mains_cardFail 1
      · rfl

/-- A sum of house time and its fraction, in ticks and fraction. -/
theorem ticks_fraction (x : Nat) :
    (BitVec.ofNat 64 (x / 2 ^ 32)).toNat * 2 ^ 32 + (BitVec.ofNat 32 x).toNat = x % 2 ^ 96 := by
  rw [BitVec.toNat_ofNat, BitVec.toNat_ofNat]
  omega

theorem Dev.mains_eclkRun (k : Nat) : (d.eclkRun k).mains = d.mains := by
  have haside := d.eclkRun_aside k
  rw [Dev.mains, Dev.time_of_kept (d.kept_eclkRun k), show (d.eclkRun k).mem = d.mem from (congrArg Dev.mem haside :),
    show (d.eclkRun k).cue = d.cue from (congrArg Dev.cue haside :), show (d.eclkRun k).swm = d.swm from (congrArg Dev.swm haside :),
    show (d.eclkRun k).hcp = d.hcp from (congrArg Dev.hcp haside :)]
  rfl

theorem Dev.mains_xiWrite : ∃ i, d.xiWrite.mains = ({ d.time with incr := i }, d.mem, d.cue, d.swm, d.hcp) := by
  obtain ⟨i, r, n, hx⟩ := d.xiWrite_incr
  exact ⟨i, by rw [hx]; rfl⟩

/-- House time and its fraction hold `x`, the ticks times 2^32 with the fraction. -/
def Dev.withTicks (d : Dev) (x : Nat) : Dev :=
  { d with time := { d.time with ht := BitVec.ofNat 64 (x / 2 ^ 32), frac := BitVec.ofNat 32 x } }

/-- House time with its fraction after one XI cycle. -/
def Dev.xiTicks (d : Dev) : Nat := d.time.ht.toNat * 2 ^ 32 + d.time.frac.toNat + d.time.incr.toNat

theorem Dev.mains_withTicks (x : Nat) : ∃ i, (d.withTicks x).xiWrite.mains =
    ({ (d.withTicks x).time with incr := i }, d.mem, d.cue, d.swm, d.hcp) := (d.withTicks x).mains_xiWrite

/-- One XI cycle while house time counts: HT_INCR is added to house time and its fraction (R54). -/
theorem Dev.mains_xiCycle (h : d.time.counting = true) :
    ∃ i, d.xiCycle.mains = ({ (d.withTicks d.xiTicks).time with incr := i }, d.mem, d.cue, d.swm, d.hcp) := by
  have hcycle : d.xiCycle = ((d.withTicks d.xiTicks).xiWrite.eclkRun
      (eclkOf (d.xiTicks / 2 ^ 32) - eclkOf d.now)).rechoose.ibaCycle.cardCycle := by
    unfold Dev.xiCycle
    rw [h]
    rfl
  obtain ⟨i, hx⟩ := d.mains_withTicks d.xiTicks
  refine ⟨i, Eq.trans ?_ hx⟩
  rw [hcycle, Dev.mains_cardCycle, Dev.mains_ibaCycle, Dev.mains_rechoose, Dev.mains_eclkRun]

end

/-! ### O2 -/

/-- Settles O2: on an empty queue the sum of house time and HT_INCR is split again into ticks and fraction; the order of the commands is an
induction on the steps, as no command touches the queue. -/
theorem emptyQueueAndOrder : Obligations.EmptyQueueAndOrder := by
  refine ⟨fun s hempty => ⟨{ s with dev := s.dev.xiCycle }, ?_, hempty, fun hheld => ?_, fun hcounts => ?_⟩, fun s n => ?_⟩
  · simp only [step, hempty]
  · simp only [Dev.xiCycle, hheld, Bool.not_false, if_true]
  · obtain ⟨i, hmains⟩ := s.dev.mains_xiCycle hcounts
    simp only [Dev.mains, Prod.mk.injEq] at hmains
    obtain ⟨htime, hmem, hcue, hswm, hhcp⟩ := hmains
    refine ⟨?_, hmem, hcue, hswm, hhcp⟩
    rw [htime]
    exact ticks_fraction _
  · obtain ⟨t, hrun, ht⟩ := run_drops n s
    refine ⟨⟨t, hrun⟩, fun u hu => ?_⟩
    rw [hrun] at hu
    cases hu
    exact ht

end Sys2Proof.Machine
end

section
/-! SUPPORT. Reads of house time and of the log FIFO (R56, R58, R59, R80). -/

namespace Sys2Proof.Machine

theorem exec_htNowLoRead (p : Path) (s : State) :
    exec (.htNowLoRead p) s = s.effect fun d => d.srcRead p F.htNowLo.addr := rfl
theorem exec_htTsLoRead (p : Path) (s : State) :
    exec (.htTsLoRead p) s = s.effect fun d => d.srcRead p F.htTsLo.addr := rfl

section
variable (d : Dev) (p : Path)

/-- Both registers stand in HT, a block of the AON domain: a path reaches both or neither. -/
theorem Dev.reaches_htTsLo : d.reaches p F.htTsLo.addr = d.reaches p F.htNowLo.addr := rfl

/-! ### Snapshots -/

theorem Dev.snap_takeSnap_same : (d.takeSnap p).snap p = d.view := Tab.get_set_same _ _ _ _

theorem Dev.snap_takeSnap_other {q : Path} (h : q.rank ≠ p.rank) : (d.takeSnap p).snap q = d.snap q :=
  Tab.get_set_other _ _ _ h

/-- The snapshot's low word of house time is read at once. -/
theorem Dev.readReg_htNowLo : d.readReg p F.htNowLo.addr = (d.time.ht.truncate 32, d.takeSnap p) := by
  have hread : d.readReg p F.htNowLo.addr = (((d.takeSnap p).snap p).now.truncate 32, d.takeSnap p) := rfl
  rw [hread, d.snap_takeSnap_same]
  rfl

/-- HT_SEQ counts under the standards of 1.001 alone. -/
theorem Dev.seqWord_eq (t : Nat) : d.seqWord t = if d.get F.refCtrlStd ∈ [1, 2, 5, 8] then
    t * d.std.b / d.std.a % 5 + 128 + t % (5 * d.std.a / d.std.b) / d.period * 65536 else 0 :=
  if_congr decide_eq_true_iff rfl rfl

theorem htNowLoRead_takes (s : State) (hreach : s.dev.reaches p F.htNowLo.addr = true) :
    exec (.htNowLoRead p) s = .next { s with dev := (s.dev.takeSnap p).answer [] [s.dev.time.ht.truncate 32] } := by
  simp only [exec_htNowLoRead, State.effect, Dev.srcRead, hreach, if_true, Dev.readReg_htNowLo]

/-! ### The log FIFO -/

theorem Dev.readReg_htTsLo : d.readReg p F.htTsLo.addr = d.readStamp := rfl

theorem htTsLoRead_takes (s : State) (hreach : s.dev.reaches p F.htTsLo.addr = true) :
    exec (.htTsLoRead p) s = .next { s with dev := s.dev.readStamp.2.answer [] [s.dev.readStamp.1] } := by
  simp only [exec_htTsLoRead, State.effect, Dev.srcRead, hreach, if_true, Dev.readReg_htTsLo]

/-- HT_TS_HI and HT_TS_SRC show the stamp, with VALID. -/
def Dev.latchStamp (d : Dev) (x : Stamp) : Dev :=
  (((d.put F.htTsHi (x.ts / 2 ^ 32)).put F.htTsSrcSrc x.src).put F.htTsSrcEdge (if x.falling then 1 else 0)).put F.htTsSrcValid 1

theorem Dev.readStamp_cons (x : Stamp) (rest : List Stamp) (h : d.time.logFifo = x :: rest) :
    d.readStamp = (BitVec.ofNat 32 x.ts, ({ d with time := { d.time with logFifo := rest } } : Dev).latchStamp x) := by
  simp only [Dev.readStamp, h]
  rfl

theorem Dev.readStamp_nil (h : d.time.logFifo = []) :
    d.readStamp = (0, (d.setReg F.htTsHi.addr 0).setReg F.htTsSrcSrc.addr 0) := by
  simp only [Dev.readStamp, h]

theorem Dev.latchStamp_shows (x : Stamp) :
    (d.latchStamp x).get F.htTsHi = x.ts / 2 ^ 32 % 2 ^ 32 ∧ (d.latchStamp x).get F.htTsSrcSrc = x.src % 32
      ∧ (d.latchStamp x).on F.htTsSrcEdge = x.falling ∧ (d.latchStamp x).on F.htTsSrcValid = true := by
  unfold Dev.latchStamp Dev.on
  refine ⟨?_, ?_, ?_, ?_⟩
  · simp (disch := decide) only [Dev.get_put_other, Dev.get_put_same]
    rfl
  · simp (disch := decide) only [Dev.get_put_beside, Dev.get_put_same]
    rfl
  · simp (disch := decide) only [Dev.get_put_beside, Dev.get_put_same]
    cases x.falling <;> rfl
  · rw [Dev.get_put_same _ _ _ (by decide)]
    rfl

theorem Dev.reg_latchStamp (x : Stamp) {a : Nat} (ha : a ∉ [F.htTsHi.addr, F.htTsSrcSrc.addr]) : (d.latchStamp x).reg a = d.reg a := by
  simp only [List.mem_cons, List.not_mem_nil, or_false, not_or] at ha
  obtain ⟨hhi, hsrc⟩ := ha
  exact (Dev.reg_put_other _ F.htTsSrcValid _ _ hsrc).trans ((Dev.reg_put_other _ F.htTsSrcEdge _ _ hsrc).trans
    ((Dev.reg_put_other _ F.htTsSrcSrc _ _ hsrc).trans (Dev.reg_put_other _ F.htTsHi _ _ hhi)))

end

/-! ### O9 -/

/-- Settles O9: the snapshot is the view of the instant, stored under the path's own rank; a stamp's latching writes HT_TS_HI and HT_TS_SRC
alone. -/
theorem timeReads : Obligations.TimeReads := by
  intro s p hreach
  have hreach' : s.dev.reaches p F.htTsLo.addr = true := (s.dev.reaches_htTsLo p).trans hreach
  refine ⟨⟨s.dev.takeSnap p, htNowLoRead_takes p s hreach, rfl, ?_, fun q hq => s.dev.snap_takeSnap_other p hq⟩,
    fun x rest hfifo => ?_, fun hfifo => ?_⟩
  · rw [Dev.snap_takeSnap_same, Dev.view, Dev.seqWord_eq]
    rfl
  · have hread := s.dev.readStamp_cons x rest hfifo
    obtain ⟨hhi, hsrc, hedge, hvalid⟩ :=
      ({ s.dev with time := { s.dev.time with logFifo := rest } } : Dev).latchStamp_shows x
    exact ⟨_, by rw [htTsLoRead_takes p s hreach', hread], rfl, hhi, hsrc, hedge, hvalid,
      fun a ha _ => Dev.reg_latchStamp _ x ha⟩
  · rw [htTsLoRead_takes p s hreach', s.dev.readStamp_nil hfifo]

end Sys2Proof.Machine
end

section
/-! SUPPORT. What the passage of house time and a wake can change, said once: the registers of TCU and of PWR, and beside them house time,
HT_INCR with its history, and the channels. -/

namespace Sys2Proof.Machine

/-- The bit of a mask of one bit. -/
theorem getLsbD_one_shiftLeft {w n : Nat} (hn : n < w) (k : Nat) : (1#w <<< n).getLsbD k = decide (k = n) := by
  rw [BitVec.getLsbD_shiftLeft, BitVec.getLsbD_one]
  rcases Nat.lt_trichotomy k n with h | h | h
  · simp [h, h.ne]
  · subst h
    simp only [hn, Nat.sub_self, Nat.lt_irrefl, decide_true, decide_false, Bool.not_false, Bool.and_true, Bool.true_and]
    exact decide_eq_true (by omega)
  · simp [h.ne', show ¬ k - n = 0 by omega]

/-- What every pass of a loop keeps holds after it. -/
theorem Dev.each_keeps {α : Type} (P : Dev → Prop) (d : Dev) (l : List α) (f : α → Dev → Dev) (h0 : P d)
    (h : ∀ a ∈ l, ∀ e : Dev, P e → P (f a e)) : P (d.each l f) :=
  l.foldlRecOn (motive := P) _ h0 fun e he a ha => h a ha e he

/-! ### Counting -/

/-- The registers of TCU. -/
def tcuReg (a : Nat) : Bool := decide (0x4800 ≤ a ∧ a < 0x5000)

/-- `e` is `d` but for channels and the registers of TCU. -/
def Dev.TcuOnly (d e : Dev) : Prop :=
  ∃ r c, e = { d with regs := r, tcu := c } ∧ ∀ a, tcuReg a = false → Tab.get regReset r a = d.reg a

theorem Dev.TcuOnly.refl (d : Dev) : d.TcuOnly d := ⟨d.regs, d.tcu, rfl, fun _ _ => rfl⟩
theorem Dev.TcuOnly.trans {a b c : Dev} (h : a.TcuOnly b) (h' : b.TcuOnly c) : a.TcuOnly c := by
  obtain ⟨r, x, rfl, hr⟩ := h
  obtain ⟨r', x', rfl, hr'⟩ := h'
  exact ⟨r', x', rfl, fun y hy => (hr' y hy).trans (hr y hy)⟩

theorem Dev.TcuOnly.ite {d e : Dev} (h : d.TcuOnly e) (c : Prop) [Decidable c] : d.TcuOnly (if c then e else d) := by
  split
  · exact h
  · exact .refl d

section
variable (d : Dev)

theorem Dev.tcuOnly_put (f : Fld) (v : Nat) (h : tcuReg f.addr = true) : d.TcuOnly (d.put f v) :=
  ⟨_, d.tcu, rfl, fun a ha => Tab.get_set_other _ _ _ fun e => by rw [e, h] at ha; cases ha⟩
theorem Dev.tcuOnly_setChan (n : Nat) (c : Channel) : d.TcuOnly (d.setChan n c) := ⟨d.regs, _, rfl, fun _ _ => rfl⟩
theorem Dev.tcuOnly_each {α : Type} (l : List α) (f : α → Dev → Dev) (h : ∀ a ∈ l, ∀ e : Dev, e.TcuOnly (f a e)) :
    d.TcuOnly (d.each l f) :=
  d.each_keeps d.TcuOnly l f (.refl d) fun a ha e he => he.trans (h a ha e)

/-- The registers that counting writes. -/
theorem tcuReg_chan (n : Nat) (h : n < 9) : tcuReg (F.tcuChCnt n).addr = true ∧ tcuReg (F.tcuChStatOvf n).addr = true := by
  refine ⟨decide_eq_true ?_, decide_eq_true ?_⟩ <;> simp only [F.tcuChCnt, F.tcuChStatOvf] <;> omega

theorem Dev.tcuOnly_fire (n : Nat) (o a b : Bool) (hn : n < 9) : d.TcuOnly (d.fire n o a b) := by
  obtain ⟨-, hstat⟩ := tcuReg_chan n hn
  have hone (e : Dev) (c : Bool) (f : Fld) (g : Bool → Bool) (h : tcuReg f.addr = true) :
      e.TcuOnly (if c then (e.put f 1).setLevel n g else e) :=
    ((e.tcuOnly_put f 1 h).trans (Dev.tcuOnly_setChan _ n _)).ite _
  exact ((hone d o (F.tcuChStatOvf n) _ hstat).trans (hone _ a (F.tcuChStatCmpa n) _ hstat)).trans (hone _ b (F.tcuChStatCmpb n) _ hstat)

theorem Dev.tcuOnly_stepChan (n e : Nat) (hn : n < 8) : d.TcuOnly (d.stepChan n e) := by
  obtain ⟨hcnt, -⟩ := tcuReg_chan n (by omega)
  obtain ⟨hcnt', -⟩ := tcuReg_chan (n + 1) (by omega)
  unfold Dev.stepChan
  extract_lets c p lo once stops wide hi pairA pairB hiA hiB loA loB d1 d2 moves high d3
  have h1 : d.TcuOnly d1 := (d.tcuOnly_put _ _ hcnt).trans (Dev.tcuOnly_setChan _ n _)
  have h2 : d.TcuOnly d2 := h1.trans (d1.tcuOnly_fire n _ _ _ (by omega))
  have h3 : d2.TcuOnly d3 := (d2.tcuOnly_put _ _ hcnt').trans (Dev.tcuOnly_setChan _ (n + 1) _)
  split
  · exact .refl d
  · split
    · exact (h2.trans h3).trans (d3.tcuOnly_fire (n + 1) _ _ _ (by omega))
    · exact h2

theorem Dev.tcuOnly_sourceEvent (k : Nat) : d.TcuOnly (d.sourceEvent k) :=
  d.tcuOnly_each _ _ fun n hn e => (e.tcuOnly_stepChan n 1 (List.mem_range.1 hn)).ite _

theorem Dev.tcuOnly_eclkRun (k : Nat) : d.TcuOnly (d.eclkRun k) := by
  refine Dev.TcuOnly.ite ?_ _
  induction k with
  | zero => exact .refl d
  | succ k ih => exact ih.trans (Dev.tcuOnly_sourceEvent _ 0)

/-- A channel whose START a step of house time has passed (R322). -/
theorem Dev.tcuOnly_startIfPassed (n : Nat) (hn : n < 8) : d.TcuOnly (d.startIfPassed n) := by
  have hmember : ∀ m ∈ d.members n, m < 9 := by
    unfold Dev.members
    split <;> simp <;> omega
  have hstart : d.TcuOnly (d.startChan n) :=
    (d.members n).foldlRecOn (motive := fun e : Dev => d.TcuOnly e) _ (.refl d) fun e he m hm =>
      he.trans ((e.tcuOnly_setChan m _).trans (Dev.tcuOnly_fire _ m _ _ _ (hmember m hm)))
  obtain ⟨-, hstat⟩ := tcuReg_chan n (by omega)
  exact (hstart.trans ((Dev.tcuOnly_put _ (F.tcuChStatLate n) 1 hstat).trans (Dev.tcuOnly_put _ F.tcuCntLate _ (by decide)))).ite _

/-! ### House time moves -/

theorem Dev.xiWrite_frame : ∃ i h n, d.xiWrite =
    { d with time := { d.time with incr := i }, ref := { d.ref with incrHist := h }, fresh := n } ∧ (d.steers = false → i = d.time.incr) := by
  unfold Dev.xiWrite Dev.steer Dev.setIncr
  split
  · next hs =>
    dsimp only
    split <;> exact ⟨_, _, _, rfl, by simp [hs]⟩
  · exact ⟨d.time.incr, d.ref.incrHist, d.fresh, rfl, fun _ => rfl⟩

/-- House time is the instant reached unless it was past it; HT_INCR, its history, the draws and the Timer/Counter Unit alone change with it,
and HT_INCR only where the loop steers. -/
theorem Dev.reach_frame (t : Nat) : ∃ i h n r c, d.reach t = { d with
      time := { d.time with ht := BitVec.ofNat 64 (max d.now t), incr := i }
      ref := { d.ref with incrHist := h }, fresh := n, regs := r, tcu := c }
    ∧ (∀ a, tcuReg a = false → Tab.get regReset r a = d.reg a) ∧ (d.steers = false → i = d.time.incr) := by
  unfold Dev.reach
  split
  · next h =>
    refine ⟨d.time.incr, d.ref.incrHist, d.fresh, d.regs, d.tcu, ?_, fun _ _ => rfl, fun _ => rfl⟩
    rw [max_eq_left h, Dev.now, BitVec.ofNat_toNat, BitVec.setWidth_eq]
  · next h =>
    obtain ⟨i, l, n, hx, hi⟩ := Dev.xiWrite_frame { d with time := { d.time with ht := BitVec.ofNat 64 t } }
    obtain ⟨r, c, hrun, hr⟩ := Dev.tcuOnly_eclkRun
      ({ d with time := { d.time with ht := BitVec.ofNat 64 t } } : Dev).xiWrite (eclkOf t - eclkOf d.now)
    rw [hx] at hr hrun
    exact ⟨i, l, n, r, c, by rw [hx, hrun, max_eq_right (by omega)], hr, hi⟩

theorem Dev.reach_reg_of_tcu (t : Nat) {a : Nat} (ha : tcuReg a = false) : (d.reach t).reg a = d.reg a := by
  obtain ⟨i, h, n, r, c, hreach, hr, -⟩ := d.reach_frame t
  rw [hreach]
  exact hr a ha

theorem Dev.reach_get (t : Nat) (f : Fld) (hf : tcuReg f.addr = false) : (d.reach t).get f = d.get f := by
  rw [Dev.get, Dev.get, d.reach_reg_of_tcu t hf]

/-! ### Wakes (R395) -/

end

/-- The registers of PWR. -/
def pwrReg (a : Nat) : Bool := decide (0x0400 ≤ a ∧ a < 0x0800)

/-- `e` is `d` but for the registers of PWR. -/
def Dev.PwrOnly (d e : Dev) : Prop := ∃ r, e = { d with regs := r } ∧ ∀ a, pwrReg a = false → Tab.get regReset r a = d.reg a

theorem Dev.PwrOnly.refl (d : Dev) : d.PwrOnly d := ⟨d.regs, rfl, fun _ _ => rfl⟩

theorem Dev.PwrOnly.reg {d e : Dev} (h : d.PwrOnly e) {a : Nat} (ha : pwrReg a = false) : e.reg a = d.reg a := by
  obtain ⟨r, rfl, hr⟩ := h
  exact hr a ha

theorem Dev.PwrOnly.get {d e : Dev} (h : d.PwrOnly e) (f : Fld) (hf : pwrReg f.addr = false) : e.get f = d.get f := by
  rw [Dev.get, Dev.get, h.reg hf]

theorem Dev.PwrOnly.flt {d e : Dev} (h : d.PwrOnly e) : e.flt = d.flt := by
  obtain ⟨r, rfl, -⟩ := h
  rfl

theorem Dev.PwrOnly.beside {d e : Dev} (h : d.PwrOnly e) : e.time = d.time ∧ e.ref = d.ref := by
  obtain ⟨r, rfl, -⟩ := h
  exact ⟨rfl, rfl⟩

section
variable (d : Dev)

theorem Dev.pwrOnly_requestWake (cause : Nat) : d.PwrOnly (d.requestWake cause) := by
  have hbegin : d.PwrOnly (d.beginWake cause) := by
    unfold Dev.beginWake
    split
    · exact .refl d
    · refine ⟨_, rfl, fun a ha => ?_⟩
      have hne (f : Fld) (hf : pwrReg f.addr = true) : a ≠ f.addr := fun e => by rw [e, hf] at ha; cases ha
      exact (Dev.reg_put_other _ F.pwrLastWake _ _ (hne _ (by decide))).trans
        ((Dev.reg_put_other _ F.pwrStatusWaking _ _ (hne _ (by decide))).trans
          (Dev.reg_put_other _ F.pwrStatusEntering _ _ (hne _ (by decide))))
  unfold Dev.requestWake
  split
  · exact .refl d
  · exact hbegin

theorem Dev.pwrOnly_wakeOnEdge (n : Nat) : d.PwrOnly (d.wakeOnEdge n) := by
  unfold Dev.wakeOnEdge
  split
  · exact d.pwrOnly_requestWake _
  · exact .refl d

theorem Dev.pwrOnly_wakeOnFault (d0 : Dev) : d.PwrOnly (d0.wakeOnFault d) := by
  unfold Dev.wakeOnFault
  dsimp only
  split
  · exact d.pwrOnly_requestWake _
  · exact .refl d

/-- Where no bit of FLT_EVENT has been set nothing wakes. -/
theorem Dev.wakeOnFault_idle (d0 : Dev) (hreg : d.reg F.fltEventStateSplit.addr = d0.reg F.fltEventStateSplit.addr)
    (haon : d.flt.aonEvents = d0.flt.aonEvents) : d0.wakeOnFault d = d := by
  unfold Dev.wakeOnFault
  rw [hreg, haon]
  simp

/-- An event of the AON domain while house time counts. -/
theorem Dev.aonEvent_counting (h : d.time.counting = true) (f : Dev → Dev) : d.aonEvent f = d.wakeOnFault (f d) := if_pos h

end
end Sys2Proof.Machine
end

section
/-! SUPPORT. The timestamper (R78 to R81): which edges it takes, and what becomes of them. -/

namespace Sys2Proof.Machine

theorem exec_triggerEdge (pin : Fin 16) (falling : Bool) (phase : Fin 10) (s : State) :
    exec (.triggerEdge pin falling phase) s = s.effect fun d => d.triggerEdge pin falling phase := rfl
theorem exec_gpInputSettle (pin : Fin 16) (level : Bool) (s : State) :
    exec (.gpInputSettle pin level) s = s.effect fun d => d.gpSettled pin level := rfl

section
variable (d : Dev)

/-! ### The level of a pin -/

theorem Dev.gpLevel_setGpLevel (n : Nat) (level : Bool) (hn : n < 16) (k : Nat) :
    (d.setGpLevel n level).time.gpLevel.getLsbD k = if k = n then level else d.time.gpLevel.getLsbD k := by
  have hbit := getLsbD_one_shiftLeft hn k
  unfold Dev.setGpLevel
  cases level
  · by_cases h : k < 16
    · simp only [Bool.false_eq_true, if_false, BitVec.getLsbD_and, BitVec.getLsbD_not, hbit, h, decide_true, Bool.true_and]
      by_cases hk : k = n <;> simp [hk]
    · have hk : k ≠ n := by omega
      rw [BitVec.getLsbD_of_ge _ _ (by omega), if_neg hk, BitVec.getLsbD_of_ge _ _ (by omega)]
  · simp only [if_true, BitVec.getLsbD_or, hbit]
    by_cases hk : k = n <;> simp [hk]

theorem Dev.takesEdge_iff (n : Nat) (falling : Bool) :
    (d.takesEdge n falling && d.time.counting) = true ↔ d.time.counting = true ∧ (d.get F.htTsEn).testBit n = true
      ∧ (d.get F.htTsEdge / 4 ^ n % 4 = 2 ∨ (d.get F.htTsEdge / 4 ^ n % 4 = 0 ∧ falling = false)
        ∨ (d.get F.htTsEdge / 4 ^ n % 4 = 1 ∧ falling = true))
      ∧ (d.get F.htGpOe).testBit n = false ∧ d.time.gpSettle.getLsbD n = false := by
  simp only [Dev.takesEdge, Dev.edgeSelected, Bool.and_eq_true, Bool.or_eq_true, beq_iff_eq, Bool.not_eq_true']
  tauto

/-! ### A stamp and its FIFO -/

/-- An edge fewer than 204.8 tk after the last accepted edge of its input. -/
def Dev.near (st : Stamp) : Prop := ∃ t, Tab.find d.time.lastEdge st.src = some t ∧ 10 * st.ts < 10 * t + 2048

/-- The FIFO of a stamp's route. -/
def Dev.fifoOf (st : Stamp) : List Stamp := if d.toStrike st.src then d.time.strikeFifo else d.time.logFifo

/-- A stamp joins the FIFO of its route. -/
def Dev.stamped (st : Stamp) : Dev := { d with time := { d.time with
  lastEdge := Tab.put d.time.lastEdge st.src st.ts
  strikeFifo := if d.toStrike st.src then d.time.strikeFifo ++ [st] else d.time.strikeFifo
  logFifo := if d.toStrike st.src then d.time.logFifo else d.time.logFifo ++ [st] } }

/-- What becomes of a stamp. -/
theorem Dev.pushStamp_cases (st : Stamp) : (d.near st → d.pushStamp st = (.close, d.bump F.htTsDrop))
    ∧ (¬ d.near st → 16 ≤ (d.fifoOf st).length → d.pushStamp st = (.full, d.bump F.htTsDrop))
    ∧ (¬ d.near st → (d.fifoOf st).length < 16 → ∃ o, (o = .log ∨ o = .strike) ∧ d.pushStamp st = (o, d.stamped st)) := by
  unfold Dev.pushStamp
  extract_lets last close fifo time e
  have hclose : close = true ↔ d.near st := by
    unfold Dev.near
    show _ ↔ ∃ t, last = some t ∧ _
    cases hl : last <;> simp [close, hl]
  rw [← hclose]
  refine ⟨fun hc => if_pos hc, fun hc hfull => ?_, fun hc hroom => ?_⟩
  · rw [if_neg hc, if_pos (show 16 ≤ fifo.length from hfull)]
  · rw [if_neg hc, if_neg (show ¬ 16 ≤ fifo.length from Nat.not_le.2 hroom)]
    have hroute : e.toStrike st.src = d.toStrike st.src := rfl
    simp only [hroute, Dev.stamped]
    cases d.toStrike st.src
    · exact ⟨.log, .inl rfl, rfl⟩
    · exact ⟨.strike, .inr rfl, rfl⟩

theorem Dev.pushStamp_dropped (st : Stamp) (h : d.near st ∨ 16 ≤ (d.fifoOf st).length) :
    ∃ o, (o = .close ∨ o = .full) ∧ d.pushStamp st = (o, d.bump F.htTsDrop) := by
  obtain ⟨hclose, hfull, -⟩ := d.pushStamp_cases st
  by_cases hnear : d.near st
  · exact ⟨_, .inl rfl, hclose hnear⟩
  · exact ⟨_, .inr rfl, hfull hnear (h.resolve_left hnear)⟩

theorem Dev.pushStamp_joins (st : Stamp) (hnear : ¬ d.near st) (hroom : (d.fifoOf st).length < 16) :
    ∃ o, (o = .log ∨ o = .strike) ∧ d.pushStamp st = (o, d.stamped st) :=
  (d.pushStamp_cases st).2.2 hnear hroom

/-! ### The offer to the threads (R194) -/

/-- An offer changes threads, and counts the offers that found a full latch. -/
theorem Dev.offer_frame (src ts : Nat) : (d.offer src ts).time = d.time
    ∧ ∀ f : Fld, f.addr ≠ F.cueCntTrigovr.addr → (d.offer src ts).get f = d.get f := by
  refine d.each_keeps (fun e => e.time = d.time ∧ ∀ f : Fld, f.addr ≠ F.cueCntTrigovr.addr → e.get f = d.get f) (List.range 16) _
    ⟨rfl, fun _ _ => rfl⟩ fun n _ e he => ?_
  obtain ⟨htime, hget⟩ := he
  unfold Dev.offerTo
  dsimp only
  split
  · exact ⟨htime, hget⟩
  · split
    · exact ⟨htime, fun f hf => (e.get_bump_other _ f hf).trans (hget f hf)⟩
    · exact ⟨htime, fun f hf => hget f hf⟩

/-! ### An edge on a pin -/

section
variable (n : Nat) (falling : Bool) (phase : Nat)

/-- The stamp of an edge. -/
def Dev.edgeStamp : Stamp := ⟨d.stampNow phase, n, falling, 16, true⟩

theorem Dev.triggerEdge_ignored (h : ¬ (d.takesEdge n falling && d.time.counting) = true) :
    d.triggerEdge n falling phase = d.setGpLevel n !falling := by
  unfold Dev.triggerEdge
  extract_lets takes e
  exact if_pos (by rw [Bool.not_eq_true']; exact Bool.eq_false_iff.2 h)

theorem Dev.triggerEdge_dropped (h : (d.takesEdge n falling && d.time.counting) = true)
    (hdrop : d.near (d.edgeStamp n falling phase) ∨ 16 ≤ (d.fifoOf (d.edgeStamp n falling phase)).length) :
    d.triggerEdge n falling phase = (d.setGpLevel n !falling).bump F.htTsDrop := by
  obtain ⟨o, ho, hpush⟩ := (d.setGpLevel n !falling).pushStamp_dropped (d.edgeStamp n falling phase) hdrop
  unfold Dev.triggerEdge
  extract_lets takes e ts
  rw [if_neg (by rw [Bool.not_eq_true', Bool.not_eq_false]; exact h), show e.pushStamp ⟨ts, n, falling, 16, true⟩ = _ from hpush]
  rcases ho with rfl | rfl <;> rfl

theorem Dev.triggerEdge_stamped (h : (d.takesEdge n falling && d.time.counting) = true)
    (hnear : ¬ d.near (d.edgeStamp n falling phase)) (hroom : (d.fifoOf (d.edgeStamp n falling phase)).length < 16) :
    d.triggerEdge n falling phase =
      (((d.setGpLevel n !falling).stamped (d.edgeStamp n falling phase)).wakeOnEdge n).offer n (d.stampNow phase) := by
  obtain ⟨o, ho, hpush⟩ := (d.setGpLevel n !falling).pushStamp_joins (d.edgeStamp n falling phase) hnear hroom
  unfold Dev.triggerEdge
  extract_lets takes e ts
  rw [if_neg (by rw [Bool.not_eq_true', Bool.not_eq_false]; exact h), show e.pushStamp ⟨ts, n, falling, 16, true⟩ = _ from hpush]
  rcases ho with rfl | rfl <;> rfl

end

theorem Dev.toStrike_pin (pin : Fin 16) : d.toStrike pin = (d.get F.htTsRouteGp).testBit pin := if_pos pin.isLt

theorem triggerEdge_drops {s : State} {pin : Fin 16} {falling : Bool} {phase : Fin 10}
    (h : (s.dev.takesEdge pin falling && s.dev.time.counting) = true)
    (hdrop : s.dev.near (s.dev.edgeStamp pin falling phase) ∨ 16 ≤ (s.dev.fifoOf (s.dev.edgeStamp pin falling phase)).length) :
    Leaves (.triggerEdge pin falling phase) s fun e =>
      e.time.logFifo = s.dev.time.logFifo ∧ e.time.strikeFifo = s.dev.time.strikeFifo ∧ e.time.lastEdge = s.dev.time.lastEdge
      ∧ (∀ k, e.time.gpLevel.getLsbD k = if k = pin.val then !falling else s.dev.time.gpLevel.getLsbD k)
      ∧ e.get F.htTsDrop = min 65535 (s.dev.get F.htTsDrop + 1) ∧ s.dev.KeepsRegs e [F.htTsDrop.addr] ∧ e.cue = s.dev.cue := by
  refine leaves_effect (exec_triggerEdge pin falling phase s) ?_
  rw [Dev.triggerEdge_dropped _ _ _ _ h hdrop]
  exact ⟨rfl, rfl, rfl, s.dev.gpLevel_setGpLevel pin _ pin.isLt, Dev.get_bump_same _ _ (by decide),
    fun a ha _ => Dev.reg_put_other _ _ _ _ (by simpa using ha), rfl⟩

theorem triggerEdge_stamps {s : State} {pin : Fin 16} {falling : Bool} {phase : Fin 10}
    (h : (s.dev.takesEdge pin falling && s.dev.time.counting) = true)
    (hnear : ¬ s.dev.near (s.dev.edgeStamp pin falling phase)) (hroom : (s.dev.fifoOf (s.dev.edgeStamp pin falling phase)).length < 16) :
    Leaves (.triggerEdge pin falling phase) s fun e =>
      e.time = ((s.dev.setGpLevel pin !falling).stamped (s.dev.edgeStamp pin falling phase)).time
      ∧ e.get F.htTsDrop = s.dev.get F.htTsDrop := by
  refine leaves_effect (exec_triggerEdge pin falling phase s) ?_
  rw [Dev.triggerEdge_stamped _ _ _ _ h hnear hroom]
  obtain ⟨htime, hget⟩ := Dev.offer_frame (((s.dev.setGpLevel pin !falling).stamped (s.dev.edgeStamp pin falling phase)).wakeOnEdge pin)
    pin (s.dev.stampNow phase)
  obtain ⟨r, hwake, hreg⟩ := Dev.pwrOnly_wakeOnEdge ((s.dev.setGpLevel pin !falling).stamped (s.dev.edgeStamp pin falling phase)) pin
  exact ⟨htime.trans (by rw [hwake]), (hget _ (by decide)).trans (Dev.PwrOnly.get ⟨r, hwake, hreg⟩ _ (by decide))⟩

theorem gpInputSettle_settles {s : State} {pin : Fin 16} {level : Bool} (h : s.dev.time.gpSettle.getLsbD pin = true) :
    Leaves (.gpInputSettle pin level) s fun e =>
      (∀ k, e.time.gpLevel.getLsbD k = if k = pin.val then level else s.dev.time.gpLevel.getLsbD k)
      ∧ (∀ k, e.time.gpSettle.getLsbD k = (decide (k ≠ pin.val) && s.dev.time.gpSettle.getLsbD k))
      ∧ e = { s.dev with time := { s.dev.time with gpLevel := e.time.gpLevel, gpSettle := e.time.gpSettle } } := by
  refine leaves_effect (exec_gpInputSettle pin level s) ?_
  have hsettled : s.dev.gpSettled pin level = { s.dev.setGpLevel pin level with
      time := { (s.dev.setGpLevel pin level).time with gpSettle := s.dev.time.gpSettle &&& ~~~(1#16 <<< pin.val) } } :=
    if_neg (by simp [h])
  rw [hsettled]
  refine ⟨s.dev.gpLevel_setGpLevel pin level pin.isLt, fun k => ?_, rfl⟩
  have hk : (1#16 <<< pin.val).getLsbD k = decide (k = pin.val) := getLsbD_one_shiftLeft pin.isLt k
  show (s.dev.time.gpSettle &&& ~~~(1#16 <<< pin.val)).getLsbD k = _
  by_cases hlt : k < 16
  · rw [BitVec.getLsbD_and, BitVec.getLsbD_not, hk, decide_eq_true hlt, Bool.true_and, Bool.and_comm, decide_not]
  · rw [BitVec.getLsbD_of_ge _ _ (by omega), BitVec.getLsbD_of_ge _ _ (by omega), Bool.and_false]

/-- Settles O10: the edge, by what the timestamper does with its stamp, and the end of the settling time. -/
theorem timestamperTakesEdges : Obligations.TimestamperTakesEdges := by
  unfold Obligations.TimestamperTakesEdges
  refine ⟨fun s pin falling phase => ?_, fun s pin level => ⟨gpInputSettle_settles, fun h => ?_⟩⟩
  · extract_lets d c takes ts toStrike fifo near new level
    have htakes : takes ↔ (d.takesEdge pin falling && d.time.counting) = true := (d.takesEdge_iff pin falling).symm
    have hroute : d.toStrike pin = toStrike := d.toStrike_pin pin
    have hfifo : d.fifoOf (d.edgeStamp pin falling phase) = fifo := by
      rw [Dev.fifoOf, show (d.edgeStamp pin falling phase).src = pin from rfl, hroute]
    refine ⟨fun ht hdrop => ?_, fun ht hnear hroom => ?_, fun ht => ?_⟩
    · exact triggerEdge_drops (htakes.1 ht) (hfifo ▸ hdrop)
    · obtain ⟨t, hexec, hpending, htime, hcount⟩ := triggerEdge_stamps (htakes.1 ht) hnear (by rw [hfifo]; exact hroom)
      have hstamped : t.dev.time = { d.time with
          gpLevel := (d.setGpLevel pin !falling).time.gpLevel
          lastEdge := Tab.put d.time.lastEdge pin ts
          strikeFifo := if toStrike then d.time.strikeFifo ++ [new] else d.time.strikeFifo
          logFifo := if toStrike then d.time.logFifo else d.time.logFifo ++ [new] } := by
        rw [← hroute]; exact htime
      refine ⟨t, hexec, hpending, ?_⟩
      show _ = _ ∧ _ = _ ∧ _ = _ ∧ (∀ k, _ = _) ∧ _
      rw [hstamped]
      exact ⟨rfl, rfl, Tab.find_put_same _ _ _, d.gpLevel_setGpLevel pin _ pin.isLt, hcount⟩
    · refine leaves_effect (exec_triggerEdge pin falling phase s) ?_
      rw [Dev.triggerEdge_ignored _ _ _ _ (fun h => ht (htakes.2 h))]
      exact ⟨d.gpLevel_setGpLevel pin _ pin.isLt, rfl⟩
  · rw [exec_gpInputSettle, State.effect, show s.dev.gpSettled pin level = s.dev from if_pos (by rw [h]; rfl)]

end
end Sys2Proof.Machine
end

section
/-! SUPPORT. A bit of FLT_EVENT that the device sets by itself, wherever the CORE domain stands (R454, R463). -/

namespace Sys2Proof.Machine

/-- Whether bit `n` of FLT_EVENT is set; while the CORE domain is off it waits in the AON domain (R463). -/
def Dev.eventSet (d : Dev) (n : Nat) : Bool :=
  if d.coreOff then d.flt.aonEvents.getLsbD n else (d.reg F.fltEventStateSplit.addr).getLsbD n

theorem Dev.coreOff_congr {d e : Dev} (hreg : e.reg F.pwrStatusState.addr = d.reg F.pwrStatusState.addr) (hsys : e.sys = d.sys) :
    e.coreOff = d.coreOff := by
  rw [Dev.coreOff, Dev.coreOff, Dev.power, Dev.power, Dev.get, Dev.get, hreg, hsys]

theorem Dev.FltOnly.sys {d e : Dev} (h : d.FltOnly e) : e.sys = d.sys := by
  obtain ⟨r, f, rfl, -⟩ := h
  rfl

theorem Dev.FltOnly.coreOff {d e : Dev} (h : d.FltOnly e) : e.coreOff = d.coreOff :=
  Dev.coreOff_congr (Dev.FltOnly.reg h (a := F.pwrStatusState.addr) (by decide)) h.sys

section
variable (d : Dev)

/-- The log keeps FLT_EVENT. -/
theorem Dev.logPut_events (x : LogEntry) : (d.logPut x).flt.aonEvents = d.flt.aonEvents
    ∧ (d.logPut x).reg F.fltEventStateSplit.addr = d.reg F.fltEventStateSplit.addr := by
  unfold Dev.logPut
  split
  · split <;> exact ⟨rfl, rfl⟩
  · split
    · exact ⟨rfl, rfl⟩
    · exact ⟨rfl, Dev.reg_put_other _ _ _ _ (by decide)⟩

theorem Dev.eventSet_fltEvent (n : Nat) (hn : n < 5) (k : Nat) : (d.fltEvent n).eventSet k = (d.eventSet k || decide (k = n)) := by
  rw [Dev.eventSet, Dev.eventSet, (d.fltOnly_fltEvent n).coreOff]
  unfold Dev.fltEvent
  split
  · rw [show ({ d with flt := { d.flt with aonEvents := d.flt.aonEvents ||| 1#5 <<< n } } : Dev).flt.aonEvents
      = d.flt.aonEvents ||| 1#5 <<< n from rfl, BitVec.getLsbD_or, getLsbD_one_shiftLeft hn]
  · rw [Dev.reg_setReg_same, BitVec.getLsbD_or, getLsbD_one_shiftLeft (show n < 32 by omega)]

/-- A direct event sets its bit. -/
theorem Dev.eventSet_direct (n : Nat) (hn : n < 5) (k : Nat) : (d.direct n).eventSet k = (d.eventSet k || decide (k = n)) := by
  obtain ⟨haon, hreg⟩ := (d.fltEvent n).logPut_events ⟨n - 1, Kind.direct, 0, BitVec.ofNat 64 d.blockIx, 0⟩
  rw [← d.eventSet_fltEvent n hn, Dev.eventSet, Dev.eventSet, Dev.direct, (Dev.fltOnly_logPut _ _).coreOff, haon, hreg]

/-! ### The slew ends -/

theorem Dev.reg_slewEnd {a : Nat} (h : a ≠ F.refStatusSlewing.addr) : d.slewEnd.reg a = d.reg a := Dev.reg_put_other _ _ _ _ h
theorem Dev.get_slewEnd_same : d.slewEnd.get F.refStatusSlewing = 0 := Dev.get_put_same _ _ _ (by decide)
theorem Dev.get_slewEnd_beside (f : Fld) (h : f.lo + f.w ≤ 4 ∨ 5 ≤ f.lo) : d.slewEnd.get f = d.get f := by
  by_cases hf : f.addr = F.refStatusSlewing.addr
  · exact Dev.get_put_beside _ _ _ _ h
  · exact Dev.get_put_other _ _ _ _ hf

end
end Sys2Proof.Machine
end

section
/-! SUPPORT. The steps of house time: the re-anchor (R69, R70) and the leap second (R74). -/

namespace Sys2Proof.Machine

theorem exec_reAnchor (s : State) : exec .reAnchor s = s.effect fun d => d.aonEvent Dev.reAnchor := rfl
theorem exec_leapSecond (s : State) : exec .leapSecond s
    = s.effect fun d => d.aonEvent fun d => if d.get F.htLeapCtrlDir = 0 then d else d.leapSecond.eventPassed := rfl

/-! ### What the blocks do about a step of house time -/

/-- The registers that the blocks' own rules about a step of house time may write: those of PWR, SWM and TCU. -/
def blocksReg (a : Nat) : Bool := pwrReg a || isSwm a || tcuReg a

/-- `e` shows house time, the sample edges and the re-anchor as `d` does, and the registers but for those of PWR, SWM and TCU. -/
structure Dev.SameScale (d e : Dev) : Prop where
  ht : e.time.ht = d.time.ht
  smp : e.time.smp = d.time.smp
  reanchor : e.ref.reanchor = d.ref.reanchor
  reg : ∀ a, blocksReg a = false → e.reg a = d.reg a

theorem Dev.SameScale.refl (d : Dev) : d.SameScale d := ⟨rfl, rfl, rfl, fun _ _ => rfl⟩
theorem Dev.SameScale.trans {a b c : Dev} (h : a.SameScale b) (h' : b.SameScale c) : a.SameScale c :=
  ⟨h'.ht.trans h.ht, h'.smp.trans h.smp, h'.reanchor.trans h.reanchor, fun x hx => (h'.reg x hx).trans (h.reg x hx)⟩
theorem Dev.SameScale.ite {d e : Dev} (h : d.SameScale e) (c : Prop) [Decidable c] : d.SameScale (if c then e else d) := by
  split
  · exact h
  · exact .refl d

section
variable (d : Dev)

theorem Dev.sameScale_put (f : Fld) (v : Nat) (h : blocksReg f.addr = true) : d.SameScale (d.put f v) :=
  ⟨rfl, rfl, rfl, fun a ha => Dev.reg_put_other _ _ _ _ fun e => by rw [e, h] at ha; cases ha⟩

theorem Dev.sameScale_each {α : Type} (l : List α) (f : α → Dev → Dev) (h : ∀ a ∈ l, ∀ e : Dev, e.SameScale (f a e)) :
    d.SameScale (d.each l f) :=
  d.each_keeps d.SameScale l f (.refl d) fun a ha e he => he.trans (h a ha e)

theorem Dev.TcuOnly.sameScale {d e : Dev} (h : d.TcuOnly e) : d.SameScale e := by
  obtain ⟨r, c, rfl, hr⟩ := h
  exact ⟨rfl, rfl, rfl, fun a ha => hr a (by simp only [blocksReg, Bool.or_eq_false_iff] at ha; exact ha.2)⟩

theorem Dev.PwrOnly.sameScale {d e : Dev} (h : d.PwrOnly e) : d.SameScale e := by
  obtain ⟨r, rfl, hr⟩ := h
  exact ⟨rfl, rfl, rfl, fun a ha => hr a (by simp only [blocksReg, Bool.or_eq_false_iff] at ha; exact ha.1.1)⟩

theorem Dev.sameScale_moveInstants (delta : Int) : d.SameScale (d.moveInstants delta) := ⟨rfl, rfl, rfl, fun _ _ => rfl⟩

theorem Dev.sameScale_senShow (v b : Nat) (m a : Bool) : d.SameScale (d.senShow v b m a) := by
  refine ⟨rfl, rfl, rfl, fun x hx => ?_⟩
  have hne (f : Fld) (hf : blocksReg f.addr = true) : x ≠ f.addr := fun e => by rw [e, hf] at hx; cases hx
  unfold Dev.senShow Dev.put64
  simp only [Dev.reg_put_other _ _ _ _ (hne F.swmSenStatVoice (by decide)), Dev.reg_put_other _ _ _ _ (hne F.swmSenStatValid (by decide)),
    Dev.reg_put_other _ _ _ _ (hne F.swmSenStatMismatch (by decide)), Dev.reg_put_other _ _ _ _ (hne F.swmSenStatAbandoned (by decide)),
    Dev.reg_put_other _ _ _ _ (hne F.swmSenBlkLo (by decide)), Dev.reg_put_other _ _ _ _ (hne F.swmSenBlkHi (by decide))]

theorem Dev.sameScale_senAbandon : d.SameScale d.senAbandon := by
  have hcount (e : Dev) : e.SameScale ((e.bump F.swmSenCntAbandon).setSen { d.swm.sen with active := false }) :=
    (e.sameScale_put F.swmSenCntAbandon _ (by decide)).trans ⟨rfl, rfl, rfl, fun _ _ => rfl⟩
  exact ((d.sameScale_senShow _ _ _ _).trans (hcount _)).ite _

theorem Dev.sameScale_swarmShift (s : Int) : d.SameScale (d.swarmShift s) :=
  d.sameScale_senAbandon.trans ⟨rfl, rfl, rfl, fun _ _ => rfl⟩

theorem Dev.sameScale_glfoStep (n g : Nat) (hg : g < 4) : d.SameScale (d.glfoStep n g) := by
  have hval : ∀ g < 4, blocksReg (F.swmGlfoVal g).addr = true := by decide
  refine ⟨rfl, rfl, rfl, fun a ha => Dev.reg_put_other _ (F.swmGlfoVal g) _ _ fun e => ?_⟩
  rw [e, hval g hg] at ha
  cases ha

theorem Dev.sameScale_applyPoint (pt : ApplyPoint) : d.SameScale (d.applyPoint pt) := by
  obtain ⟨x, hx⟩ := d.applyWhere_frame pt d.clockRuns
  rw [Dev.applyPoint, hx]
  exact ⟨rfl, rfl, rfl, fun _ _ => rfl⟩

/-! ### The step itself -/

/-- The sample edge of the new scale at which the swarm goes on. -/
def Dev.stepEdge (t : Nat) : Nat := (t + d.period / 2 + d.period - 1) / d.period

/-- What the step of house time leaves (R70). -/
structure Dev.Stepped (d : Dev) (r : Anchor) (e : Dev) : Prop where
  ht : e.time.ht = BitVec.ofNat 64 ((r.at' : Int) + r.delta).toNat
  smp : e.time.smp = BitVec.ofNat 64 (d.stepEdge ((r.at' : Int) + r.delta).toNat - 1)
  reanchor : e.ref.reanchor = none
  anchored : e.on F.refStatusAnchored = true
  pend : e.on F.refStatusReanchorPend = false
  slewing : e.on F.refStatusSlewing = false
  count : e.get F.refCntReanchor = min (2 ^ 32 - 1) (d.get F.refCntReanchor + 1)
  event : d.coreOff = false → (e.reg F.fltEventStateSplit.addr).getLsbD 3
    = (d.ref.anchoredOnce || (d.reg F.fltEventStateSplit.addr).getLsbD 3)

variable {d}

theorem Dev.Stepped.sameScale {r : Anchor} {e e' : Dev} (h : d.Stepped r e) (h' : e.SameScale e') : d.Stepped r e' := by
  have hget (f : Fld) (hf : blocksReg f.addr = false) : e'.get f = e.get f := by rw [Dev.get, Dev.get, h'.reg _ hf]
  have hon (f : Fld) (hf : blocksReg f.addr = false) : e'.on f = e.on f := by rw [Dev.on, Dev.on, hget f hf]
  exact ⟨h'.ht.trans h.ht, h'.smp.trans h.smp, h'.reanchor.trans h.reanchor, (hon _ (by decide)).trans h.anchored,
    (hon _ (by decide)).trans h.pend, (hon _ (by decide)).trans h.slewing, (hget _ (by decide)).trans h.count,
    fun hcore => by rw [h'.reg _ (by decide)]; exact h.event hcore⟩

variable (d)

/-- The registers after the step of house time. -/
theorem Dev.stepped_regs (p : Int) : 
    let e := ((((d.putInt F.refPhase p).put F.refStatusAnchored 1).put F.refStatusReanchorPend 0).slewEnd).bump F.refCntReanchor
    e.get F.refStatusAnchored = 1 ∧ e.get F.refStatusReanchorPend = 0 ∧ e.get F.refStatusSlewing = 0
      ∧ e.get F.refCntReanchor = min (2 ^ 32 - 1) (d.get F.refCntReanchor + 1)
      ∧ ∀ a, a ∉ [F.refPhase.addr, F.refStatusAnchored.addr, F.refCntReanchor.addr] → e.reg a = d.reg a := by
  intro e
  refine ⟨?_, ?_, ?_, ?_, fun a ha => ?_⟩
  · simp (disch := decide) only [e, Dev.get_bump_other, Dev.get_slewEnd_beside, Dev.get_put_beside, Dev.get_put_same]
    rfl
  · simp (disch := decide) only [e, Dev.get_bump_other, Dev.get_slewEnd_beside, Dev.get_put_same]
    rfl
  · simp (disch := decide) only [e, Dev.get_bump_other, Dev.get_slewEnd_same]
  · rw [Dev.get_bump_same _ _ (by decide), Dev.get, Dev.reg_slewEnd _ (by decide), ← Dev.get]
    simp (disch := decide) only [Dev.putInt, Dev.get_put_other]
    rfl
  · simp only [List.mem_cons, List.not_mem_nil, or_false, not_or] at ha
    obtain ⟨hphase, hstatus, hcount⟩ := ha
    rw [show e.reg a = Dev.reg (Dev.slewEnd _) a from Dev.reg_put_other _ _ _ _ hcount, Dev.reg_slewEnd _ hstatus,
      Dev.reg_put_other _ F.refStatusReanchorPend _ _ hstatus, Dev.reg_put_other _ F.refStatusAnchored _ _ hstatus,
      Dev.putInt, Dev.reg_put_other _ F.refPhase _ _ hphase]

/-- The step raises FLT_EVENT.REANCHOR but for the first after a reset. -/
theorem Dev.stepTime_steps (r : Anchor) : d.Stepped r (d.stepTime r) := by
  unfold Dev.stepTime
  extract_lets t p m shift first time ref d1 time' d2 e d3
  have hflt : d3.FltOnly (if first then d3 else d3.direct Direct.reanchor) := by
    split
    · exact .refl d3
    · exact d3.fltOnly_direct _
  have hbeside : (if first then d3 else d3.direct Direct.reanchor).time = d3.time
      ∧ (if first then d3 else d3.direct Direct.reanchor).ref = d3.ref := by
    obtain ⟨x, f, hx, -⟩ := hflt
    rw [hx]
    exact ⟨rfl, rfl⟩
  obtain ⟨htime, href⟩ := hbeside
  obtain ⟨hanchored, hpend, hslewing, hcount, hregs⟩ := d2.stepped_regs e
  refine ⟨congrArg TimeS.ht htime, congrArg TimeS.smp htime, congrArg RefS.reanchor href, ?_, ?_, ?_,
    (hflt.get _ (by decide)).trans hcount, ?_⟩
  · rw [Dev.on, hflt.get _ (by decide), hanchored]; rfl
  · rw [Dev.on, hflt.get _ (by decide), hpend]; rfl
  · rw [Dev.on, hflt.get _ (by decide), hslewing]; rfl
  · intro hcore
    have hcore' : d3.coreOff = false := (Dev.coreOff_congr (hregs F.pwrStatusState.addr (by decide)) rfl).trans hcore
    have hold : d3.reg F.fltEventStateSplit.addr = d.reg F.fltEventStateSplit.addr := hregs _ (by decide)
    by_cases h : d.ref.anchoredOnce = true
    · have hset := d3.eventSet_direct Direct.reanchor (by decide) 3
      rw [Dev.eventSet, (d3.fltOnly_direct _).coreOff, if_neg (by simp [hcore'])] at hset
      rw [if_neg (by simp [first, h]), h, hset]
      simp [Direct.reanchor]
    · rw [Bool.not_eq_true] at h
      rw [if_pos (by simp [first, h]), h, hold, Bool.false_or]

/-- The step is told of the device before it: what the step reads of it. -/
theorem Dev.Stepped.before {d d' : Dev} {r : Anchor} {e : Dev} (h : d'.Stepped r e) (hreg : ∀ a, tcuReg a = false → d'.reg a = d.reg a)
    (hfirst : d'.ref.anchoredOnce = d.ref.anchoredOnce) (hsys : d'.sys = d.sys) : d.Stepped r e := by
  have hget (f : Fld) (hf : tcuReg f.addr = false) : d'.get f = d.get f := by rw [Dev.get, Dev.get, hreg _ hf]
  have hperiod : d'.period = d.period := by rw [Dev.period, Dev.period, Dev.rate96, Dev.rate96, Dev.on, Dev.on, hget _ (by decide)]
  have hcore : d'.coreOff = d.coreOff := Dev.coreOff_congr (hreg _ (by decide)) hsys
  refine ⟨h.ht, ?_, h.reanchor, h.anchored, h.pend, h.slewing, ?_, fun hon => ?_⟩
  · rw [h.smp, Dev.stepEdge, Dev.stepEdge, hperiod]
  · rw [h.count, hget _ (by decide)]
  · rw [h.event (hcore.trans hon), hfirst, hreg _ (by decide)]

/-- The re-anchor: the step, and what the blocks do about it. -/
theorem Dev.reAnchor_steps (d : Dev) {r : Anchor} (h : d.ref.reanchor = some r) : d.Stepped r d.reAnchor := by
  have hstep : d.Stepped r (((d.reach r.at').eventPassed).stepTime r) := by
    obtain ⟨i, l, n, regs, c, hreach, hregs, -⟩ := d.reach_frame r.at'
    refine (Dev.stepTime_steps _ r).before (fun a ha => ?_) ?_ ?_
    all_goals
      rw [hreach]
      unfold Dev.eventPassed
    · split <;> exact hregs a ha
    · split <;> rfl
    · split <;> rfl
  unfold Dev.reAnchor
  split
  · next hnone => rw [h] at hnone; cases hnone
  next r' hsome =>
  obtain rfl : r = r' := Option.some.inj (h.symm.trans hsome)
  extract_lets d1 n was d2 m t p d3 alc d4 d5 d6 d7
  have h3 : d2.SameScale d3 := (d2.sameScale_moveInstants _).trans (Dev.sameScale_swarmShift _ _)
  have h4 : d3.SameScale d4 := ⟨rfl, rfl, rfl, fun _ _ => rfl⟩
  have h5 : d4.SameScale d5 := Dev.SameScale.ite (d4.sameScale_each _ _ fun g hg e =>
    e.sameScale_glfoStep m g (List.mem_range.1 (List.mem_of_mem_filter hg))) _
  have h6 : d5.SameScale d6 := (d5.sameScale_applyPoint .block).ite _
  have h7 : d6.SameScale d7 := (d6.sameScale_applyPoint .frame).ite _
  have h8 := d7.sameScale_each (List.range 8) (fun k d => d.startIfPassed k) fun k hk e =>
    (e.tcuOnly_startIfPassed k (List.mem_range.1 hk)).sameScale
  exact hstep.sameScale ((((h3.trans h4).trans h5).trans h6).trans (h7.trans h8))

/-- The sample edge is the first that leaves half a period after the step. -/
theorem Dev.stepEdge_least (d : Dev) (t : Nat) : t + d.period / 2 ≤ d.stepEdge t * d.period
    ∧ ∀ n, t + d.period / 2 ≤ n * d.period → d.stepEdge t ≤ n := by
  have hpos : 0 < d.period := by
    unfold Dev.period
    split <;> decide
  unfold Dev.stepEdge
  generalize t + d.period / 2 = x
  refine ⟨?_, fun n hn => ?_⟩
  · have hdiv := Nat.div_add_mod (x + d.period - 1) d.period
    have hmod := Nat.mod_lt (x + d.period - 1) hpos
    rw [Nat.mul_comm]
    omega
  · exact Nat.le_of_lt_succ ((Nat.div_lt_iff_lt_mul hpos).2 (by rw [Nat.succ_mul]; omega))

theorem reAnchor_leaves {s : State} (hcount : s.dev.time.counting = true) {r : Anchor} (h : s.dev.ref.reanchor = some r) :
    Leaves .reAnchor s fun e => s.dev.Stepped r e := by
  refine leaves_effect (exec_reAnchor s) ?_
  rw [Dev.aonEvent_counting _ hcount]
  exact (s.dev.reAnchor_steps h).sameScale (Dev.pwrOnly_wakeOnFault _ _).sameScale

/-! ### The leap second -/

/-- The leap second, once its instant has been reached: HT_UTC takes `u`. -/
def Dev.leapt (d : Dev) (l : Option (Nat × Int)) (u : Nat) : Dev :=
  ((({ d with ref := { d.ref with leapAt := l } } : Dev).put F.htUtc u).put F.htLeapCtrlDone 1).put F.htLeapCtrlDir 0

theorem Dev.leapSecond_eq {d : Dev} (h : d.get F.htLeapCtrlDir ≠ 0) : ∃ l, d.leapSecond
    = (d.reach (d.get64 F.htLeapLo F.htLeapHi * secondTk)).leapt l
      (if d.get F.htLeapCtrlDir = 1 then d.get F.htUtc + 1 else d.get F.htUtc + 65535) := by
  rw [← d.reach_get (d.get64 F.htLeapLo F.htLeapHi * secondTk) F.htUtc (by decide)]
  exact ⟨_, if_neg h⟩

/-- What the leap second shows, in whatever state the power controller is. -/
theorem Dev.leapt_shows (d : Dev) (l : Option (Nat × Int)) (u : Nat) (p : PwrS) :
    let e := { d.leapt l u with pwr := p }
    e.get F.htUtc = u % 65536 ∧ e.on F.htLeapCtrlDone = true ∧ e.get F.htLeapCtrlDir = 0 ∧ e.time = d.time ∧ e.flt = d.flt
      ∧ ∀ a, a ∉ [F.htUtc.addr, F.htLeapCtrlDir.addr] → e.reg a = d.reg a := by
  have hget (f : Fld) : ({ d.leapt l u with pwr := p } : Dev).get f = (d.leapt l u).get f := rfl
  refine ⟨?_, ?_, ?_, rfl, rfl, fun a ha => ?_⟩
  · rw [hget, Dev.leapt]
    simp (disch := decide) only [Dev.get_put_other, Dev.get_put_same]
    rfl
  · rw [Dev.on, hget, Dev.leapt]
    simp (disch := decide) only [Dev.get_put_beside, Dev.get_put_same]
    rfl
  · rw [hget, Dev.leapt, Dev.get_put_same _ _ _ (by decide), Nat.zero_mod]
  · simp only [List.mem_cons, List.not_mem_nil, or_false, not_or] at ha
    obtain ⟨hutc, hctrl⟩ := ha
    exact (Dev.reg_put_other _ F.htLeapCtrlDir _ _ hctrl).trans ((Dev.reg_put_other _ F.htLeapCtrlDone _ _ hctrl).trans
      (Dev.reg_put_other _ F.htUtc _ _ hutc))

theorem Dev.eventPassed_frame (d : Dev) : ∃ p, d.eventPassed = { d with pwr := p } := by
  unfold Dev.eventPassed
  split <;> exact ⟨_, rfl⟩

theorem leapSecond_leaves {s : State} (hcount : s.dev.time.counting = true) {dir : Nat} (hdir : s.dev.get F.htLeapCtrlDir = dir)
    (h : dir = 1 ∨ dir = 2) : Leaves .leapSecond s fun e =>
      e.get F.htUtc = (s.dev.get F.htUtc + if dir = 1 then 1 else 65535) % 65536
      ∧ e.on F.htLeapCtrlDone = true ∧ e.get F.htLeapCtrlDir = 0
      ∧ e.time.ht = BitVec.ofNat 64 (max s.dev.now (s.dev.get64 F.htLeapLo F.htLeapHi * secondTk))
      ∧ (s.dev.reach (s.dev.get64 F.htLeapLo F.htLeapHi * secondTk)).KeepsRegs e [F.htUtc.addr, F.htLeapCtrlDir.addr] := by
  have hne : s.dev.get F.htLeapCtrlDir ≠ 0 := by rw [hdir]; omega
  refine leaves_effect (exec_leapSecond s) ?_
  rw [Dev.aonEvent_counting _ hcount, if_neg hne]
  obtain ⟨l, hleap⟩ := Dev.leapSecond_eq hne
  obtain ⟨p, hpassed⟩ := s.dev.leapSecond.eventPassed_frame
  rw [hpassed, hleap, hdir]
  generalize s.dev.get64 F.htLeapLo F.htLeapHi * secondTk = t
  obtain ⟨hutc, hdone, hcleared, htime, hflt, hregs⟩ := (s.dev.reach t).leapt_shows l
    (if dir = 1 then s.dev.get F.htUtc + 1 else s.dev.get F.htUtc + 65535) p
  rw [Dev.wakeOnFault_idle _ _ ((hregs _ (by decide)).trans (s.dev.reach_reg_of_tcu t (by decide)))
    (congrArg FltS.aonEvents (hflt.trans (s.dev.reach_flt t)))]
  refine ⟨hutc.trans ?_, hdone, hcleared, (congrArg TimeS.ht htime).trans ?_, fun a ha _ => hregs a ha⟩
  · split <;> rfl
  · obtain ⟨i, hist, n, regs, c, hreach, -⟩ := s.dev.reach_frame t
    rw [hreach]

/-- Settles O13: the re-anchor from what each of its parts keeps of the step, and the leap second from its equation. -/
theorem timeSteps : Obligations.TimeSteps := by
  unfold Obligations.TimeSteps
  intro s hcount d
  refine ⟨fun r hr => ?_, fun dir hdir h => by rw [← Dev.get64]; exact leapSecond_leaves hcount hdir h⟩
  obtain ⟨t, hexec, hpending, hstep⟩ := reAnchor_leaves hcount hr
  obtain ⟨hleaves, hleast⟩ := d.stepEdge_least ((r.at' : Int) + r.delta).toNat
  exact ⟨t, hexec, hpending, hstep.ht, ⟨_, hstep.smp, hleaves, hleast⟩, hstep.anchored, hstep.pend, hstep.slewing, hstep.reanchor,
    hstep.count, hstep.event⟩

end
end Sys2Proof.Machine
end

section
/-! SUPPORT. Labels (R66, R67): what measuring one and acting on the total error can change, and when one is accepted. -/

namespace Sys2Proof.Machine

/-- The registers that a label and the loop's answer to it write. -/
def labelRegs : List Nat := [F.refStatusState.addr, F.refLabelErr.addr, F.refCntLabelBad.addr]

/-- `e` is `d` but for the label in force and its confirmation, the slew and the re-anchor, and the registers of labels. -/
def Dev.LabelOnly (d e : Dev) : Prop := ∃ r l n f s k,
  e = { d with regs := r, ref := { d.ref with confirmL := l, confirmN := n, labelL := f, slew := s, reanchor := k } }
    ∧ ∀ a, a ∉ labelRegs → Tab.get regReset r a = d.reg a

theorem Dev.LabelOnly.refl (d : Dev) : d.LabelOnly d :=
  ⟨d.regs, d.ref.confirmL, d.ref.confirmN, d.ref.labelL, d.ref.slew, d.ref.reanchor, rfl, fun _ _ => rfl⟩

theorem Dev.LabelOnly.trans {a b c : Dev} (h : a.LabelOnly b) (h' : b.LabelOnly c) : a.LabelOnly c := by
  obtain ⟨r, l, n, f, s, k, rfl, hr⟩ := h
  obtain ⟨r', l', n', f', s', k', rfl, hr'⟩ := h'
  exact ⟨r', l', n', f', s', k', rfl, fun x hx => (hr' x hx).trans (hr x hx)⟩

theorem Dev.LabelOnly.branch {d e e' : Dev} {c : Prop} [Decidable c] (h : d.LabelOnly e) (h' : d.LabelOnly e') :
    d.LabelOnly (if c then e else e') := by
  split
  · exact h
  · exact h'

theorem Dev.LabelOnly.reg {d e : Dev} (h : d.LabelOnly e) {a : Nat} (ha : a ∉ labelRegs) : e.reg a = d.reg a := by
  obtain ⟨r, l, n, f, s, k, rfl, hr⟩ := h
  exact hr a ha

theorem Dev.LabelOnly.get {d e : Dev} (h : d.LabelOnly e) (f : Fld) (hf : f.addr ∉ labelRegs) : e.get f = d.get f := by
  rw [Dev.get, Dev.get, h.reg hf]

/-- What labels leave alone beside registers. -/
theorem Dev.LabelOnly.beside {d e : Dev} (h : d.LabelOnly e) : e.time = d.time ∧ e.ref.lastEdge = d.ref.lastEdge
    ∧ e.ref.lastPps = d.ref.lastPps ∧ e.ref.sentence = d.ref.sentence ∧ e.ref.ltcAt = d.ref.ltcAt := by
  obtain ⟨r, l, n, f, s, k, rfl, -⟩ := h
  exact ⟨rfl, rfl, rfl, rfl, rfl⟩

section
variable (d : Dev)

theorem Dev.labelOnly_put (f : Fld) (v : Nat) (h : f.addr ∈ labelRegs) : d.LabelOnly (d.put f v) :=
  ⟨_, d.ref.confirmL, d.ref.confirmN, d.ref.labelL, d.ref.slew, d.ref.reanchor, rfl,
    fun a ha => Tab.get_set_other _ _ _ fun e => ha (by rw [e]; exact h)⟩

theorem Dev.labelOnly_slewBy (e : Int) : d.LabelOnly (d.slewBy e) := by
  unfold Dev.slewBy
  extract_lets s ref
  have hslew : d.LabelOnly { d with ref := { d.ref with slew := s } } := ⟨d.regs, _, _, _, _, _, rfl, fun _ _ => rfl⟩
  exact hslew.trans (Dev.labelOnly_put _ _ _ (by decide))

theorem Dev.labelOnly_decideAnchor (delta : Int) (requested : Bool) : d.LabelOnly (d.decideAnchor delta requested) := by
  unfold Dev.decideAnchor
  extract_lets b ref
  have hdecide : d.LabelOnly { d with ref := { d.ref with reanchor := some ⟨delta, b, requested⟩ } } :=
    ⟨d.regs, _, _, _, _, _, rfl, fun _ _ => rfl⟩
  exact hdecide.trans (Dev.labelOnly_put _ _ _ (by decide))

/-- Table 2.5 slews or decides a re-anchor. -/
theorem Dev.labelOnly_actOnError (e : Int) (fromHold : Bool) : d.LabelOnly (d.actOnError e fromHold) := by
  unfold Dev.actOnError
  extract_lets f total anchor
  have hanchor : d.LabelOnly (anchor d) := by
    unfold anchor
    split
    · exact .refl d
    · exact d.labelOnly_decideAnchor _ _
  split
  · split
    · exact hanchor
    · exact .refl d
  · split
    · exact d.labelOnly_slewBy _
    · split
      · exact hanchor
      · exact d.labelOnly_slewBy _

theorem Dev.labelOnly_label (value t : Int) (atOnce : Bool) : d.LabelOnly (d.label value t atOnce).2 := by
  unfold Dev.label
  extract_lets f el l n inForce ref
  split
  · exact d.labelOnly_put _ _ (by decide)
  · have htake : d.LabelOnly { d with ref := ref } := ⟨d.regs, _, _, _, _, _, rfl, fun _ _ => rfl⟩
    exact (htake.trans (Dev.labelOnly_put _ F.refLabelErr _ (by decide))).trans (Dev.labelOnly_put _ _ _ (by decide))

/-- A label within a quarter frame of the grid is accepted (R66). -/
theorem Dev.label_accepts (value t : Int) (atOnce : Bool)
    (h : 4 * ((value - t) * d.std.b - roundDiv ((value - t) * d.std.b) d.std.a * d.std.a).natAbs ≤ d.std.a) :
    (d.label value t atOnce).1 = true := by
  have hnot : ¬ (d.std.a : Int) < 4 * (((value - t) * d.std.b - roundDiv ((value - t) * d.std.b) d.std.a * d.std.a).natAbs : Int) := by
    omega
  unfold Dev.label
  extract_lets f el l n inForce ref
  rw [if_neg hnot]

theorem Dev.labelOnly_labelAct (r : Bool × Dev) : r.2.LabelOnly (Dev.labelAct r).2 := by
  unfold Dev.labelAct
  split
  · exact r.2.labelOnly_actOnError _ _
  · exact .refl _

theorem Dev.labelAct_fst (r : Bool × Dev) : (Dev.labelAct r).1 = r.1 := by
  unfold Dev.labelAct
  split
  · next h => exact (Bool.and_eq_true_iff.1 h).1.symm
  · rfl

/-- A label measured between edges. -/
theorem Dev.labelOnly_measured (value t : Int) (atOnce : Bool) : d.LabelOnly (Dev.labelAct (d.label value t atOnce)).2 :=
  (d.labelOnly_label value t atOnce).trans (Dev.labelOnly_labelAct _)

end
end Sys2Proof.Machine
end

section
/-! SUPPORT. LTC frames (R75) and the sentences that PPS_IN times (R77). -/

namespace Sys2Proof.Machine

theorem exec_ltcInFrame (l : LtcIn) (s : State) : exec (.ltcInFrame l) s = s.effect fun d => d.aonEvent fun d => d.ltcFrame l := rfl
theorem exec_ppsEdge (falling : Bool) (phase : Fin 10) (s : State) :
    exec (.ppsEdge falling phase) s = s.effect fun d => d.aonEvent fun d => d.ppsEdge falling phase := rfl

/-! ### LTC frames -/

/-- The time address of an LTC word. -/
def ltcAddress (w : BitVec 80) : Nat × Nat × Nat × Nat := (ltcBcd w 48 4 56 2, ltcBcd w 32 4 40 3, ltcBcd w 16 4 24 3, ltcBcd w 0 4 8 2)

/-- A frame in sync, at play speed, forwards and one frame after the one before it (R75). -/
def Dev.ltcGood (d : Dev) (l : LtcIn) : Prop := (l.word >>> 64).toNat = ltcSync ∧ l.speedOk = true ∧ l.reverse = false
  ∧ ∃ q, d.ltcPred = some q ∧ ltcNext l.rate (l.word.getLsbD 10) q = ltcAddress l.word

/-- A valid frame's values are taken. -/
def Dev.ltcTaken (d : Dev) (l : LtcIn) : Dev :=
  (((((((({ d.put F.refLtcFlagsReverse 0 with ref := { d.ref with
    ltcLast := some (ltcAddress l.word), ltcAt := some d.now, ltcPrev := some (ltcAddress l.word) } }.put
      F.refLtcTimeFrames (ltcAddress l.word).2.2.2).put F.refLtcTimeSeconds (ltcAddress l.word).2.2.1).put
      F.refLtcTimeMinutes (ltcAddress l.word).2.1).put F.refLtcTimeHours (ltcAddress l.word).1).put
      F.refLtcFlagsDrop (if l.word.getLsbD 10 then 1 else 0)).put F.refLtcFlagsColour (if l.word.getLsbD 11 then 1 else 0)).put
      F.refLtcFlagsRate (ltcRateCode l.rate)).put F.refLtcUb (ltcUser l.word))

section
variable (d : Dev) (l : LtcIn)

/-- Whether the frame is the one after the frame before. -/
def Dev.ltcFollows : Bool :=
  match d.ltcPred with
  | some q => decide (ltcNext l.rate (l.word.getLsbD 10) q = ltcAddress l.word)
  | none => false

theorem Dev.ltcFollows_iff :
    d.ltcFollows l = true ↔ ∃ q, d.ltcPred = some q ∧ ltcNext l.rate (l.word.getLsbD 10) q = ltcAddress l.word := by
  unfold Dev.ltcFollows
  cases d.ltcPred <;> simp

/-- A frame that is not valid shows its direction, and is remembered where it went forwards. -/
theorem Dev.ltcFrame_bad (h : ¬ (d.reach l.start).ltcGood l) : d.ltcFrame l = d.reach l.start
    ∨ ∃ v last, d.ltcFrame l =
      { (d.reach l.start).put F.refLtcFlagsReverse v with ref := { (d.reach l.start).ref with ltcLast := last } } := by
  unfold Dev.ltcFrame
  extract_lets d1 w hms drop d2 next ref d3
  have hnext : next = true ↔ ∃ q, d1.ltcPred = some q ∧ ltcNext l.rate (l.word.getLsbD 10) q = ltcAddress l.word :=
    d1.ltcFollows_iff l
  split
  · exact .inl rfl
  next hok =>
  obtain ⟨hsync, hspeed⟩ := not_or.1 hok
  split
  · exact .inr ⟨1, d1.ref.ltcLast, rfl⟩
  next hforward =>
  rw [if_pos]
  · exact .inr ⟨0, _, rfl⟩
  · rw [Bool.not_eq_true', ← Bool.not_eq_true, hnext]
    exact fun hfollows => h ⟨not_not.1 hsync, by simpa using hspeed, by simpa using hforward, hfollows⟩

/-- A valid frame is taken, and may label its start. -/
theorem Dev.ltcFrame_good (h : (d.reach l.start).ltcGood l) : ((d.reach l.start).ltcTaken l).LabelOnly (d.ltcFrame l) := by
  obtain ⟨hsync, hspeed, hforward, hfollows⟩ := h
  unfold Dev.ltcFrame
  extract_lets d1 w hms drop d2 next ref d3
  have hnext : next = true := (d1.ltcFollows_iff l).2 hfollows
  rw [if_neg (by simp [w, hsync, hspeed]), if_neg (by simp [hforward]), if_neg (by simp [hnext])]
  change (d1.ltcTaken l).LabelOnly (if _ then d1.ltcTaken l else if _ then (d1.ltcTaken l).bump F.refCntLabelBad
    else (Dev.labelAct ((d1.ltcTaken l).label _ _ false)).2)
  exact .branch (.refl _) (.branch (Dev.labelOnly_put _ _ _ (by decide)) (Dev.labelOnly_measured _ _ _ _))

/-- The registers of a valid frame. -/
theorem Dev.ltcTaken_shows : (d.ltcTaken l).get F.refLtcTimeHours = (ltcAddress l.word).1 % 2 ^ F.refLtcTimeHours.w
    ∧ (d.ltcTaken l).get F.refLtcTimeMinutes = (ltcAddress l.word).2.1 % 2 ^ F.refLtcTimeMinutes.w
    ∧ (d.ltcTaken l).get F.refLtcTimeSeconds = (ltcAddress l.word).2.2.1 % 2 ^ F.refLtcTimeSeconds.w
    ∧ (d.ltcTaken l).get F.refLtcTimeFrames = (ltcAddress l.word).2.2.2 % 2 ^ F.refLtcTimeFrames.w
    ∧ (d.ltcTaken l).on F.refLtcFlagsDrop = l.word.getLsbD 10 := by
  unfold Dev.ltcTaken
  generalize ltcAddress l.word = hms
  refine ⟨?_, ?_, ?_, ?_, ?_⟩
  iterate 4 simp (disch := decide) only [Dev.get_put_other, Dev.get_put_beside, Dev.get_put_same]
  rw [Dev.on]
  simp (disch := decide) only [Dev.get_put_other, Dev.get_put_beside, Dev.get_put_same]
  cases l.word.getLsbD 10 <;> rfl

end

/-- The frame that the next must follow (R75). -/
theorem Dev.ltcPred_eq (d : Dev) (prev : Option (Nat × Nat × Nat × Nat)) (now : Nat) (hnow : d.now = now)
    (hrecent : (∃ t, d.ref.ltcAt = some t ∧ now ≤ t + 100 * blockTk) → prev = d.ref.ltcPrev)
    (hold : (¬ ∃ t, d.ref.ltcAt = some t ∧ now ≤ t + 100 * blockTk) → prev = d.ref.ltcLast) : d.ltcPred = prev := by
  have hvalid : d.ltcValid = true ↔ ∃ t, d.ref.ltcAt = some t ∧ now ≤ t + 100 * blockTk := by
    unfold Dev.ltcValid
    rw [hnow]
    cases d.ref.ltcAt <;> simp
  unfold Dev.ltcPred
  split
  · next h => exact (hrecent (hvalid.1 h)).symm
  · next h => exact (hold (fun hr => h (hvalid.2 hr))).symm

theorem ltcInFrame_leaves {s : State} (hcount : s.dev.time.counting = true) (l : LtcIn) : Leaves (.ltcInFrame l) s fun e =>
    e.time.ht = (s.dev.reach l.start).time.ht
    ∧ ((s.dev.reach l.start).ltcGood l → e.get F.refLtcTimeHours = (ltcAddress l.word).1 % 2 ^ F.refLtcTimeHours.w
      ∧ e.get F.refLtcTimeMinutes = (ltcAddress l.word).2.1 % 2 ^ F.refLtcTimeMinutes.w
      ∧ e.get F.refLtcTimeSeconds = (ltcAddress l.word).2.2.1 % 2 ^ F.refLtcTimeSeconds.w
      ∧ e.get F.refLtcTimeFrames = (ltcAddress l.word).2.2.2 % 2 ^ F.refLtcTimeFrames.w
      ∧ e.on F.refLtcFlagsDrop = l.word.getLsbD 10 ∧ e.ref.ltcAt = some e.now)
    ∧ (¬ (s.dev.reach l.start).ltcGood l → e.reg F.refLtcTimeHours.addr = (s.dev.reach l.start).reg F.refLtcTimeHours.addr
      ∧ e.ref.ltcAt = (s.dev.reach l.start).ref.ltcAt) := by
  refine leaves_effect (exec_ltcInFrame l s) ?_
  rw [Dev.aonEvent_counting _ hcount]
  have hwake := Dev.pwrOnly_wakeOnFault (s.dev.ltcFrame l) s.dev
  obtain ⟨htime, href⟩ := hwake.beside
  refine ⟨?_, fun hgood => ?_, fun hbad => ?_⟩
  · rw [htime]
    by_cases hgood : (s.dev.reach l.start).ltcGood l
    · rw [(s.dev.ltcFrame_good l hgood).beside.1]
      rfl
    · obtain h | ⟨v, last, h⟩ := s.dev.ltcFrame_bad l hgood <;> rw [h]
      rfl
  · have honly := s.dev.ltcFrame_good l hgood
    have hget (f : Fld) (hpwr : pwrReg f.addr = false) (hlabel : f.addr ∉ labelRegs) :
        (s.dev.wakeOnFault (s.dev.ltcFrame l)).get f = ((s.dev.reach l.start).ltcTaken l).get f :=
      (hwake.get f hpwr).trans (honly.get f hlabel)
    obtain ⟨hhours, hminutes, hseconds, hframes, hdrop⟩ := (s.dev.reach l.start).ltcTaken_shows l
    obtain ⟨htime', -, -, -, hat⟩ := honly.beside
    refine ⟨(hget _ (by decide) (by decide)).trans hhours, (hget _ (by decide) (by decide)).trans hminutes,
      (hget _ (by decide) (by decide)).trans hseconds, (hget _ (by decide) (by decide)).trans hframes, ?_, ?_⟩
    · rw [Dev.on, hget _ (by decide) (by decide)]
      exact hdrop
    · rw [href, Dev.now, htime, hat, htime']
      rfl
  · rw [href, hwake.reg (by decide)]
    obtain h | ⟨v, last, h⟩ := s.dev.ltcFrame_bad l hbad <;> rw [h]
    · exact ⟨rfl, rfl⟩
    · exact ⟨Dev.reg_put_other _ F.refLtcFlagsReverse _ _ (by decide), rfl⟩

/-! ### PPS_IN -/

/-- An edge whose instant is `t` has come, and has used up the waiting sentence. -/
def Dev.UsedUp (d : Dev) (t : Int) (e : Dev) : Prop := e.time = d.time ∧ e.ref.lastPps = some t ∧ e.ref.sentence = none

theorem Dev.UsedUp.put {d : Dev} {t : Int} {e : Dev} (h : d.UsedUp t e) (f : Fld) (v : Nat) : d.UsedUp t (e.put f v) := h

theorem Dev.UsedUp.label {d : Dev} {t : Int} {e e' : Dev} (h : d.UsedUp t e) (h' : e.LabelOnly e') : d.UsedUp t e' := by
  obtain ⟨htime, -, hpps, hsentence, -⟩ := h'.beside
  obtain ⟨htime', hpps', hsentence'⟩ := h
  exact ⟨htime.trans htime', hpps.trans hpps', hsentence.trans hsentence'⟩

/-- What an accepted label does with the offset and the leap second of its sentence. -/
def Dev.sentenceTaken (d : Dev) (q : Sentence) : Dev :=
  if q.dir = 0 then (d.putInt F.htUtc q.ofs).put F.htLeapCtrlDir 0
  else if q.leapAt ≤ q.sec then d.putInt F.htUtc q.ofs
  else (((d.putInt F.htUtc q.ofs).put F.htLeapCtrlDir q.dir).putInt F.htLeapLo (q.leapAt % 2 ^ 32)).putInt F.htLeapHi (q.leapAt / 2 ^ 32)

theorem Dev.UsedUp.sentenceTaken {d : Dev} {t : Int} {e : Dev} (h : d.UsedUp t e) (q : Sentence) : d.UsedUp t (e.sentenceTaken q) := by
  unfold Dev.sentenceTaken
  split
  · exact (h.put _ _).put _ _
  · split
    · exact h.put _ _
    · exact (((h.put _ _).put _ _).put _ _).put _ _

theorem Dev.get_sentenceTaken (d : Dev) (q : Sentence) : (d.sentenceTaken q).get F.htUtc = (q.ofs % 65536).toNat := by
  have hofs : (d.putInt F.htUtc q.ofs).get F.htUtc = (q.ofs % 65536).toNat := by
    rw [Dev.putInt, Dev.get_put_same _ _ _ (by decide)]
    have hmod := Int.emod_lt_of_pos q.ofs (show (0 : Int) < 65536 by decide)
    exact Nat.mod_eq_of_lt (by show (q.ofs % 65536).toNat < 65536; omega)
  unfold Dev.sentenceTaken
  split
  · rw [Dev.get_put_other _ _ _ _ (by decide), hofs]
  · split
    · exact hofs
    · rw [Dev.putInt, Dev.putInt]
      simp (disch := decide) only [Dev.get_put_other]
      exact hofs

section
variable (d : Dev) (falling : Bool) (phase : Nat)

/-- An edge of the polarity that is not selected. -/
theorem Dev.ppsEdge_ignored (h : d.on F.refCtrlPpsPol ≠ falling) : d.ppsEdge falling phase = d := if_pos (bne_iff_ne.2 h)

/-- The edge has come. -/
def Dev.ppsCome : Dev := { d with ref := { d.ref with lastPps := some (d.stampNow phase : Int), sentence := none } }

/-- The label of a waiting sentence. -/
def Dev.ppsLabel (q : Sentence) : Bool × Dev :=
  (d.ppsCome phase).label (q.sec * secondTk) (d.stampNow phase - d.ppsDly) false

/-- An edge of the selected polarity: it has come, and its sentence is measured where sentences are the source of labels. -/
theorem Dev.ppsEdge_cases (h : d.on F.refCtrlPpsPol = falling) : (d.ref.sentence = none → d.ppsEdge falling phase = d.ppsCome phase)
    ∧ ∀ q, d.ref.sentence = some q →
      (d.get F.refCtrlTodSrc ≠ 1 → d.ppsEdge falling phase = d.ppsCome phase)
      ∧ (d.get F.refCtrlTodSrc = 1 → d.ppsEdge falling phase =
          if (d.ppsLabel phase q).1 then (Dev.labelAct (d.ppsLabel phase q)).2.sentenceTaken q
          else (Dev.labelAct (d.ppsLabel phase q)).2.put F.ua0TodStatReason 6) := by
  unfold Dev.ppsEdge
  rw [if_neg (by rw [bne_iff_ne]; exact not_not.2 h)]
  refine ⟨fun hs => by rw [hs]; rfl, fun q hs => ⟨fun hsrc => ?_, fun hsrc => ?_⟩⟩
  · rw [hs]
    exact if_pos hsrc
  · rw [hs]
    refine (if_neg (not_not.2 hsrc)).trans ?_
    rw [← Dev.labelAct_fst]
    change (if !(Dev.labelAct (d.ppsLabel phase q)).1 then (Dev.labelAct (d.ppsLabel phase q)).2.put F.ua0TodStatReason 6
      else (Dev.labelAct (d.ppsLabel phase q)).2.sentenceTaken q) = _
    cases (Dev.labelAct (d.ppsLabel phase q)).1 <;> rfl

theorem Dev.usedUp_ppsEdge (h : d.on F.refCtrlPpsPol = falling) : d.UsedUp (d.stampNow phase) (d.ppsEdge falling phase) := by
  obtain ⟨hnone, hsome⟩ := d.ppsEdge_cases falling phase h
  have hcome : d.UsedUp (d.stampNow phase) (d.ppsCome phase) := ⟨rfl, rfl, rfl⟩
  cases hs : d.ref.sentence with
  | none => rw [hnone hs]; exact hcome
  | some q =>
    obtain ⟨hother, htod⟩ := hsome q hs
    by_cases hsrc : d.get F.refCtrlTodSrc = 1
    · have hlabel := hcome.label (Dev.labelOnly_measured _ (q.sec * secondTk) (d.stampNow phase - d.ppsDly) false)
      rw [htod hsrc]
      split
      · exact hlabel.sentenceTaken q
      · exact hlabel.put _ _
    · rw [hother hsrc]; exact hcome

theorem Dev.get_ppsEdge (h : d.on F.refCtrlPpsPol = falling) {q : Sentence} (hs : d.ref.sentence = some q)
    (hsrc : d.get F.refCtrlTodSrc = 1) (hnear : 4 * ((q.sec * secondTk - (d.stampNow phase - d.ppsDly)) * d.std.b
      - roundDiv ((q.sec * secondTk - (d.stampNow phase - d.ppsDly)) * d.std.b) d.std.a * d.std.a).natAbs ≤ d.std.a) :
    (d.ppsEdge falling phase).get F.htUtc = (q.ofs % 65536).toNat := by
  have haccepted : (d.ppsLabel phase q).1 = true := Dev.label_accepts (d.ppsCome phase) _ _ false hnear
  rw [((d.ppsEdge_cases falling phase h).2 q hs).2 hsrc, if_pos haccepted]
  exact Dev.get_sentenceTaken _ _

end

theorem ppsEdge_leaves {s : State} (hcount : s.dev.time.counting = true) (falling : Bool) (phase : Fin 10)
    (h : s.dev.on F.refCtrlPpsPol = falling) : Leaves (.ppsEdge falling phase) s fun e =>
      s.dev.UsedUp (s.dev.stampNow phase) e ∧ e.get F.htUtc = (s.dev.ppsEdge falling phase).get F.htUtc := by
  refine leaves_effect (exec_ppsEdge falling phase s) ?_
  rw [Dev.aonEvent_counting _ hcount]
  have hwake := Dev.pwrOnly_wakeOnFault (s.dev.ppsEdge falling phase) s.dev
  obtain ⟨htime, href⟩ := hwake.beside
  obtain ⟨htime', hpps, hsentence⟩ := s.dev.usedUp_ppsEdge falling phase h
  exact ⟨⟨htime.trans htime', by rw [href]; exact hpps, by rw [href]; exact hsentence⟩, hwake.get _ (by decide)⟩

theorem ppsEdge_ignores {s : State} (hcount : s.dev.time.counting = true) (falling : Bool) (phase : Fin 10)
    (h : s.dev.on F.refCtrlPpsPol ≠ falling) : exec (.ppsEdge falling phase) s = .next s := by
  rw [exec_ppsEdge, State.effect, Dev.aonEvent_counting _ hcount, Dev.ppsEdge_ignored _ _ _ h, Dev.wakeOnFault_idle _ _ rfl rfl]

/-- Settles O14: a frame by R75's conditions, and an edge of PPS_IN by its polarity and the sentence that waits. -/
theorem labelsTaken : Obligations.LabelsTaken := by
  unfold Obligations.LabelsTaken
  intro s hcount d
  refine ⟨fun l => ?_, fun falling phase => ⟨fun h => ?_, ppsEdge_ignores hcount falling phase⟩⟩
  · intro w digits hms now recent prev hrecent hold good
    obtain ⟨i, hist, n, regs, c, hreach, hregs, -⟩ := d.reach_frame l.start
    have hpred : (d.reach l.start).ltcPred = prev := by
      refine Dev.ltcPred_eq _ prev now ?_ ?_ ?_ <;> rw [hreach]
      · rfl
      · exact hrecent
      · exact hold
    have hgood : good ↔ (d.reach l.start).ltcGood l := by
      rw [Dev.ltcGood, hpred]
      exact Iff.rfl
    have hht : (d.reach l.start).time.ht = BitVec.ofNat 64 (max d.now l.start) := by rw [hreach]
    have hat : (d.reach l.start).ref.ltcAt = d.ref.ltcAt := by rw [hreach]
    obtain ⟨t, hexec, hpending, htime, htaken, hnone⟩ := ltcInFrame_leaves hcount l
    rw [hgood]
    exact ⟨t, hexec, hpending, htime.trans hht, htaken, fun hbad =>
      ⟨(hnone hbad).1.trans (d.reach_reg_of_tcu _ (by decide)), (hnone hbad).2.trans hat⟩⟩
  · obtain ⟨t, hexec, hpending, ⟨htime, hpps, hsentence⟩, hutc⟩ := ppsEdge_leaves hcount falling phase h
    exact ⟨t, hexec, hpending, hpps, hsentence, htime, fun q hq hsrc hnear =>
      hutc.trans (d.get_ppsEdge falling phase h hq hsrc hnear)⟩

end Sys2Proof.Machine
end

section
/-! SUPPORT. The loop's own state: entering a loop state, and a requested re-anchor (R64, R82, R85). -/

namespace Sys2Proof.Machine

/-- `e` is `d` but for the front end and loop, setters, the fault state, and registers of the list and those in which events are recorded. -/
def Dev.RefOnly (d e : Dev) (l : List Nat) : Prop := ∃ r x f c, e = { d with regs := r, setters := x, flt := f, ref := c }
  ∧ ∀ b, b ∉ l → recReg b = false → Tab.get regReset r b = d.reg b

section
variable {d e : Dev} {l : List Nat}

theorem Dev.RefOnly.trans {a b c : Dev} (h : a.RefOnly b l) (h' : b.RefOnly c l) : a.RefOnly c l := by
  obtain ⟨r, x, f, k, rfl, hr⟩ := h
  obtain ⟨r', x', f', k', rfl, hr'⟩ := h'
  exact ⟨r', x', f', k', rfl, fun y hy hrec => (hr' y hy hrec).trans (hr y hy hrec)⟩

theorem Dev.RefOnly.mono {l' : List Nat} (h : d.RefOnly e l) (hl : ∀ b ∈ l, b ∈ l') : d.RefOnly e l' := by
  obtain ⟨r, x, f, c, he, hr⟩ := h
  exact ⟨r, x, f, c, he, fun b hb => hr b fun hmem => hb (hl b hmem)⟩

theorem Dev.RegsOnly.refOnly (h : d.RegsOnly e l) : d.RefOnly e l := by
  obtain ⟨r, x, f, rfl, hr⟩ := h
  exact ⟨r, x, f, d.ref, rfl, hr⟩

theorem Dev.RegsOnly.ref (h : d.RegsOnly e l) : e.ref = d.ref := by
  obtain ⟨r, x, f, rfl, -⟩ := h
  rfl

theorem Dev.refOnly_ref (d : Dev) (c : RefS) (l : List Nat) : d.RefOnly { d with ref := c } l :=
  ⟨d.regs, d.setters, d.flt, c, rfl, fun _ _ _ => rfl⟩

theorem Dev.RefOnly.keepsRegs (h : d.RefOnly e l) : d.KeepsRegs e l := by
  obtain ⟨r, x, f, c, rfl, hr⟩ := h
  exact hr

theorem Dev.RefOnly.get (h : d.RefOnly e l) (f : Fld) (hf : f.addr ∉ l) (hrec : recReg f.addr = false) : e.get f = d.get f := by
  rw [Dev.get, Dev.get, h.keepsRegs _ hf hrec]

theorem Dev.RefOnly.beside (h : d.RefOnly e l) : e.time = d.time ∧ e.mem = d.mem ∧ e.cue = d.cue ∧ e.sys = d.sys := by
  obtain ⟨r, x, f, c, rfl, -⟩ := h
  exact ⟨rfl, rfl, rfl, rfl⟩

end

theorem Dev.regsOnly_put (d : Dev) (f : Fld) (v : Nat) : d.RegsOnly (d.put f v) [f.addr] := d.regsOnly_setReg _ _

/-! ### Loop states -/

section
variable (d : Dev)

theorem Dev.regsOnly_setLoop (s : Nat) : d.RegsOnly (d.setLoop s) [F.refStatusState.addr] :=
  ((d.regsOnly_put F.refStatusState s).trans (Dev.regsOnly_put _ F.refStatusGood _)).trans ((Dev.fltOnly_dropHealth _).regsOnly _)

theorem Dev.get_setLoop (s : Nat) (f : Fld) (hf : recReg f.addr = false) :
    (d.setLoop s).get f = ((d.put F.refStatusState s).put F.refStatusGood (if s = Loop.locked ∨ s = Loop.holdover then 1 else 0)).get f :=
  (Dev.fltOnly_dropHealth _).get f hf

theorem Dev.loop_setLoop (s : Nat) (hs : s < 8) : (d.setLoop s).loop = s := by
  rw [Dev.loop, d.get_setLoop s _ (by decide), Dev.get_put_beside _ _ _ _ (by decide), Dev.get_put_same _ _ _ (by decide)]
  exact Nat.mod_eq_of_lt hs

/-- GOOD is 1 in LOCKED and HOLDOVER. -/
theorem Dev.good_setLoop (s : Nat) : (d.setLoop s).on F.refStatusGood = decide (s = Loop.locked ∨ s = Loop.holdover) := by
  rw [Dev.on, d.get_setLoop s _ (by decide), Dev.get_put_same _ _ _ (by decide)]
  split
  · next h => rw [decide_eq_true h]; rfl
  · next h => rw [decide_eq_false h]; rfl

/-- Other fields than STATE and GOOD. -/
theorem Dev.get_setLoop_beside (s : Nat) (f : Fld) (hf : recReg f.addr = false)
    (hne : f.addr = F.refStatusState.addr → 3 ≤ f.lo ∧ (f.lo + f.w ≤ 7 ∨ 8 ≤ f.lo)) : (d.setLoop s).get f = d.get f := by
  rw [d.get_setLoop s f hf]
  by_cases h : f.addr = F.refStatusState.addr
  · obtain ⟨hstate, hgood⟩ := hne h
    rw [Dev.get_put_beside _ _ _ _ hgood, Dev.get_put_beside _ F.refStatusState f _ (.inr hstate)]
  · rw [Dev.get_put_other _ F.refStatusGood _ _ h, Dev.get_put_other _ F.refStatusState _ _ h]

/-! ### A requested re-anchor (R85) -/

theorem Dev.decideSet_shows (v : Nat) : (d.decideSet v).ref.reanchor = some ⟨if d.loop = Loop.free then (v : Int) - d.nextBoundary
      else d.setDelta v d.nextBoundary (if d.loop = Loop.locked then d.phase else 0), d.nextBoundary, true⟩
    ∧ (d.decideSet v).on F.refStatusReanchorPend = true ∧ d.RefOnly (d.decideSet v) [F.refStatusState.addr]
    ∧ ∀ f : Fld, f.addr = F.refStatusState.addr → f.lo + f.w ≤ 5 ∨ 6 ≤ f.lo → (d.decideSet v).get f = d.get f := by
  unfold Dev.decideSet
  extract_lets b delta ref
  refine ⟨rfl, ?_, (d.refOnly_ref ref _).trans (Dev.regsOnly_put _ F.refStatusReanchorPend 1).refOnly, fun f _ hf =>
    Dev.get_put_beside _ F.refStatusReanchorPend f _ hf⟩
  rw [Dev.on, Dev.get_put_same _ _ _ (by decide)]
  rfl

theorem roundDiv_one (x : Int) : roundDiv x 1 = x := by
  unfold roundDiv
  omega

theorem wrapHalf_range (x : Int) {m : Nat} (hm : 0 < m) : -(m : Int) < 2 * wrapHalf x m ∧ 2 * wrapHalf x m ≤ m := by
  have hnonneg := Int.emod_nonneg x (show (m : Int) ≠ 0 by omega)
  have hlt := Int.emod_lt_of_pos x (show (0 : Int) < m by omega)
  unfold wrapHalf
  dsimp only
  split <;> omega

/-- What `wrapHalf` takes off is a whole number of moduli. -/
theorem wrapHalf_congr (x : Int) (m : Nat) : ∃ k : Int, wrapHalf x m = x - k * m := by
  have hdiv := Int.mul_ediv_add_emod x m
  unfold wrapHalf
  dsimp only
  split
  · exact ⟨x / m + 1, by rw [Int.add_mul]; linarith⟩
  · exact ⟨x / m, by linarith⟩

theorem Dev.std_pos : 0 < d.std.a := by
  have hperiod : 0 < d.period := by
    unfold Dev.period
    split <;> decide
  have haes : 0 < d.aesPeriod := by
    unfold Dev.aesPeriod
    split
    · decide
    · split
      · decide
      · exact hperiod
  unfold Dev.std Dev.stdOf
  extract_lets p
  split <;> simp [secondTk, haes]

/-- The nearest value on the reference's grid, for a frame of whole ticks. -/
theorem Dev.setDelta_nearest (value b : Nat) (e : Int) (hb : d.std.b = 1) : ∃ δ k : Int, d.setDelta value b e = (value : Int) - b + δ
    ∧ -(d.std.a : Int) < 2 * δ ∧ 2 * δ ≤ d.std.a ∧ (value : Int) + δ - b - e = k * d.std.a := by
  obtain ⟨hlow, hhigh⟩ := wrapHalf_range (e - ((value : Int) - b)) d.std_pos
  obtain ⟨k, hk⟩ := wrapHalf_congr (e - ((value : Int) - b)) d.std.a
  refine ⟨wrapHalf (e - ((value : Int) - b)) d.std.a, -k, ?_, hlow, hhigh, ?_⟩
  · unfold Dev.setDelta
    simp only [hb, Nat.cast_one, mul_one, roundDiv_one]
  · rw [hk, neg_mul]
    ring

end
end Sys2Proof.Machine
end

section
/-! SUPPORT. A write of REF_CTRL.RUN or HT_CTRL.SET, and the settlement of O11. -/

namespace Sys2Proof.Machine

/-! ### Fields written with the value they hold -/

/-- A field whose word a write carries. -/
def Access.carried : Access → Bool
  | .rw | .rws _ | .lk => true
  | _ => false

section
variable {d : Dev} {r : Req} (h : d.PlainReg r.addr)
include h

/-- A field written with the value it holds is not contested: its word stays. -/
theorem Dev.fieldWrite_kept (f : Field) (m : Met) (e : Dev) (hacc : f.acc.carried = true)
    (hsame : bitsOf (reqWord r) f.lo f.w = bitsOf (d.reg r.addr) f.lo f.w)
    (hkept : bitsOf (e.reg r.addr) f.lo f.w = bitsOf (d.reg r.addr) f.lo f.w) :
    ∃ did e', d.fieldWrite [r] r (m, e) f = ({ m with did := m.did || did }, e') ∧ e.RegsOnly e' [r.addr]
      ∧ e'.reg r.addr = e.reg r.addr := by
  obtain ⟨hset, hreg⟩ := Dev.fieldSet_plain h f e (bitsOf (d.reg r.addr) f.lo f.w)
  have hword : (d.fieldSet r f (bitsOf (d.reg r.addr) f.lo f.w) e).reg r.addr = e.reg r.addr := by
    rw [hreg, ← hkept, insBits_bitsOf]
  have hloses := hsame ▸ loses_one r f
  have hwrite : d.fieldWrite [r] r (m, e) f =
      if isLockable r.addr f && d.lockedReg r.addr then (m, e)
      else ({ m with did := true }, d.fieldSet r f (bitsOf (d.reg r.addr) f.lo f.w) e) := by
    cases hf : f.acc <;> simp [hf, Access.carried] at hacc <;> simp [Dev.fieldWrite, hf, hloses, h.present, hsame]
  rw [hwrite]
  split
  · exact ⟨false, e, by simp, .refl _ _, rfl⟩
  · exact ⟨true, _, by simp, hset, hword⟩

/-- A row of such fields. -/
theorem Dev.fieldWrites_kept (l : List Field) (m : Met) (e : Dev) (hacc : ∀ f ∈ l, f.acc.carried = true)
    (hsame : ∀ f ∈ l, bitsOf (reqWord r) f.lo f.w = bitsOf (d.reg r.addr) f.lo f.w)
    (hkept : ∀ f ∈ l, bitsOf (e.reg r.addr) f.lo f.w = bitsOf (d.reg r.addr) f.lo f.w) :
    ∃ did e', l.foldl (d.fieldWrite [r] r) (m, e) = ({ m with did := m.did || did }, e') ∧ e.RegsOnly e' [r.addr]
      ∧ e'.reg r.addr = e.reg r.addr := by
  induction l generalizing m e with
  | nil => exact ⟨false, e, by simp, .refl _ _, rfl⟩
  | cons f l ih =>
    obtain ⟨hf, hl⟩ := List.forall_mem_cons.1 hacc
    obtain ⟨hsf, hsl⟩ := List.forall_mem_cons.1 hsame
    obtain ⟨hkf, hkl⟩ := List.forall_mem_cons.1 hkept
    obtain ⟨did, e1, hone, honly, hreg⟩ := Dev.fieldWrite_kept h f m e hf hsf hkf
    obtain ⟨did', e2, hrest, honly', hreg'⟩ := ih { m with did := m.did || did } e1 hl hsl (by rw [hreg]; exact hkl)
    refine ⟨did || did', e2, ?_, honly.trans honly', hreg'.trans hreg⟩
    rw [List.foldl_cons, hone, hrest, Bool.or_assoc]

end

/-! ### REF_CTRL.RUN -/

/-- The fields of REF_CTRL before and after RUN. -/
def refCtrlLow : List Field := [⟨0, 4, .lk, 0⟩]
def refCtrlHigh : List Field := [⟨5, 2, .lk, 0⟩, ⟨7, 1, .rw, 1⟩, ⟨8, 2, .rws .block, 1⟩, ⟨10, 1, .lk, 0⟩]

theorem regFields_refCtrl : regFields F.refCtrlRun.addr = refCtrlLow ++ ⟨4, 1, .rw, 0⟩ :: refCtrlHigh := rfl

section
variable {d : Dev} {src : Src} {v : Nat}

theorem Dev.plainReg_refCtrl (d : Dev) : d.PlainReg F.refCtrlRun.addr := ⟨rfl, rfl, rfl, rfl, fun _ => rfl, rfl, rfl⟩

/-- The word that a write of RUN carries: the fields beside RUN as they stand. -/
theorem Dev.fieldWord_refCtrl : bitsOf (d.fieldWord F.refCtrlRun v) 4 1 = v % 2
    ∧ ∀ f ∈ refCtrlLow ++ refCtrlHigh, bitsOf (d.fieldWord F.refCtrlRun v) f.lo f.w = bitsOf (d.reg F.refCtrlRun.addr) f.lo f.w := by
  have hword : d.fieldWord F.refCtrlRun v = insBits ((refCtrlLow ++ ⟨4, 1, .rw, 0⟩ :: refCtrlHigh).foldl
      (fun w x => insBits w x.lo x.w (bitsOf (d.reg F.refCtrlRun.addr) x.lo x.w)) 0) 4 1 v := rfl
  rw [hword]
  refine ⟨bitsOf_insBits_same _ _ _ _ (by decide), fun f hf => ?_⟩
  simp only [refCtrlLow, refCtrlHigh, List.cons_append, List.nil_append, List.foldl_cons, List.foldl_nil] at hf ⊢
  fin_cases hf <;>
    simp (disch := decide) only [bitsOf_insBits_other, bitsOf_insBits_same, Nat.mod_eq_of_lt (bitsOf_lt _ _ _)]

/-- The account of a write of RUN: the word beside RUN stays. -/
theorem Dev.oneMet_refRun (hv : v < 2) (hmay : d.MaySet src F.refCtrlRun) :
    ∃ won e, d.oneMet (d.fieldReq src F.refCtrlRun v) = (⟨0, true, false, false, false, won⟩, e)
      ∧ d.RegsOnly e [F.refCtrlRun.addr] ∧ e.reg F.refCtrlRun.addr = insBits (d.reg F.refCtrlRun.addr) 4 1 v := by
  have hplain := d.plainReg_refCtrl
  obtain ⟨hrun, hbeside⟩ := d.fieldWord_refCtrl (v := v)
  have hsame (f : Field) (hf : f ∈ refCtrlLow ++ refCtrlHigh) :
      bitsOf (reqWord (d.fieldReq src F.refCtrlRun v)) f.lo f.w = bitsOf (d.reg F.refCtrlRun.addr) f.lo f.w := by
    rw [Dev.fieldReq, reqWord_regReq, hbeside f hf]
  obtain ⟨did, e1, hlow, honly1, hreg1⟩ := Dev.fieldWrites_kept (r := d.fieldReq src F.refCtrlRun v) hplain refCtrlLow Met.none' d
    (by decide) (fun f hf => hsame f (List.mem_append_left _ hf)) fun _ _ => rfl
  obtain ⟨won, htaken⟩ := Dev.fieldWrite_taken (d := d) (r := d.fieldReq src F.refCtrlRun v) ⟨4, 1, .rw, 0⟩
    { Met.none' with did := Met.none'.did || did } e1 rfl rfl hmay
  obtain ⟨honly2, hreg2⟩ := Dev.fieldSet_plain (r := d.fieldReq src F.refCtrlRun v) hplain ⟨4, 1, .rw, 0⟩ e1
    (bitsOf (reqWord (d.fieldReq src F.refCtrlRun v)) 4 1)
  have hvalue : bitsOf (reqWord (d.fieldReq src F.refCtrlRun v)) 4 1 = v := by
    rw [Dev.fieldReq, reqWord_regReq, hrun, Nat.mod_eq_of_lt hv]
  rw [hvalue] at hreg2 htaken honly2
  have hword : (d.fieldSet (d.fieldReq src F.refCtrlRun v) ⟨4, 1, .rw, 0⟩ v e1).reg F.refCtrlRun.addr
      = insBits (d.reg F.refCtrlRun.addr) 4 1 v := hreg2.trans (congrArg (insBits · 4 1 v) hreg1)
  obtain ⟨did', e3, hhigh, honly3, hreg3⟩ := Dev.fieldWrites_kept (r := d.fieldReq src F.refCtrlRun v) hplain refCtrlHigh
    { Met.none' with did := true, won := won } (d.fieldSet (d.fieldReq src F.refCtrlRun v) ⟨4, 1, .rw, 0⟩ v e1) (by decide)
    (fun f hf => hsame f (List.mem_append_right _ hf)) (fun f hf => by
      rw [Dev.fieldReq_addr, hword]
      have hapart : ∀ f ∈ refCtrlHigh, 5 ≤ f.lo := by decide
      exact bitsOf_insBits_other _ _ _ _ _ _ (.inr (hapart f hf)))
  refine ⟨won, e3, ?_, (honly1.trans honly2).trans honly3, hreg3.trans hword⟩
  rw [Dev.oneMet_plain hplain, Dev.fieldReq_addr, regFields_refCtrl, List.foldl_append, hlow, List.foldl_cons, htaken]
  exact hhigh

end

/-! ### What RUN starts and stops -/

section
variable (d : Dev)

/-- A new reference begins in ACQUIRE (R64). -/
theorem Dev.refStart_shows : d.RefOnly d.refStart [F.refStatusState.addr] ∧ d.refStart.get F.refStatusState = 1
    ∧ d.refStart.on F.refStatusGood = false ∧ d.refStart.ref.established = false ∧ d.refStart.ref.lastEdge = none := by
  unfold Dev.refStart
  refine ⟨(d.refOnly_ref _ _).trans (Dev.regsOnly_setLoop _ _).refOnly, Dev.loop_setLoop _ _ (by decide), Dev.good_setLoop _ _, ?_, ?_⟩
    <;> rw [(Dev.regsOnly_setLoop _ _).ref]

/-- The loop has entered FREE. -/
structure Dev.Freed (d e : Dev) : Prop where
  only : d.RefOnly e [F.refStatusState.addr]
  state : e.get F.refStatusState = 0
  good : e.on F.refStatusGood = false
  anchored : e.on F.refStatusAnchored = (d.on F.refStatusAnchored && decide (d.get F.refStatusState ≠ 1))

variable {d} in
theorem Dev.Freed.trans {e e' : Dev} (h : d.Freed e) (honly : e.RefOnly e' [F.refStatusState.addr])
    (hget : ∀ f ∈ [F.refStatusState, F.refStatusGood, F.refStatusAnchored], e'.get f = e.get f) : d.Freed e' := by
  refine ⟨h.only.trans honly, (hget _ (by decide)).trans h.state, ?_, ?_⟩
  · rw [Dev.on, hget _ (by decide)]
    exact h.good
  · rw [Dev.on, hget _ (by decide)]
    exact h.anchored

/-- The loop enters FREE, and the reference is forgotten. -/
def Dev.toFree : Dev :=
  let d' := ((if d.loop = Loop.acquire then d.put F.refStatusAnchored 0 else d).setLoop Loop.free).slewEnd
  { d' with ref := { d'.ref with holdAt := none, fromHold := false, searching := false, lastEdge := none } }

/-- What becomes of a pending or waiting re-anchor in FREE (R82). -/
def Dev.stopAnchor : Dev :=
  match d.ref.reanchor with
  | some r => if r.requested then d else ({ d with ref := { d.ref with reanchor := none } }).put F.refStatusReanchorPend 0
  | none => match d.ref.waitSet with
    | some v => d.decideSet v
    | none => d

theorem Dev.refStop_eq : d.refStop = d.toFree.stopAnchor := rfl

theorem Dev.freed_toFree : d.Freed d.toFree ∧ d.toFree.ref.reanchor = d.ref.reanchor ∧ d.toFree.ref.waitSet = d.ref.waitSet := by
  unfold Dev.toFree
  have hfirst : d.RegsOnly (if d.loop = Loop.acquire then d.put F.refStatusAnchored 0 else d) [F.refStatusState.addr] := by
    split
    · exact d.regsOnly_put F.refStatusAnchored 0
    · exact .refl _ _
  have hanchored : (if d.loop = Loop.acquire then d.put F.refStatusAnchored 0 else d).on F.refStatusAnchored
      = (d.on F.refStatusAnchored && decide (d.get F.refStatusState ≠ 1)) := by
    by_cases h : d.loop = Loop.acquire
    · rw [if_pos h, Dev.on, Dev.get_put_same _ _ _ (by decide), decide_eq_false (show ¬ d.get F.refStatusState ≠ 1 from not_not.2 h),
        Bool.and_false]
      rfl
    · rw [if_neg h, decide_eq_true (show d.get F.refStatusState ≠ 1 from h), Bool.and_true]
  generalize (if d.loop = Loop.acquire then d.put F.refStatusAnchored 0 else d) = d1 at hfirst hanchored ⊢
  have hfree := d1.regsOnly_setLoop Loop.free
  have hslew : (d1.setLoop Loop.free).RefOnly (d1.setLoop Loop.free).slewEnd [F.refStatusState.addr] :=
    (Dev.refOnly_ref _ _ _).trans (Dev.regsOnly_put _ F.refStatusSlewing 0).refOnly
  refine ⟨Dev.Freed.trans (e := (d1.setLoop Loop.free).slewEnd) ⟨(hfirst.trans hfree).refOnly.trans hslew, ?_, ?_, ?_⟩
    (Dev.refOnly_ref _ _ _) fun _ _ => rfl, ?_, ?_⟩
  · rw [Dev.get_slewEnd_beside _ _ (by decide)]
    exact d1.loop_setLoop _ (by decide)
  · rw [Dev.on, Dev.get_slewEnd_beside _ _ (by decide)]
    exact d1.good_setLoop _
  · rw [Dev.on, Dev.get_slewEnd_beside _ _ (by decide), Dev.get_setLoop_beside _ _ _ (by decide) (by decide)]
    exact hanchored
  · show (d1.setLoop Loop.free).ref.reanchor = _
    rw [hfree.ref, hfirst.ref]
  · show (d1.setLoop Loop.free).ref.waitSet = _
    rw [hfree.ref, hfirst.ref]

variable {d} in
/-- In FREE a re-anchor of the loop's own is dropped, and a waiting value is decided. -/
theorem Dev.Freed.stopAnchor {e : Dev} (h : d.Freed e) : d.Freed e.stopAnchor
    ∧ (∀ r, e.ref.reanchor = some r → e.stopAnchor.ref.reanchor = if r.requested then some r else none)
    ∧ (∀ v, e.ref.reanchor = none → e.ref.waitSet = some v →
      e.stopAnchor.ref.reanchor = some ⟨(v : Int) - d.nextBoundary, d.nextBoundary, true⟩) := by
  unfold Dev.stopAnchor
  cases hr : e.ref.reanchor with
  | some r =>
    refine ⟨?_, fun r' he => ?_, fun _ he => by cases he⟩
    · dsimp only
      split
      · exact h
      refine h.trans ((e.refOnly_ref _ _).trans (Dev.regsOnly_put _ F.refStatusReanchorPend 0).refOnly) fun f hf => ?_
      fin_cases hf <;> exact Dev.get_put_beside _ F.refStatusReanchorPend _ _ (by decide)
    · obtain rfl : r = r' := Option.some.inj he
      dsimp only
      split
      · exact hr
      · rfl
  | none =>
    cases hw : e.ref.waitSet with
    | none => exact ⟨h, fun _ he => (by cases he), fun _ _ he => by cases he⟩
    | some v =>
      obtain ⟨hset, -, honly, hbeside⟩ := e.decideSet_shows v
      refine ⟨h.trans honly fun f hf => ?_, fun _ he => (by cases he), fun v' _ he => ?_⟩
      · fin_cases hf <;> exact hbeside _ rfl (by decide)
      · obtain rfl : v = v' := Option.some.inj he
        have hboundary : e.nextBoundary = d.nextBoundary := by
          rw [Dev.nextBoundary, Dev.nextBoundary, Dev.now, Dev.now, h.only.beside.1]
        rw [show (e.decideSet v).ref.reanchor = _ from hset, if_pos (show e.loop = Loop.free from h.state), hboundary]

/-- RUN at 0 (R82): FREE, and what becomes of a pending or waiting re-anchor. -/
theorem Dev.refStop_shows : d.Freed d.refStop
    ∧ (∀ r, d.ref.reanchor = some r → d.refStop.ref.reanchor = if r.requested then some r else none)
    ∧ (∀ v, d.ref.reanchor = none → d.ref.waitSet = some v →
      d.refStop.ref.reanchor = some ⟨(v : Int) - d.nextBoundary, d.nextBoundary, true⟩) := by
  obtain ⟨hfreed, hreanchor, hwait⟩ := d.freed_toFree
  rw [Dev.refStop_eq, ← hreanchor, ← hwait]
  exact hfreed.stopAnchor

end

/-! ### The commands -/

theorem exec_refRunStart (src : Src) (s : State) : exec (.refRunStart src) s = s.effect fun d => d.srcWrite src F.refCtrlRun 1 := rfl
theorem exec_refRunStop (src : Src) (s : State) : exec (.refRunStop src) s = s.effect fun d => d.srcWrite src F.refCtrlRun 0 := rfl
theorem exec_htSet (src : Src) (s : State) : exec (.htSet src) s = s.effect fun d => d.srcWrite src F.htCtrl 1 := rfl

theorem Dev.regHook_refRun (e d : Dev) (byHost : Bool) :
    e.regHook d F.refCtrlRun.addr 0 byHost = (.ok, e.timeHook F.refCtrlRun.addr (d.reg F.refCtrlRun.addr) 0) := rfl

/-- A change of RUN starts or stops the loop; the standard stays. -/
theorem Dev.timeHook_run {e d : Dev} (hcode : e.code = d.code) (hrun : d.on F.refCtrlRun = !e.on F.refCtrlRun) :
    e.timeHook F.refCtrlRun.addr (d.reg F.refCtrlRun.addr) 0 = if e.on F.refCtrlRun then e.refStart else e.refStop := by
  have hstd : ¬ bitsOf (d.reg F.refCtrlRun.addr) 0 4 ≠ e.code := not_not.2 (hcode.symm :)
  have hedge : ¬ (d.reg F.refCtrlRun.addr).getLsbD 4 = e.on F.refCtrlRun := by
    rw [← bitsOf_bit]
    intro hsame
    rw [show d.on F.refCtrlRun = e.on F.refCtrlRun from hsame] at hrun
    cases h : e.on F.refCtrlRun <;> simp [h] at hrun
  unfold Dev.timeHook
  rw [if_neg (by decide), if_neg (by decide), if_pos (by decide), if_neg hstd, if_neg hedge]

/-- A write that changes RUN: the registers are written, and then the loop starts or stops. -/
theorem Dev.srcWrite_refRun {d : Dev} {src : Src} {v : Nat} (hv : v < 2) (htake : d.TakesField src F.refCtrlRun v)
    (hmay : d.MaySet src F.refCtrlRun) (hchange : d.get F.refCtrlRun ≠ v) :
    ∃ e, d.RegsOnly e [F.refCtrlRun.addr] ∧ e.get F.refCtrlRun = v
      ∧ (∀ f : Fld, f.addr = F.refCtrlRun.addr → f.lo + f.w ≤ 4 ∨ 5 ≤ f.lo → e.get f = d.get f)
      ∧ d.srcWrite src F.refCtrlRun v = (if v = 1 then e.refStart else e.refStop).told src F.refCtrlRun.addr := by
  obtain ⟨won, e, hmet, honly, hreg⟩ := Dev.oneMet_refRun hv hmay
  obtain ⟨e', hflt, hwrite⟩ := Dev.srcWrite_done d.plainReg_refCtrl htake hmet _ fun x => x.regHook_refRun d _
  have hreg' : e'.reg F.refCtrlRun.addr = insBits (d.reg F.refCtrlRun.addr) 4 1 v := (hflt.reg _ (by decide)).trans hreg
  have hrun : e'.get F.refCtrlRun = v := by
    rw [Dev.get, hreg']
    exact (bitsOf_insBits_same _ 4 1 v (by decide)).trans (Nat.mod_eq_of_lt hv)
  have hbeside (f : Fld) (hf : f.addr = F.refCtrlRun.addr) (hapart : f.lo + f.w ≤ 4 ∨ 5 ≤ f.lo) : e'.get f = d.get f := by
    rw [Dev.get, Dev.get, hf, hreg']
    exact bitsOf_insBits_other _ _ _ _ _ _ hapart
  refine ⟨e', honly.trans (hflt.regsOnly _), hrun, hbeside, ?_⟩
  have hlt : d.get F.refCtrlRun < 2 := bitsOf_lt _ _ _
  rw [hwrite, Dev.timeHook_run (hbeside F.refCtrlStd rfl (by decide)) (by
    rw [Dev.on, Dev.on, hrun]
    obtain rfl | rfl : v = 0 ∨ v = 1 := by omega
    · rw [show d.get F.refCtrlRun = 1 by omega]; rfl
    · rw [show d.get F.refCtrlRun = 0 by omega]; rfl), Dev.on, hrun]
  obtain rfl | rfl : v = 0 ∨ v = 1 := by omega
  · rfl
  · rfl

section
variable {s : State} {src : Src}

/-- What a write of RUN leaves alone. -/
def Dev.RunBeside (d e : Dev) : Prop := d.KeepsRegs e [F.refCtrlRun.addr, F.refStatusState.addr] ∧ e.get F.refCtrlStd = d.get F.refCtrlStd
  ∧ e.get F.refCtrlTodSrc = d.get F.refCtrlTodSrc ∧ e.time.ht = d.time.ht ∧ e.mem = d.mem ∧ e.cue = d.cue

theorem Dev.told_beside (d : Dev) (src : Src) (a : Nat) : (d.told src a).ref = d.ref ∧ (d.told src a).time = d.time := by
  rw [Dev.told_eq]
  exact ⟨rfl, rfl⟩

theorem Dev.on_told (e : Dev) (src : Src) (a : Nat) (f : Fld) : (e.told src a).on f = e.on f := by rw [Dev.on, Dev.on, Dev.get_told]

theorem Dev.runBeside_told {d e x : Dev} (honly : d.RegsOnly e [F.refCtrlRun.addr])
    (hbeside : ∀ f : Fld, f.addr = F.refCtrlRun.addr → f.lo + f.w ≤ 4 ∨ 5 ≤ f.lo → e.get f = d.get f)
    (hx : e.RefOnly x [F.refStatusState.addr]) : d.RunBeside (x.told src F.refCtrlRun.addr) := by
  have hall := (honly.refOnly.mono (l' := [F.refCtrlRun.addr, F.refStatusState.addr]) (by simp)).trans (hx.mono (by simp))
  obtain ⟨htime, hmem, hcue, -⟩ := hall.beside
  obtain ⟨hregs, hmem', hcue', -, -⟩ := x.told_frame src F.refCtrlRun.addr
  have hctrl (f : Fld) (hf : f.addr = F.refCtrlRun.addr) (hapart : f.lo + f.w ≤ 4 ∨ 5 ≤ f.lo) :
      (x.told src F.refCtrlRun.addr).get f = d.get f := by
    rw [Dev.get_told, hx.get f (by rw [hf]; decide) (by rw [hf]; decide), hbeside f hf hapart]
  refine ⟨fun a ha hrec => (Dev.reg_congr hregs a).trans (hall.keepsRegs a ha hrec), hctrl _ rfl (by decide), hctrl _ rfl (by decide),
    ?_, hmem'.trans hmem, hcue'.trans hcue⟩
  rw [(x.told_beside src F.refCtrlRun.addr).2, htime]

theorem refRunStart_leaves (hmay : s.dev.MaySet src F.refCtrlRun) (htake : s.dev.TakesField src F.refCtrlRun 1)
    (hoff : s.dev.on F.refCtrlRun = false) : Leaves (.refRunStart src) s fun e =>
      e.on F.refCtrlRun = true ∧ e.get F.refStatusState = 1 ∧ e.on F.refStatusGood = false ∧ e.ref.established = false
      ∧ e.ref.lastEdge = none ∧ s.dev.RunBeside e := by
  refine leaves_effect (exec_refRunStart src s) ?_
  have hchange : s.dev.get F.refCtrlRun ≠ 1 := fun h => by rw [Dev.on, h] at hoff; cases hoff
  obtain ⟨e, honly, hrun, hbeside, hwrite⟩ := Dev.srcWrite_refRun (by decide) htake hmay hchange
  obtain ⟨hstart, hstate, hgood, hestablished, hedge⟩ := e.refStart_shows
  rw [hwrite, if_pos rfl]
  have href := (e.refStart.told_beside src F.refCtrlRun.addr).1
  refine ⟨?_, ?_, ?_, by rw [href]; exact hestablished, by rw [href]; exact hedge, Dev.runBeside_told honly hbeside hstart⟩
  · rw [Dev.on_told, Dev.on, hstart.get _ (by decide) (by decide), hrun]
    rfl
  · rw [Dev.get_told, hstate]
  · rw [Dev.on_told, hgood]

theorem refRunStop_leaves (hmay : s.dev.MaySet src F.refCtrlRun) (htake : s.dev.TakesField src F.refCtrlRun 0)
    (hon : s.dev.on F.refCtrlRun = true) : Leaves (.refRunStop src) s fun e =>
      e.on F.refCtrlRun = false ∧ e.get F.refStatusState = 0 ∧ e.on F.refStatusGood = false
      ∧ e.on F.refStatusAnchored = (s.dev.on F.refStatusAnchored && decide (s.dev.get F.refStatusState ≠ 1))
      ∧ (∀ r, s.dev.ref.reanchor = some r → e.ref.reanchor = if r.requested then some r else none)
      ∧ (∀ v, s.dev.ref.reanchor = none → s.dev.ref.waitSet = some v →
        e.ref.reanchor = some ⟨(v : Int) - s.dev.nextBoundary, s.dev.nextBoundary, true⟩)
      ∧ s.dev.RunBeside e := by
  refine leaves_effect (exec_refRunStop src s) ?_
  have hchange : s.dev.get F.refCtrlRun ≠ 0 := fun h => by rw [Dev.on, h] at hon; cases hon
  obtain ⟨e, honly, hrun, hbeside, hwrite⟩ := Dev.srcWrite_refRun (by decide) htake hmay hchange
  obtain ⟨hfreed, hreanchor, hwait⟩ := e.refStop_shows
  have hstatus (f : Fld) (hf : f.addr = F.refStatusState.addr) : e.get f = s.dev.get f := by
    rw [Dev.get, Dev.get, hf, honly.reg (by decide) (by decide)]
  have hboundary : e.nextBoundary = s.dev.nextBoundary := by
    rw [Dev.nextBoundary, Dev.nextBoundary, Dev.now, Dev.now, honly.refOnly.beside.1]
  have href := (e.refStop.told_beside src F.refCtrlRun.addr).1
  rw [hwrite, if_neg (by decide), href, ← hboundary, ← honly.ref]
  refine ⟨?_, ?_, ?_, ?_, hreanchor, hwait, Dev.runBeside_told honly hbeside hfreed.only⟩
  · rw [Dev.on_told, Dev.on, hfreed.only.get _ (by decide) (by decide), hrun]
    rfl
  · rw [Dev.get_told, hfreed.state]
  · rw [Dev.on_told, hfreed.good]
  · rw [Dev.on_told, hfreed.anchored, Dev.on, Dev.on, hstatus F.refStatusAnchored rfl, hstatus F.refStatusState rfl]

end

/-! ### SET -/

section
variable {d : Dev}

/-- Under HOST the value is a label to come. -/
theorem Dev.htSet_host (hsrc : d.get F.refCtrlTodSrc = 3) : d.htSet =
    { d with ref := { d.ref with hostLabel := some (d.get64 F.htSetLo F.htSetHi, d.now + blockTk) } } := if_pos hsrc

/-- In ACQUIRE the value waits. -/
theorem Dev.htSet_waits (hsrc : d.get F.refCtrlTodSrc = 0) (hloop : d.get F.refStatusState = 1) : d.htSet =
    ({ d with ref := { d.ref with waitSet := some (d.get64 F.htSetLo F.htSetHi), reanchor := none } } : Dev).put
      F.refStatusReanchorPend 1 :=
  (if_neg (by rw [hsrc]; decide)).trans (if_pos hloop)

/-- In the other loop states a re-anchor is decided. -/
theorem Dev.htSet_decides (hsrc : d.get F.refCtrlTodSrc = 0) (hloop : d.get F.refStatusState ≠ 1) :
    d.htSet = d.decideSet (d.get64 F.htSetLo F.htSetHi) :=
  (if_neg (by rw [hsrc]; decide)).trans (if_neg hloop)

/-- A write of SET. -/
theorem htSet_leaves {s : State} {src : Src} (htake : s.dev.TakesField src F.htCtrl 1) {P : Dev → Prop}
    (h : P (s.dev.htSet.told src F.htCtrl.addr)) : Leaves (.htSet src) s P := by
  refine leaves_effect (exec_htSet src s) ?_
  rw [s.dev.srcWrite_action src F.htCtrl 1 rfl rfl rfl (by decide) (s.dev.heldFor_none _ (by decide) (by decide) (by decide)) htake rfl]
  exact h

end

/-- Settles O11: a write of RUN from what it starts or stops, and SET by the source of labels and the state of the loop. -/
theorem runControlOfTime : Obligations.RunControlOfTime := by
  unfold Obligations.RunControlOfTime
  refine ⟨fun s src hmay => ⟨refRunStart_leaves hmay, refRunStop_leaves hmay⟩, fun s src htake => ?_⟩
  intro d v b err f
  have href (e : Dev) : (e.told src F.htCtrl.addr).ref = e.ref := (e.told_beside src F.htCtrl.addr).1
  refine ⟨fun hsrc => htSet_leaves htake ?_, fun hsrc hloop => htSet_leaves htake ?_, fun hsrc hloop => htSet_leaves htake ?_,
    fun hsrc hloop hb => htSet_leaves htake ?_⟩
  · rw [href, (Dev.told_frame _ _ _).1, Dev.htSet_host hsrc]
    exact ⟨rfl, rfl⟩
  · rw [href, Dev.on_told, Dev.htSet_waits hsrc hloop, Dev.on, Dev.get_put_same _ _ _ (by decide)]
    exact ⟨rfl, rfl, rfl⟩
  · obtain ⟨hset, hpend, honly, -⟩ := d.decideSet_shows (d.get64 F.htSetLo F.htSetHi)
    rw [href, Dev.on_told, (Dev.told_beside _ _ _).2, Dev.htSet_decides hsrc (by rw [hloop]; decide), hset,
      if_pos (show d.loop = Loop.free from hloop)]
    exact ⟨rfl, hpend, honly.beside.1⟩
  · obtain ⟨hset, hpend, -, -⟩ := d.decideSet_shows (d.get64 F.htSetLo F.htSetHi)
    have hfree : ¬ d.loop = Loop.free := fun h => by rw [show d.get F.refStatusState = 0 from h] at hloop; omega
    obtain ⟨δ, k, hdelta, hlow, hhigh, hgrid⟩ := d.setDelta_nearest (d.get64 F.htSetLo F.htSetHi) d.nextBoundary
      (if d.loop = Loop.locked then d.phase else 0) hb
    rw [if_neg hfree, hdelta] at hset
    refine ⟨δ, k, ?_, hlow, hhigh, hgrid, ?_⟩
    · rw [href, Dev.htSet_decides hsrc (by omega)]
      exact hset
    · rw [Dev.on_told, Dev.htSet_decides hsrc (by omega)]
      exact hpend

end Sys2Proof.Machine
end

section
/-! SUPPORT. Loss of the reference and the lapse of a holdover (R63, R64, R71, R72). -/

namespace Sys2Proof.Machine

theorem exec_referenceLost (s : State) : exec .referenceLost s = s.effect fun d => d.aonEvent Dev.referenceLost := rfl
theorem exec_holdLapse (s : State) : exec .holdLapse s = s.effect fun d => d.aonEvent Dev.holdLapse := rfl

/-! ### What the entry to HOLDOVER can change -/

/-- The registers that the entry to HOLDOVER writes. -/
def holdRegs : List Nat := [F.refStatusState.addr, F.refCntHold.addr]

/-- `e` is `d` but for HT_INCR, what the loop holds of it, setters, the fault state, and the registers of loop state and events. -/
def Dev.HoldOnly (d e : Dev) : Prop := ∃ r x f i s h v a c,
  e = { d with regs := r, setters := x, flt := f, time := { d.time with incr := i }
               ref := { d.ref with slew := s, incrHist := h, heldIncr := v, holdAt := a, clean := c } }
    ∧ ∀ b, b ∉ holdRegs → recReg b = false → Tab.get regReset r b = d.reg b

section
variable {d e : Dev}

theorem Dev.HoldOnly.refl (d : Dev) : d.HoldOnly d := ⟨d.regs, d.setters, d.flt, d.time.incr, d.ref.slew, d.ref.incrHist, d.ref.heldIncr,
  d.ref.holdAt, d.ref.clean, rfl, fun _ _ _ => rfl⟩

theorem Dev.HoldOnly.trans {a b c : Dev} (h : a.HoldOnly b) (h' : b.HoldOnly c) : a.HoldOnly c := by
  obtain ⟨r, x, f, i, s, l, v, t, k, rfl, hr⟩ := h
  obtain ⟨r', x', f', i', s', l', v', t', k', rfl, hr'⟩ := h'
  exact ⟨r', x', f', i', s', l', v', t', k', rfl, fun y hy hrec => (hr' y hy hrec).trans (hr y hy hrec)⟩

theorem Dev.RegsOnly.holdOnly {l : List Nat} (h : d.RegsOnly e l) (hl : ∀ b ∈ l, b ∈ holdRegs) : d.HoldOnly e := by
  obtain ⟨r, x, f, rfl, hr⟩ := h
  exact ⟨r, x, f, d.time.incr, d.ref.slew, d.ref.incrHist, d.ref.heldIncr, d.ref.holdAt, d.ref.clean, rfl,
    fun b hb => hr b fun hmem => hb (hl b hmem)⟩

theorem Dev.FltOnly.holdOnly (h : d.FltOnly e) : d.HoldOnly e := (h.regsOnly []).holdOnly (by simp)

theorem Dev.HoldOnly.reg (h : d.HoldOnly e) {a : Nat} (ha : a ∉ holdRegs) (hrec : recReg a = false) : e.reg a = d.reg a := by
  obtain ⟨r, x, f, i, s, l, v, t, k, rfl, hr⟩ := h
  exact hr a ha hrec

/-- What the entry to HOLDOVER leaves alone. -/
theorem Dev.HoldOnly.beside (h : d.HoldOnly e) : e.ref.searching = d.ref.searching ∧ e.ref.lastEdge = d.ref.lastEdge
    ∧ e.ref.established = d.ref.established ∧ e.ref.reanchor = d.ref.reanchor ∧ e.sys = d.sys := by
  obtain ⟨r, x, f, i, s, l, v, t, k, rfl, -⟩ := h
  exact ⟨rfl, rfl, rfl, rfl, rfl⟩

theorem Dev.HoldOnly.coreOff (h : d.HoldOnly e) : e.coreOff = d.coreOff := Dev.coreOff_congr (h.reg (by decide) (by decide)) h.beside.2.2.2.2

end

section
variable (d : Dev)

/-- From LOCKED: HOLDOVER with the held increment. -/
def Dev.heldOver : Dev :=
  let e := (d.setLoop Loop.holdover).slewEnd
  { e with time := { e.time with incr := d.meanIncr }
           ref := { e.ref with heldIncr := d.meanIncr, holdAt := some (e.now : Int), clean := 0, incrHist := [] } }

theorem Dev.enterHoldover_locked (h : d.loop = Loop.locked) :
    d.enterHoldover = (d.heldOver.bump F.refCntHold).direct Direct.refLoss := if_pos h

theorem Dev.enterHoldover_acquire (h : d.loop = Loop.acquire) (hnew : d.ref.fromHold = false) :
    d.enterHoldover = ({ d with ref := { d.ref with clean := 0 } } : Dev).direct Direct.refLoss :=
  (if_neg (by rw [h]; decide)).trans ((if_pos h).trans (if_neg (by simp [hnew])))

theorem Dev.holdOnly_setLoop (s : Nat) : d.HoldOnly (d.setLoop s) := (d.regsOnly_setLoop s).holdOnly (by simp [holdRegs])

theorem Dev.holdOnly_heldOver : d.HoldOnly d.heldOver := by
  have hslew : (d.setLoop Loop.holdover).HoldOnly (d.setLoop Loop.holdover).slewEnd :=
    Dev.HoldOnly.trans (b := { d.setLoop Loop.holdover with ref := { (d.setLoop Loop.holdover).ref with slew := 0 } })
      ⟨_, _, _, _, _, _, _, _, _, rfl, fun _ _ _ => rfl⟩ ((Dev.regsOnly_put _ F.refStatusSlewing 0).holdOnly (by decide))
  exact ((d.holdOnly_setLoop _).trans hslew).trans ⟨_, _, _, _, _, _, _, _, _, rfl, fun _ _ _ => rfl⟩

theorem Dev.holdOnly_enterHoldover : d.HoldOnly d.enterHoldover := by
  unfold Dev.enterHoldover
  split
  · exact (d.holdOnly_heldOver.trans ((Dev.regsOnly_put _ F.refCntHold _).holdOnly (by decide))).trans (Dev.fltOnly_direct _ _).holdOnly
  split
  · split
    · exact (Dev.HoldOnly.trans ⟨_, _, _, _, _, _, _, _, _, rfl, fun _ _ _ => rfl⟩ (Dev.holdOnly_setLoop _ _)).trans
        (Dev.fltOnly_direct _ _).holdOnly
    · exact Dev.HoldOnly.trans ⟨_, _, _, _, _, _, _, _, _, rfl, fun _ _ _ => rfl⟩ (Dev.fltOnly_direct _ _).holdOnly
  · exact .refl d

/-- HOLDOVER: GOOD stays, the entry is counted, and FLT_EVENT.REF_LOSS is set. -/
theorem Dev.enterHoldover_locked_shows (h : d.loop = Loop.locked) : d.enterHoldover.get F.refStatusState = 3
    ∧ d.enterHoldover.on F.refStatusGood = true ∧ d.enterHoldover.get F.refCntHold = min (2 ^ 32 - 1) (d.get F.refCntHold + 1)
    ∧ d.enterHoldover.eventSet 1 = true := by
  have hstatus (f : Fld) (hf : f.addr = F.refStatusState.addr) (hslew : f.lo + f.w ≤ 4 ∨ 5 ≤ f.lo) :
      ((d.heldOver.bump F.refCntHold).direct Direct.refLoss).get f = (d.setLoop Loop.holdover).get f := by
    rw [(Dev.fltOnly_direct _ _).get f (by rw [hf]; decide), Dev.get_bump_other _ _ _ (by rw [hf]; decide),
      show d.heldOver.get f = (d.setLoop Loop.holdover).slewEnd.get f from Dev.get_congr rfl f, Dev.get_slewEnd_beside _ _ hslew]
  have hcount : d.heldOver.get F.refCntHold = d.get F.refCntHold := by
    rw [show d.heldOver.get F.refCntHold = (d.setLoop Loop.holdover).slewEnd.get F.refCntHold from Dev.get_congr rfl _,
      Dev.get, Dev.reg_slewEnd _ (by decide), ← Dev.get, Dev.get_setLoop_beside _ _ _ (by decide) (by decide)]
  rw [d.enterHoldover_locked h]
  refine ⟨(hstatus _ rfl (by decide)).trans (d.loop_setLoop _ (by decide)), ?_, ?_, ?_⟩
  · rw [Dev.on, hstatus F.refStatusGood rfl (by decide)]
    exact d.good_setLoop _
  · rw [(Dev.fltOnly_direct _ _).get _ (by decide), Dev.get_bump_same _ _ (by decide), hcount]
    rfl
  · rw [Dev.eventSet_direct _ _ (by decide)]
    exact Bool.or_true _

/-- In ACQUIRE the loss is an event alone. -/
theorem Dev.enterHoldover_acquire_shows (h : d.loop = Loop.acquire) (hnew : d.ref.fromHold = false) :
    d.enterHoldover.get F.refStatusState = 1 ∧ d.enterHoldover.eventSet 1 = true := by
  rw [d.enterHoldover_acquire h hnew]
  refine ⟨((Dev.fltOnly_direct _ _).get _ (by decide)).trans h, ?_⟩
  rw [Dev.eventSet_direct _ _ (by decide)]
  exact Bool.or_true _

/-! ### The reference is lost -/

/-- The instant at which the loss is known. -/
def Dev.lostAt : Dev :=
  match d.ref.lastEdge with
  | some t => d.reach (t + (d.get F.refLossN * d.std.a / d.std.b : Nat)).toNat
  | none => d

/-- Whether a requested re-anchor is decided. -/
def Dev.keepsAnchor : Bool := (d.ref.reanchor.map (·.requested)).getD false

/-- The front end searches, and a re-anchor of the loop's own is cancelled. -/
def Dev.searches (keep : Bool) : Dev :=
  let e := { d with ref := { d.ref with
    searching := true, lastEdge := none, found := 0, established := false, lineCnt := 0, offFrame := none,
    clean := 0, dirty := true, reanchor := if keep then d.ref.reanchor else none } }
  let e := if keep then e else e.put F.refStatusReanchorPend (if e.ref.waitSet.isSome then 1 else 0)
  if 10 ≤ e.code ∧ e.code ≤ 12 then (e.put F.refStatusRate 0).put F.refStatusGradeOk 0 else e

theorem Dev.referenceLost_eq (hrun : d.on F.refCtrlRun = true) (hfound : d.ref.searching = false) :
    d.referenceLost = (d.lostAt.searches d.keepsAnchor).enterHoldover := if_neg (by simp [hrun, hfound])

theorem Dev.lostAt_frame : d.lostAt.ref.reanchor = d.ref.reanchor ∧ d.lostAt.ref.fromHold = d.ref.fromHold ∧ d.lostAt.sys = d.sys
    ∧ ∀ a, tcuReg a = false → d.lostAt.reg a = d.reg a := by
  unfold Dev.lostAt
  split
  · next t _ =>
    obtain ⟨i, h, n, r, c, hreach, hregs, -⟩ := d.reach_frame (t + (d.get F.refLossN * d.std.a / d.std.b : Nat)).toNat
    rw [hreach]
    exact ⟨rfl, rfl, rfl, hregs⟩
  · exact ⟨rfl, rfl, rfl, fun _ _ => rfl⟩

/-- `e` shows the loop's state and every register but REF_STATUS as `d` does. -/
def Dev.StatusBeside (e : Dev) : Prop :=
  e.ref = d.ref ∧ e.sys = d.sys ∧ e.loop = d.loop ∧ ∀ a, a ≠ F.refStatusState.addr → e.reg a = d.reg a

variable {d} in
theorem Dev.StatusBeside.put {e : Dev} (h : d.StatusBeside e) (f : Fld) (v : Nat) (haddr : f.addr = F.refStatusState.addr)
    (hlo : 3 ≤ f.lo) : d.StatusBeside (e.put f v) := by
  obtain ⟨href, hsys, hloop, hreg⟩ := h
  exact ⟨href, hsys, (Dev.get_put_beside _ f F.refStatusState _ (.inl hlo)).trans hloop,
    fun a ha => (Dev.reg_put_other _ _ _ _ (by rw [haddr]; exact ha)).trans (hreg a ha)⟩

/-- Whatever the branch, REF_STATUS alone is written, and not its STATE. -/
theorem Dev.searches_frame (keep : Bool) : (d.searches keep).ref.searching = true ∧ (d.searches keep).ref.lastEdge = none
    ∧ (d.searches keep).ref.established = false ∧ (d.searches keep).ref.reanchor = (if keep then d.ref.reanchor else none)
    ∧ (d.searches keep).ref.fromHold = d.ref.fromHold ∧ (d.searches keep).sys = d.sys ∧ (d.searches keep).loop = d.loop
    ∧ ∀ a, a ≠ F.refStatusState.addr → (d.searches keep).reg a = d.reg a := by
  unfold Dev.searches
  extract_lets ref e1 e2
  have h2 : e1.StatusBeside e2 := by
    unfold e2
    split
    · exact ⟨rfl, rfl, rfl, fun _ _ => rfl⟩
    · exact Dev.StatusBeside.put ⟨rfl, rfl, rfl, fun _ _ => rfl⟩ F.refStatusReanchorPend _ rfl (by decide)
  have h3 : e1.StatusBeside (if 10 ≤ e2.code ∧ e2.code ≤ 12 then (e2.put F.refStatusRate 0).put F.refStatusGradeOk 0 else e2) := by
    split
    · exact (h2.put F.refStatusRate 0 rfl (by decide)).put F.refStatusGradeOk 0 rfl (by decide)
    · exact h2
  obtain ⟨href, hsys, hloop, hreg⟩ := h3
  exact ⟨congrArg RefS.searching href, congrArg RefS.lastEdge href, congrArg RefS.established href, congrArg RefS.reanchor href,
    (congrArg RefS.fromHold href :), hsys, hloop, hreg⟩

end

/-- A bit of FLT_EVENT that an event of the AON domain has set shows wherever the CORE domain stands. -/
theorem Dev.event_shows {d f e : Dev} {n : Nat} (hwake : f.PwrOnly e) (hcore : f.coreOff = d.coreOff) (hset : f.eventSet n = true) :
    if d.coreOff then e.flt.aonEvents.getLsbD n = true else (e.reg F.fltEventStateSplit.addr).getLsbD n = true := by
  have hreg := hwake.reg (a := F.fltEventStateSplit.addr) (by decide)
  have hflt := hwake.flt
  rw [Dev.eventSet, hcore] at hset
  rw [hreg, hflt]
  split
  · next h => rwa [if_pos h] at hset
  · next h => rwa [if_neg h] at hset

/-- What the loss of the reference leaves. -/
structure Dev.Lost (d e : Dev) : Prop where
  searching : e.ref.searching = true
  lastEdge : e.ref.lastEdge = none
  established : e.ref.established = false
  reanchor : e.ref.reanchor = if d.keepsAnchor then d.ref.reanchor else none
  anomalies : e.get F.refCntAnom = d.get F.refCntAnom
  core : e.coreOff = d.coreOff
  locked : d.loop = Loop.locked → e.get F.refStatusState = 3 ∧ e.on F.refStatusGood = true
    ∧ e.get F.refCntHold = min (2 ^ 32 - 1) (d.get F.refCntHold + 1) ∧ e.eventSet 1 = true
  acquire : d.loop = Loop.acquire → d.ref.fromHold = false → e.get F.refStatusState = 1 ∧ e.eventSet 1 = true

theorem Dev.referenceLost_shows {d : Dev} (hrun : d.on F.refCtrlRun = true) (hfound : d.ref.searching = false) :
    d.Lost d.referenceLost := by
  rw [d.referenceLost_eq hrun hfound]
  obtain ⟨hanchor, hfrom, hsys, hregs⟩ := d.lostAt_frame
  obtain ⟨hsearching, hlast, hestablished, hanchor', hfrom', hsys', hloop, hregs'⟩ := d.lostAt.searches_frame d.keepsAnchor
  have hreg (a : Nat) (htcu : tcuReg a = false) (ha : a ≠ F.refStatusState.addr) : (d.lostAt.searches d.keepsAnchor).reg a = d.reg a :=
    (hregs' a ha).trans (hregs a htcu)
  have hcore : (d.lostAt.searches d.keepsAnchor).coreOff = d.coreOff :=
    Dev.coreOff_congr (hreg _ (by decide) (by decide)) (hsys'.trans hsys)
  have hloop' : (d.lostAt.searches d.keepsAnchor).loop = d.loop := by
    rw [hloop, Dev.loop, Dev.loop, Dev.get, Dev.get, hregs _ (by decide)]
  have hold := (d.lostAt.searches d.keepsAnchor).holdOnly_enterHoldover
  obtain ⟨hs, hl, he, ha, -⟩ := hold.beside
  refine ⟨hs.trans hsearching, hl.trans hlast, he.trans hestablished, ?_, ?_, hold.coreOff.trans hcore, fun h => ?_, fun h hnew => ?_⟩
  · rw [ha, hanchor', hanchor]
  · rw [Dev.get, Dev.get, hold.reg (by decide) (by decide), hreg _ (by decide) (by decide)]
  · obtain ⟨hstate, hgood, hcount, hevent⟩ := Dev.enterHoldover_locked_shows _ (hloop'.trans h)
    refine ⟨hstate, hgood, ?_, hevent⟩
    rw [hcount, Dev.get, Dev.get, hreg _ (by decide) (by decide)]
  · exact Dev.enterHoldover_acquire_shows _ (hloop'.trans h) (hfrom'.trans (hfrom.trans hnew))

theorem referenceLost_leaves {s : State} (hcount : s.dev.time.counting = true) (hrun : s.dev.on F.refCtrlRun = true)
    (hfound : s.dev.ref.searching = false) : Leaves .referenceLost s fun e => ∃ f, s.dev.Lost f ∧ f.PwrOnly e := by
  refine leaves_effect (exec_referenceLost s) ?_
  rw [Dev.aonEvent_counting _ hcount]
  exact ⟨_, Dev.referenceLost_shows hrun hfound, Dev.pwrOnly_wakeOnFault _ _⟩

/-! ### A holdover lapses -/

theorem Dev.holdLapse_eq {d : Dev} {t : Int} (hloop : d.loop = Loop.holdover) (hold : d.ref.holdAt = some t) : d.holdLapse =
    ((d.reach (t + ((2000 * d.get F.refHoldLim + 1) * blockTk : Nat)).toNat).setLoop Loop.lapsed).direct Direct.holdLapse := by
  unfold Dev.holdLapse
  rw [hold]
  exact if_pos hloop

/-- HOLD_LAPSED: GOOD falls, FLT_EVENT.HOLD_LAPSE is set, and time goes on as it did. -/
theorem Dev.setLoop_lapsed_shows (d : Dev) : let e := (d.setLoop Loop.lapsed).direct Direct.holdLapse
    e.get F.refStatusState = 4 ∧ e.on F.refStatusGood = false ∧ e.eventSet 2 = true ∧ e.time = d.time ∧ e.coreOff = d.coreOff := by
  intro e
  have hflt : (d.setLoop Loop.lapsed).FltOnly e := Dev.fltOnly_direct _ _
  have hhold : d.HoldOnly e := (d.holdOnly_setLoop _).trans hflt.holdOnly
  refine ⟨(hflt.get _ (by decide)).trans (d.loop_setLoop _ (by decide)), ?_, ?_, ?_, hhold.coreOff⟩
  · rw [Dev.on, hflt.get _ (by decide)]
    exact d.good_setLoop _
  · rw [Dev.eventSet_direct _ _ (by decide)]
    exact Bool.or_true _
  · exact (hflt.regsOnly []).refOnly.beside.1.trans (d.regsOnly_setLoop _).refOnly.beside.1

theorem holdLapse_leaves {s : State} (hcount : s.dev.time.counting = true) {t : Int} (hloop : s.dev.loop = Loop.holdover)
    (hold : s.dev.ref.holdAt = some t) : Leaves .holdLapse s fun e =>
      e.get F.refStatusState = 4 ∧ e.on F.refStatusGood = false
      ∧ (if s.dev.coreOff then e.flt.aonEvents.getLsbD 2 = true else (e.reg F.fltEventStateSplit.addr).getLsbD 2 = true)
      ∧ e.time.incr = s.dev.time.incr
      ∧ e.time.ht = BitVec.ofNat 64 (max s.dev.now (t + ((2000 * s.dev.get F.refHoldLim + 1) * blockTk : Nat)).toNat) := by
  refine leaves_effect (exec_holdLapse s) ?_
  rw [Dev.aonEvent_counting _ hcount, Dev.holdLapse_eq hloop hold]
  generalize (t + ((2000 * s.dev.get F.refHoldLim + 1) * blockTk : Nat)).toNat = lapse
  obtain ⟨i, h, n, r, c, hreach, hregs, hincr⟩ := s.dev.reach_frame lapse
  have hsteady : i = s.dev.time.incr := hincr (by rw [Dev.steers, hloop]; rfl)
  have hcore : (s.dev.reach lapse).coreOff = s.dev.coreOff :=
    Dev.coreOff_congr (s.dev.reach_reg_of_tcu _ (by decide)) (by rw [hreach])
  obtain ⟨hstate, hgood, hevent, htime, hcore'⟩ := (s.dev.reach lapse).setLoop_lapsed_shows
  have hwake := Dev.pwrOnly_wakeOnFault (((s.dev.reach lapse).setLoop Loop.lapsed).direct Direct.holdLapse) s.dev
  refine ⟨(hwake.get _ (by decide)).trans hstate, ?_, Dev.event_shows hwake (hcore'.trans hcore) hevent, ?_, ?_⟩
  · rw [Dev.on, hwake.get _ (by decide)]
    exact hgood
  · rw [hwake.beside.1, htime, hreach]
    exact hsteady
  · rw [hwake.beside.1, htime, hreach]

end Sys2Proof.Machine
end

section
/-! SUPPORT. Edges of the selected reference (R60, R61): the measurement of an accepted one, and the anomaly of another; and the settlement
of O12. -/

namespace Sys2Proof.Machine

theorem exec_alignmentEdge (x : RefEdge) (s : State) :
    exec (.alignmentEdge x) s = s.effect fun d => d.aonEvent fun d => d.alignmentEdge x := rfl

/-! ### What the loop's answer to an edge leaves alone -/

/-- The registers of the phase and of the anomalies. -/
def edgeRegs : List Nat := [F.refPhase.addr, F.refCntAnom.addr]

/-- `e` shows the last accepted edge, the phase and the count of anomalies as `d` does. -/
structure Dev.EdgeKept (d e : Dev) : Prop where
  lastEdge : e.ref.lastEdge = d.ref.lastEdge
  reg : ∀ a ∈ edgeRegs, e.reg a = d.reg a

section
variable {d e : Dev}

theorem Dev.EdgeKept.refl (d : Dev) : d.EdgeKept d := ⟨rfl, fun _ _ => rfl⟩
theorem Dev.EdgeKept.trans {a b c : Dev} (h : a.EdgeKept b) (h' : b.EdgeKept c) : a.EdgeKept c :=
  ⟨h'.lastEdge.trans h.lastEdge, fun x hx => (h'.reg x hx).trans (h.reg x hx)⟩

theorem Dev.EdgeKept.branch {e' : Dev} {c : Prop} [Decidable c] (h : d.EdgeKept e) (h' : d.EdgeKept e') :
    d.EdgeKept (if c then e else e') := by
  split
  · exact h
  · exact h'

/-- A change that begins from other state of the front end. -/
theorem Dev.EdgeKept.after {c : Dev} (h : d.EdgeKept e) (hlast : d.ref.lastEdge = c.ref.lastEdge) (hregs : d.regs = c.regs) : c.EdgeKept e :=
  ⟨h.lastEdge.trans hlast, fun a ha => (h.reg a ha).trans (Dev.reg_congr hregs a)⟩

theorem Dev.EdgeKept.get (h : d.EdgeKept e) (f : Fld) (hf : f.addr ∈ edgeRegs) : e.get f = d.get f := by rw [Dev.get, Dev.get, h.reg _ hf]

theorem Dev.edgeKept_put (d : Dev) (f : Fld) (v : Nat) (h : f.addr ∉ edgeRegs) : d.EdgeKept (d.put f v) :=
  ⟨rfl, fun _ ha => Dev.reg_put_other _ _ _ _ fun e => h (e ▸ ha)⟩

theorem Dev.LabelOnly.edgeKept (h : d.LabelOnly e) : d.EdgeKept e := by
  have hapart : ∀ a ∈ edgeRegs, a ∉ labelRegs := by decide
  exact ⟨h.beside.2.1, fun a ha => h.reg (hapart a ha)⟩

theorem Dev.HoldOnly.edgeKept (h : d.HoldOnly e) : d.EdgeKept e := by
  have hapart : ∀ a ∈ edgeRegs, a ∉ holdRegs ∧ recReg a = false := by decide
  exact ⟨h.beside.2.1, fun a ha => h.reg (hapart a ha).1 (hapart a ha).2⟩

end

section
variable (d : Dev)

theorem Dev.edgeKept_setLoop (s : Nat) : d.EdgeKept (d.setLoop s) := (d.holdOnly_setLoop s).edgeKept

theorem Dev.edgeKept_decideSet (v : Nat) : d.EdgeKept (d.decideSet v) := by
  unfold Dev.decideSet
  extract_lets b delta ref
  exact (Dev.edgeKept_put _ F.refStatusReanchorPend 1 (by decide)).after rfl rfl

theorem Dev.edgeKept_setIncr (v : BitVec 40) : d.EdgeKept (d.setIncr v) := by
  unfold Dev.setIncr
  extract_lets time e
  exact .branch ⟨rfl, fun _ _ => rfl⟩ ⟨rfl, fun _ _ => rfl⟩

theorem Dev.edgeKept_enterLocked (err : Int) : d.EdgeKept (d.enterLocked err) := by
  unfold Dev.enterLocked
  extract_lets hold ref e1 e2
  have h1 : d.EdgeKept e1 := (Dev.edgeKept_setLoop _ _).after rfl rfl
  have h2 : d.EdgeKept e2 := h1.trans (e1.edgeKept_setIncr _)
  split
  · exact h2.trans (e2.edgeKept_decideSet _)
  · exact h2.trans (e2.labelOnly_actOnError _ _).edgeKept

theorem Dev.edgeKept_detectRate (x : RefEdge) : d.EdgeKept (d.detectRate x) := by
  unfold Dev.detectRate
  split
  · exact (Dev.edgeKept_put _ F.refStatusRate _ (by decide)).after rfl rfl
  · exact .refl d

/-- An event of class 0, which may move the loop. -/
theorem Dev.holdOnly_faultRefAnom (w : Word) : d.HoldOnly (d.fault Cls.refAnom w) := by
  have hgo (e : Dev) (wc : Nat) : e.HoldOnly (e.goLasting Cls.refAnom wc w) := by
    unfold Dev.goLasting
    extract_lets e1 e2
    have h2 : e.FltOnly e2 := ((e.fltOnly_setLasting _ (by decide) _).trans (Dev.fltOnly_fltEvent _ _)).trans (Dev.fltOnly_logPut _ _)
    rw [if_pos (show Cls.refAnom = 0 from rfl)]
    exact (h2.holdOnly.trans e2.holdOnly_enterHoldover).trans (Dev.fltOnly_dropHealth _).holdOnly
  unfold Dev.fault
  extract_lets b h flt e1 wc e2
  have h1 : d.FltOnly e1 := (d.fltOnly_flt _).trans (Dev.fltOnly_bump _ _ (by decide))
  have h2 : d.HoldOnly e2 := ((h1.trans (Dev.fltOnly_put _ _ _ (by decide))).trans (Dev.fltOnly_logPut _ _)).holdOnly
  split
  · exact h2.trans (hgo e2 wc)
  · exact h2

/-! ### The measurement of an accepted edge -/

/-- Once the phase is measured, what the loop does keeps it. -/
theorem Dev.measure_keeps (x : RefEdge) (m : Int) : (d.putInt F.refPhase (d.phaseError x m)).EdgeKept (d.measure x m) := by
  unfold Dev.measure
  extract_lets err e1 e2 e3 inRange ref e4 ref' e5
  have h1 : (d.putInt F.refPhase err).EdgeKept e1 := (Dev.edgeKept_put _ F.refFreq _ (by decide)).trans (Dev.edgeKept_detectRate _ x)
  have h2 : e1.EdgeKept e2 := .branch (e1.edgeKept_put F.refStatusGradeOk _ (by decide)) (.refl e1)
  have h3 : e2.EdgeKept e3 := .branch (e2.edgeKept_put F.refAesZofs _ (by decide)) (.refl e2)
  have h4 : e3.EdgeKept e4 := .branch ((Dev.edgeKept_put _ F.refCntRange _ (by decide)).after rfl rfl) (.refl e3)
  have h5 : e4.EdgeKept e5 := by
    unfold e5
    split
    · exact .branch ((Dev.labelOnly_label _ _ _ _).edgeKept.after rfl rfl) (.refl e4)
    · exact .refl e4
  refine ((((h1.trans h2).trans h3).trans h4).trans h5).trans ?_
  exact .branch (.refl e5) (.branch (e5.labelOnly_actOnError _ _).edgeKept (.branch (e5.edgeKept_enterLocked _) (.refl e5)))

end

theorem secondTk_pos : 0 < secondTk := by decide

/-- A signed register shows a value of its range. -/
theorem signed_wrapped {v : Int} (hlow : -(2 ^ 31) ≤ v) (hhigh : v < 2 ^ 31) : signed 32 ((v % (2 ^ 32 : Nat)).toNat % 2 ^ 32) = v := by
  have hmod : (v % (2 ^ 32 : Nat)).toNat % 2 ^ 32 = (v % (2 ^ 32 : Nat)).toNat := by omega
  unfold signed
  rw [hmod, hmod]
  split <;> omega

section
variable {d : Dev} (hcode : d.get F.refCtrlStd = 13)
include hcode

/-- PPS_IN as reference has one edge per second. -/
theorem Dev.spacing_pps (x : RefEdge) : d.spacing x = (secondTk, 1) := by
  unfold Dev.spacing
  rw [Dev.code, hcode]
  rfl

theorem Dev.edgesPerFrame_pps : d.edgesPerFrame = 1 := by
  unfold Dev.edgesPerFrame
  rw [Dev.code, hcode]
  rfl

/-- The phase error: grid less instant in (−S/2, S/2]. -/
theorem Dev.phaseError_pps (x : RefEdge) (m : Int) : ∃ k : Int, d.phaseError x m = k * secondTk - m
    ∧ -(secondTk : Int) < 2 * d.phaseError x m ∧ 2 * d.phaseError x m ≤ secondTk := by
  have hgrid (g : Int) : ∃ k : Int, wrapHalf (g * secondTk - m) secondTk = k * secondTk - m
      ∧ -(secondTk : Int) < 2 * wrapHalf (g * secondTk - m) secondTk ∧ 2 * wrapHalf (g * secondTk - m) secondTk ≤ secondTk := by
    obtain ⟨k, hk⟩ := wrapHalf_congr (g * secondTk - m) secondTk
    exact ⟨g - k, by rw [hk, Int.sub_mul]; ring, wrapHalf_range _ secondTk_pos⟩
  have herr : d.phaseError x m = wrapHalf ((if d.ref.established then (d.ref.lineCnt : Int) else 0) * secondTk - m) secondTk := by
    unfold Dev.phaseError
    rw [Dev.spacing_pps hcode, Dev.edgesPerFrame_pps hcode]
    by_cases hest : d.ref.established = true <;> simp [hest, roundDiv_one]
  rw [herr]
  exact hgrid _

/-- REF_PHASE shows the phase error of the edge that was measured. -/
theorem Dev.phase_measure (x : RefEdge) (m : Int) : (d.measure x m).phase = d.phaseError x m := by
  obtain ⟨-, -, hlow, hhigh⟩ := Dev.phaseError_pps hcode x m
  have hbound : -(2 ^ 31) ≤ d.phaseError x m ∧ d.phaseError x m < 2 ^ 31 := by
    rw [secondTk] at hlow hhigh
    omega
  rw [Dev.phase, (d.measure_keeps x m).get F.refPhase (by decide), Dev.putInt, Dev.get_put_same _ _ _ (by decide)]
  exact signed_wrapped hbound.1 hbound.2

end

/-! ### An edge while the reference is found -/

/-- An edge while the reference is found: accepted within the window, an anomaly outside it or where it is bad, and measured where neither
it nor its unit is anomalous. -/
def Dev.foundEdge (d : Dev) (x : RefEdge) (unit : Int) (within : Bool) (steps : Nat) : Dev :=
  let anom := !within || x.bad
  let e := if within then d.acceptEdge x steps else d
  let e := if anom then e.anomaly unit else if e.code < 10 then e.put F.refStatusFlywheel 0 else e
  let e := if within && x.frame then e.endPeriod else e
  if anom || (e.ref.unitAnom && decide (e.ref.unitAt = unit)) then e else e.measure x ((x.at' : Int) - e.refDly)

section
variable {d : Dev} {x : RefEdge} {last : Int}

/-- Whole spacings since the last edge, and whether the edge came within the window around its prediction (R60). -/
def Dev.edgeSteps (d : Dev) (x : RefEdge) (last : Int) : Nat :=
  max 1 (roundDiv (((x.at' : Int) - last) * (d.spacing x).2) (d.spacing x).1).toNat
def Dev.edgeWithin (d : Dev) (x : RefEdge) (last : Int) : Bool :=
  decide (4 * (((x.at' : Int) - last) * (d.spacing x).2 - (d.edgeSteps x last * (d.spacing x).1 : Nat)).natAbs
    ≤ min (d.get F.refWin * (d.spacing x).2 * 4) (d.spacing x).1) && !x.absent

theorem Dev.alignmentEdge_found (hrun : (d.reach x.at').on F.refCtrlRun = true) (hfound : (d.reach x.at').ref.searching = false)
    (hlast : (d.reach x.at').ref.lastEdge = some last) : ∃ unit, d.alignmentEdge x =
      (d.reach x.at').foundEdge x unit ((d.reach x.at').edgeWithin x last) ((d.reach x.at').edgeSteps x last) := by
  unfold Dev.alignmentEdge Dev.edgeWithin Dev.edgeSteps
  generalize d.reach x.at' = d1 at hrun hfound hlast
  rw [if_neg (by simp [hrun]), hlast]
  exact ⟨_, if_neg (by simp [hfound])⟩

end

/-- Counting an edge changes the counters of lines and frames alone. -/
theorem Dev.countEdge_frame (d : Dev) (steps : Nat) (mark : Bool) : ∃ c, d.countEdge steps mark = { d with ref := c }
    ∧ c.lastEdge = d.ref.lastEdge ∧ c.unitAnom = d.ref.unitAnom := by
  unfold Dev.countEdge
  extract_lets k pos ref e
  split
  · exact ⟨_, rfl, rfl, rfl⟩
  split
  · exact ⟨_, rfl, rfl, rfl⟩
  split
  · exact ⟨_, rfl, rfl, rfl⟩
  split
  · exact ⟨_, rfl, rfl, rfl⟩
  · exact ⟨_, rfl, rfl, rfl⟩

section
variable {d : Dev} {x : RefEdge}

/-- An accepted edge, and the end of its alignment period. -/
def Dev.accepted (d : Dev) (x : RefEdge) (steps : Nat) : Dev :=
  if x.frame then (d.acceptEdge x steps).endPeriod else d.acceptEdge x steps

theorem Dev.acceptEdge_frame (d : Dev) (x : RefEdge) (steps : Nat) : ∃ c, d.acceptEdge x steps = { d with ref := c }
    ∧ c.lastEdge = some (x.at' : Int) ∧ c.unitAnom = d.ref.unitAnom := by
  unfold Dev.acceptEdge
  extract_lets unit ref
  obtain ⟨c, hc, hlast, hclean⟩ := Dev.countEdge_frame { d with ref := { ref with lastEdge := some (x.at' : Int), unitAt := unit } }
    steps x.frame
  exact ⟨c, hc, hlast, hclean⟩

theorem Dev.accepted_frame (d : Dev) (x : RefEdge) (steps : Nat) : ∃ c, d.accepted x steps = { d with ref := c }
    ∧ c.lastEdge = some (x.at' : Int) ∧ c.unitAnom = d.ref.unitAnom := by
  obtain ⟨c, hc, hlast, hclean⟩ := d.acceptEdge_frame x steps
  unfold Dev.accepted Dev.endPeriod
  rw [hc]
  split
  · exact ⟨_, rfl, hlast, hclean⟩
  · exact ⟨c, rfl, hlast, hclean⟩

/-- A good edge within the window of a clean unit is measured. -/
theorem Dev.foundEdge_measured (hcode : 10 ≤ d.code) (hclean : d.ref.unitAnom = false) (hgood : x.bad = false) (unit : Int) (steps : Nat) :
    d.foundEdge x unit true steps = (d.accepted x steps).measure x ((x.at' : Int) - d.refDly) := by
  obtain ⟨c, hc, -, hunit⟩ := d.accepted_frame x steps
  have hcode' : ¬ (d.acceptEdge x steps).code < 10 := by
    obtain ⟨c', hc', -⟩ := d.acceptEdge_frame x steps
    rw [hc']
    exact Nat.not_lt.2 hcode
  unfold Dev.foundEdge
  extract_lets anom e1 e2 e3
  have h3 : e3 = d.accepted x steps := by
    simp [e3, e2, e1, anom, hgood, hcode', Dev.accepted]
  have hmeasure : ¬ (anom || (e3.ref.unitAnom && decide (e3.ref.unitAt = unit))) = true := by
    rw [h3, hc]
    simp [anom, hgood, hunit, hclean]
  rw [if_neg hmeasure, h3, hc]
  rfl

/-- An edge outside the window, or absent, is an anomaly alone. -/
theorem Dev.foundEdge_missed (d : Dev) (x : RefEdge) (unit : Int) (steps : Nat) : d.foundEdge x unit false steps = d.anomaly unit := rfl

/-- An anomaly is counted, once per unit. -/
theorem Dev.anomaly_shows (hcode : 10 ≤ d.code) (hclean : d.ref.unitAnom = false) (unit : Int) :
    (d.anomaly unit).ref.lastEdge = d.ref.lastEdge ∧ (d.anomaly unit).get F.refPhase = d.get F.refPhase
      ∧ (d.anomaly unit).get F.refCntAnom = min (2 ^ 32 - 1) (d.get F.refCntAnom + 1) := by
  have hcounted : ∃ c w, d.anomaly unit = (({ d with ref := c } : Dev).bump F.refCntAnom).fault Cls.refAnom w
      ∧ c.lastEdge = d.ref.lastEdge := by
    unfold Dev.anomaly
    extract_lets ref e1 e2
    have h2 : e2 = e1 := if_neg (Nat.not_lt.2 hcode)
    rw [h2, if_neg (by simp [e1, ref, hclean])]
    exact ⟨_, _, rfl, (congrArg (fun e : Dev => e.ref.lastEdge) h2 :)⟩
  obtain ⟨c, w, hc, hlast⟩ := hcounted
  have hkept := (Dev.holdOnly_faultRefAnom (({ d with ref := c } : Dev).bump F.refCntAnom) w).edgeKept
  rw [hc]
  refine ⟨hkept.lastEdge.trans hlast, (hkept.get _ (by decide)).trans ?_, (hkept.get _ (by decide)).trans ?_⟩
  · exact (Dev.get_bump_other _ F.refCntAnom _ (by decide)).trans (Dev.get_congr rfl _)
  · rw [Dev.get_bump_same _ _ (by decide), show ({ d with ref := c } : Dev).get F.refCntAnom = d.get F.refCntAnom from Dev.get_congr rfl _]
    rfl

end

/-! ### PPS_IN as reference -/

/-- PPS_IN is the reference and has been found, its last edge stands, and no anomaly is under way. -/
structure Dev.PpsRef (d : Dev) (last : Int) : Prop where
  run : d.on F.refCtrlRun = true
  code : d.get F.refCtrlStd = 13
  found : d.ref.searching = false
  clean : d.ref.unitAnom = false
  lastEdge : d.ref.lastEdge = some last

/-- Whole seconds since the last edge, and whether the edge came within the window around its prediction. -/
def ppsSteps (gap : Int) : Nat := max 1 (roundDiv gap secondTk).toNat
def Dev.ppsWithin (d : Dev) (x : RefEdge) (last : Int) : Prop :=
  4 * (((x.at' : Int) - last) - (ppsSteps ((x.at' : Int) - last) * secondTk : Nat)).natAbs ≤ min (4 * d.get F.refWin) secondTk
    ∧ x.absent = false

section
variable {d : Dev} {x : RefEdge} {last : Int}

theorem Dev.edgeWithin_pps (hcode : d.get F.refCtrlStd = 13) : d.edgeWithin x last = true ↔ d.ppsWithin x last := by
  rw [Dev.ppsWithin, Dev.edgeWithin, Dev.edgeSteps, Dev.spacing_pps hcode, ppsSteps, Nat.cast_one, Int.mul_one, Nat.mul_one,
    Nat.mul_comm (d.get F.refWin), Bool.and_eq_true, decide_eq_true_eq, Bool.not_eq_true']

/-- What an edge of PPS_IN does, by its window. -/
theorem Dev.PpsRef.alignmentEdge (h : d.PpsRef last) :
    (d.ppsWithin x last → x.bad = false → (d.alignmentEdge x).ref.lastEdge = some (x.at' : Int)
      ∧ (∃ k : Int, (d.alignmentEdge x).phase = k * secondTk - ((x.at' : Int) - d.refDly)
        ∧ -(secondTk : Int) < 2 * (d.alignmentEdge x).phase ∧ 2 * (d.alignmentEdge x).phase ≤ secondTk)
      ∧ (d.alignmentEdge x).get F.refCntAnom = d.get F.refCntAnom)
    ∧ (¬ d.ppsWithin x last → (d.alignmentEdge x).ref.lastEdge = some last
      ∧ (d.alignmentEdge x).get F.refPhase = d.get F.refPhase
      ∧ (d.alignmentEdge x).get F.refCntAnom = min (2 ^ 32 - 1) (d.get F.refCntAnom + 1)) := by
  obtain ⟨hrun, hcode, hfound, hclean, hlast⟩ := h
  have hget (f : Fld) (hf : tcuReg f.addr = false) : (d.reach x.at').get f = d.get f := d.reach_get _ f hf
  have href : (d.reach x.at').ref.searching = d.ref.searching ∧ (d.reach x.at').ref.lastEdge = d.ref.lastEdge
      ∧ (d.reach x.at').ref.unitAnom = d.ref.unitAnom ∧ (d.reach x.at').refDly = d.refDly := by
    obtain ⟨i, hist, n, r, c, hreach, -⟩ := d.reach_frame x.at'
    rw [hreach]
    exact ⟨rfl, rfl, rfl, rfl⟩
  obtain ⟨hfound', hlast', hclean', hdly⟩ := href
  obtain ⟨unit, hedge⟩ := Dev.alignmentEdge_found (d := d) (x := x) (last := last)
    (by rw [Dev.on, hget _ (by decide)]; exact hrun) (hfound'.trans hfound) (hlast'.trans hlast)
  have hcode' := (hget F.refCtrlStd (by decide)).trans hcode
  have hten : 10 ≤ (d.reach x.at').code := by rw [Dev.code, hcode']; decide
  have hwithin : (d.reach x.at').edgeWithin x last = true ↔ d.ppsWithin x last := by
    rw [Dev.edgeWithin_pps hcode', Dev.ppsWithin, Dev.ppsWithin, hget _ (by decide)]
  rw [hedge]
  refine ⟨fun hin hgood => ?_, fun hout => ?_⟩
  · rw [hwithin.2 hin, Dev.foundEdge_measured hten (hclean'.trans hclean) hgood, hdly]
    obtain ⟨c, hc, hlast'', -⟩ := (d.reach x.at').accepted_frame x ((d.reach x.at').edgeSteps x last)
    have hmeasured := Dev.measure_keeps ((d.reach x.at').accepted x ((d.reach x.at').edgeSteps x last)) x ((x.at' : Int) - d.refDly)
    have hshows (f : Fld) : ((d.reach x.at').accepted x ((d.reach x.at').edgeSteps x last)).get f = (d.reach x.at').get f := by
      rw [hc]
      rfl
    have hcode'' := (hshows F.refCtrlStd).trans hcode'
    refine ⟨hmeasured.lastEdge.trans ?_, ?_, (hmeasured.get _ (by decide)).trans ?_⟩
    · show ((d.reach x.at').accepted x _).ref.lastEdge = _
      rw [hc]
      exact hlast''
    · rw [Dev.phase_measure hcode'']
      exact Dev.phaseError_pps hcode'' _ _
    · rw [Dev.putInt, Dev.get_put_other _ _ _ _ (by decide), hshows, hget _ (by decide)]
  · obtain ⟨hlast'', hphase, hcount⟩ := Dev.anomaly_shows hten (hclean'.trans hclean) unit
    rw [Bool.eq_false_iff.2 (fun hin => hout (hwithin.1 hin)), Dev.foundEdge_missed]
    refine ⟨hlast''.trans (hlast'.trans hlast), hphase.trans (hget _ (by decide)), ?_⟩
    rw [hcount, hget _ (by decide)]

theorem alignmentEdge_leaves {s : State} (hcount : s.dev.time.counting = true) {P : Dev → Prop}
    (h : ∀ e, (s.dev.alignmentEdge x).PwrOnly e → P e) : Leaves (.alignmentEdge x) s P := by
  refine leaves_effect (exec_alignmentEdge x s) ?_
  rw [Dev.aonEvent_counting _ hcount]
  exact h _ (Dev.pwrOnly_wakeOnFault _ _)

end

/-- Settles O12: the loss and the lapse from what they change in the loop, and an edge of PPS_IN by its window. -/
theorem referenceLossAndAlignment : Obligations.ReferenceLossAndAlignment := by
  unfold Obligations.ReferenceLossAndAlignment
  refine ⟨fun s hcount => ?_, fun s x last hcount hrun hcode hfound hclean hlast => ?_⟩
  · intro d event
    refine ⟨fun hrun hfound => ?_, fun t hloop hold => holdLapse_leaves hcount hloop hold⟩
    obtain ⟨t, hexec, hpending, f, hlost, hwake⟩ := referenceLost_leaves hcount hrun hfound
    have href := hwake.beside.2
    have hget (g : Fld) (hg : pwrReg g.addr = false) : t.dev.get g = f.get g := hwake.get g hg
    refine ⟨t, hexec, hpending, ?_, ?_, ?_, (hget _ (by decide)).trans hlost.anomalies, fun r hr => ?_, fun hloop => ?_, fun hloop hnew => ?_⟩
    · rw [href, hlost.searching]
    · rw [href, hlost.lastEdge]
    · rw [href, hlost.established]
    · rw [href, hlost.reanchor, Dev.keepsAnchor, hr]
      rfl
    · obtain ⟨hstate, hgood, hentries, hevent⟩ := hlost.locked hloop
      refine ⟨(hget _ (by decide)).trans hstate, ?_, (hget _ (by decide)).trans hentries, Dev.event_shows hwake hlost.core hevent⟩
      rw [Dev.on, hget _ (by decide)]
      exact hgood
    · obtain ⟨hstate, hevent⟩ := hlost.acquire hloop hnew
      exact ⟨(hget _ (by decide)).trans hstate, Dev.event_shows hwake hlost.core hevent⟩
  · intro d gap steps off within
    obtain ⟨hmeasured, hmissed⟩ := Dev.PpsRef.alignmentEdge (x := x) (d := d) ⟨hrun, hcode, hfound, hclean, hlast⟩
    refine ⟨fun hin hgood => alignmentEdge_leaves hcount fun e hwake => ?_, fun hout => alignmentEdge_leaves hcount fun e hwake => ?_⟩
    · obtain ⟨hedge, hphase, hcounted⟩ := hmeasured hin hgood
      rw [hwake.beside.2, Dev.phase, hwake.get _ (by decide), hwake.get _ (by decide)]
      exact ⟨hedge, hphase, hcounted⟩
    · obtain ⟨hedge, hphase, hcounted⟩ := hmissed hout
      rw [hwake.beside.2, hwake.get _ (by decide), hwake.get _ (by decide)]
      exact ⟨hedge, hphase, hcounted⟩

end Sys2Proof.Machine
end

section
/-! SUPPORT. The strike path (R158 to R161): what becomes of the oldest entry of its FIFO, what the window of a sample leaves, and the onset
that binds a free voice. -/

namespace Sys2Proof.Machine

theorem exec_strikeEntryTake (s : State) : exec .strikeEntryTake s = s.effect fun d => if d.coreOn then d.strikeTake else d := rfl
theorem exec_strikeWindow (s : State) : exec .strikeWindow s = s.effect fun d => if d.coreOn then d.strikeWindow else d := rfl

/-! ### What the outcome of a strike changes (R224, R234) -/

/-- `e` is `d` but for the host command port and its registers. -/
def Dev.HcpOnly (d e : Dev) : Prop :=
  ∃ r h, e = { d with regs := r, hcp := h } ∧ ∀ b, hcpReg b = false → Tab.get regReset r b = d.reg b

section
variable {d e : Dev}

theorem Dev.HcpOnly.refl (d : Dev) : d.HcpOnly d := ⟨d.regs, d.hcp, rfl, fun _ _ => rfl⟩

theorem Dev.HcpOnly.trans {a b c : Dev} (h : a.HcpOnly b) (h' : b.HcpOnly c) : a.HcpOnly c := by
  obtain ⟨r, x, rfl, hr⟩ := h
  obtain ⟨r', x', rfl, hr'⟩ := h'
  exact ⟨r', x', rfl, fun b hb => (hr' b hb).trans (hr b hb)⟩

theorem Dev.HcpOnly.put (h : d.HcpOnly e) (f : Fld) (v : Nat) (hf : hcpReg f.addr = true) : d.HcpOnly (e.put f v) :=
  h.trans ⟨_, e.hcp, rfl, fun _ hb => e.reg_put_hcp f v hb hf⟩

theorem Dev.HcpOnly.get (h : d.HcpOnly e) (f : Fld) (hf : hcpReg f.addr = false) : e.get f = d.get f := by
  obtain ⟨r, x, rfl, hr⟩ := h
  exact congrArg (fun w => bitsOf w f.lo f.w) (hr f.addr hf)

theorem Dev.HcpOnly.beside (h : d.HcpOnly e) : e.time = d.time ∧ e.swm = d.swm ∧ e.alc = d.alc := by
  obtain ⟨r, x, rfl, -⟩ := h
  exact ⟨rfl, rfl, rfl⟩

end

section
variable (d : Dev)

theorem Dev.hcpOnly_setHcp (f : HcpS → HcpS) : d.HcpOnly (d.setHcp f) := ⟨d.regs, f d.hcp, rfl, fun _ _ => rfl⟩

theorem Dev.hcpOnly_postFail (st : Status) (addr : Option Nat) (opc tag : Nat) : d.HcpOnly (d.postFail st addr opc tag) := by
  unfold Dev.postFail
  extract_lets cmd noted shown counted
  have hnoted : d.HcpOnly noted := by
    cases addr with
    | none => exact .refl d
    | some a => exact (HcpOnly.refl d).put F.hcpPerrAddr a (by decide)
  have hshown : d.HcpOnly shown :=
    ((((hnoted.put F.hcpPerrInfoStatus _ (by decide)).put F.hcpPerrInfoOpc _ (by decide)).put F.hcpPerrInfoTag _ (by decide)).put
      F.hcpPerrInfoCmd _ (by decide)).put F.hcpPerrInfoValid _ (by decide)
  have hcounted : d.HcpOnly counted := (hshown.put F.hcpCntPosterr _ (by decide)).put F.hcpAttnCauseEvents _ (by decide)
  split
  · exact hcounted
  · exact hcounted.trans (counted.hcpOnly_setHcp _)

theorem Dev.hcpOnly_complete (opc tag : Nat) (posted : Bool) (st : Status) (flags : Nat) (val0 : Word) (val1 : Word64) :
    d.HcpOnly (d.complete opc tag posted st flags val0 val1) := by
  have hfree : d.HcpOnly (d.freeTag tag) := d.hcpOnly_setHcp _
  unfold Dev.complete
  split
  · exact .refl d
  · split
    · dsimp only
      split
      · exact hfree.trans (Dev.hcpOnly_postFail _ _ _ _ _)
      · exact hfree
    · exact d.hcpOnly_setHcp _

theorem Dev.hcpOnly_trigOutcome (src tag : Nat) (posted : Bool) (st : Status) (onset : Word64) :
    d.HcpOnly (d.trigOutcome src tag posted st onset) := by
  unfold Dev.trigOutcome
  split
  · exact d.hcpOnly_complete _ _ _ _ _ _ _
  · exact .refl d

end

/-! ### The oldest entry is taken (R159, R161) -/

section
variable {d e : Dev} {x : Stamp} {rest : List Stamp}

/-- The nibble of ALC_STK_MAPn for a source. -/
def Dev.stkNibble (d : Dev) (src : Nat) : Nat :=
  d.get (if src < 8 then F.alcStkMap0 else if src < 16 then F.alcStkMap1 else F.alcStkMap2) / 16 ^ (src % 8) % 16

theorem Dev.stkMap_eq (d : Dev) (src : Nat) : d.stkMap src = (d.stkNibble src % 8, decide (8 ≤ d.stkNibble src)) := by
  simp only [Dev.stkMap, Dev.stkNibble, apply_ite d.get]

theorem Dev.strikeActive_iff : d.strikeActive = true ↔ d.on F.alcStkCtrlEn = true ∧ d.feature Feat.strike = true :=
  Bool.and_eq_true_iff

/-- The strike FIFO holds what is behind the entry taken. -/
def Dev.strikeLeft (d : Dev) (rest : List Stamp) : Dev := { d with time := { d.time with strikeFifo := rest } }

/-- The effective onset of an entry: that of R159, or, where its window has opened, in the next one (R161). -/
def Dev.strikeWaiting (d : Dev) (x : Stamp) : Strike :=
  let late := decide (d.dueSample (d.stkOnset x.ts) ≤ d.alc.window)
  ⟨x.src, d.stkNibble x.src % 8, x.ts, if late then (d.alc.window + 1) * d.period else d.stkOnset x.ts, late, x.tag, x.posted⟩

/-- An entry is dropped as unmapped or as stale, or it waits for its window. -/
theorem Dev.strikeTake_cons (hfifo : d.time.strikeFifo = x :: rest) : d.strikeTake =
    if d.stkNibble x.src < 8 ∨ ¬ d.strikeActive = true then
      ((d.strikeLeft rest).bump F.alcStkCntUnmapped).trigOutcome x.src x.tag x.posted .estate (BitVec.ofNat 64 (d.strikeWaiting x).onset)
    else if x.ts + secondTk < d.now then
      ((d.strikeLeft rest).draw.2.bump F.alcStkCntStale).trigOutcome x.src x.tag x.posted (freeStatus (Config.unstated d.fresh))
        (BitVec.ofNat 64 (d.strikeWaiting x).onset)
    else { d.strikeLeft rest with alc := { d.alc with strikes := d.alc.strikes ++ [d.strikeWaiting x] } } := by
  have hdrops : (!(d.stkMap x.src).2 || !d.strikeActive) = true ↔ d.stkNibble x.src < 8 ∨ ¬ d.strikeActive = true := by
    rw [d.stkMap_eq]
    simp
  have hslot : (d.stkMap x.src).1 = d.stkNibble x.src % 8 := congrArg Prod.fst (d.stkMap_eq x.src)
  unfold Dev.strikeTake
  rw [hfifo]
  simp only [← hdrops, Dev.strikeWaiting, ← hslot]
  rfl

/-- An entry is dropped: its FIFO moves on and one counter counts. -/
def Dev.Dropped (d e : Dev) (rest : List Stamp) (f : Fld) : Prop :=
  e.time.strikeFifo = rest ∧ e.alc = d.alc ∧ e.get f = min (2 ^ f.w - 1) (d.get f + 1) ∧ e.swm = d.swm

theorem Dev.HcpOnly.dropped {f : Fld} {n : Nat} (h : (({ d.strikeLeft rest with fresh := n } : Dev).bump f).HcpOnly e)
    (hf : hcpReg f.addr = false) (hw : f.lo + f.w ≤ 32) : d.Dropped e rest f := by
  obtain ⟨htime, hswm, halc⟩ := h.beside
  exact ⟨congrArg TimeS.strikeFifo htime, halc, (h.get f hf).trans (Dev.get_bump_same _ f hw), hswm⟩

theorem Dev.strikeTake_unmapped (hfifo : d.time.strikeFifo = x :: rest) (h : d.stkNibble x.src < 8 ∨ ¬ d.strikeActive = true) :
    d.Dropped d.strikeTake rest F.alcStkCntUnmapped := by
  rw [Dev.strikeTake_cons hfifo, if_pos h]
  exact (Dev.hcpOnly_trigOutcome _ _ _ _ _ _).dropped (n := d.fresh) (by decide) (by decide)

theorem Dev.strikeTake_stale (hfifo : d.time.strikeFifo = x :: rest) (hmap : 8 ≤ d.stkNibble x.src) (hact : d.strikeActive = true)
    (hold : x.ts + secondTk < d.now) : d.Dropped d.strikeTake rest F.alcStkCntStale := by
  rw [Dev.strikeTake_cons hfifo, if_neg (by simp [hact, hmap]), if_pos hold]
  exact (Dev.hcpOnly_trigOutcome _ _ _ _ _ _).dropped (n := d.fresh + 1) (by decide) (by decide)

theorem Dev.strikeTake_waits (hfifo : d.time.strikeFifo = x :: rest) (hmap : 8 ≤ d.stkNibble x.src) (hact : d.strikeActive = true)
    (hnew : d.now ≤ x.ts + secondTk) : d.strikeTake =
      { d.strikeLeft rest with alc := { d.alc with strikes := d.alc.strikes ++ [d.strikeWaiting x] } } := by
  rw [Dev.strikeTake_cons hfifo, if_neg (by simp [hact, hmap]), if_neg (by omega)]

theorem strikeEntryTake_leaves {s : State} (hcore : s.dev.coreOn = true) {P : Dev → Prop} (h : P s.dev.strikeTake) :
    Leaves .strikeEntryTake s P :=
  leaves_effect (exec_strikeEntryTake s) (by rwa [if_pos hcore])

end

/-! ### Onsets in a window leave the allocator's state (R160, R161) -/

section
variable (d : Dev)

theorem Dev.alc_senLeave (v : Nat) : (d.senLeave v).alc = d.alc := by
  unfold Dev.senLeave Dev.senAbandon
  dsimp only
  split
  · split <;> rfl
  · rfl

theorem Dev.alc_bindVoice (v fam n : Nat) (late : Bool) (a b : Int) : (d.bindVoice v fam n late a b).alc = d.alc := by
  unfold Dev.bindVoice
  dsimp only
  split <;> rfl

theorem Dev.alc_trigOutcome (src tag : Nat) (posted : Bool) (st : Status) (onset : Word64) :
    (d.trigOutcome src tag posted st onset).alc = d.alc := by
  obtain ⟨-, -, halc⟩ := (d.hcpOnly_trigOutcome src tag posted st onset).beside
  exact halc

theorem Dev.alc_strikeBind (n : Nat) (s : Strike) : (d.strikeBind n s).alc = d.alc := by
  unfold Dev.strikeBind
  extract_lets v late o husk out d1 d2 d3 d4
  have hout (e : Dev) (st : Status) : (out e st).alc = e.alc := e.alc_trigOutcome _ _ _ _ _
  have hhusk : d1.alc = d.alc := by
    unfold d1
    split
    · exact d.alc_senLeave v
    · rfl
  have hbound : d2.alc = d.alc := (d1.alc_bindVoice _ _ _ _ _ _).trans hhusk
  have hlate : d3.alc = d.alc := by
    unfold d3
    split <;> exact hbound
  split
  · exact hout _ _
  · split
    · exact hout _ _
    · exact (hout _ _).trans hlate

theorem Dev.alc_strikeMerge (l : List Strike) : (d.strikeMerge l).2.alc = d.alc := by
  induction l with
  | nil => rfl
  | cons s l ih =>
    unfold Dev.strikeMerge
    extract_lets r
    split
    · exact ih
    · exact (Dev.alc_trigOutcome _ _ _ _ _ _).trans ih

/-- The window of sample `n` is open: the onsets due wait no longer. -/
def Dev.windowOpened (d : Dev) (n : Nat) : Dev :=
  { d with alc := { d.alc with window := max d.alc.window n
                               strikes := d.alc.strikes.filter fun s => decide (n < d.dueSample s.onset) } }

theorem Dev.get_windowOpened (n : Nat) (f : Fld) : (d.windowOpened n).get f = d.get f := rfl
theorem Dev.voice_windowOpened (n v : Nat) : (d.windowOpened n).voice v = d.voice v := rfl
theorem Dev.dueSample_windowOpened (n u : Nat) : (d.windowOpened n).dueSample u = d.dueSample u := rfl

theorem Dev.alc_openWindow (n : Nat) : (d.openWindow n).alc = (d.windowOpened n).alc :=
  Dev.each_keeps (fun e : Dev => e.alc = (d.windowOpened n).alc) _ _ _ ((d.windowOpened n).alc_strikeMerge _)
    fun s _ e he => (e.alc_strikeBind n s).trans he

/-- A lone onset has none to replace. -/
theorem Dev.openWindow_lone {n : Nat} {x : Strike} (hdue : (d.alc.strikes.filter fun s => decide (d.dueSample s.onset ≤ n)) = [x]) :
    d.openWindow n = (d.windowOpened n).strikeBind n x := by
  unfold Dev.openWindow
  rw [hdue]
  rfl

end

/-! ### An onset binds a free voice (R160) -/

section
variable {d : Dev}

/-- The voice of the slot starts its onset, which is counted and shown in ALC_STK_LAST. -/
def Dev.struck (d : Dev) (n : Nat) (s : Strike) : Dev :=
  let d := ((d.bindVoice (d.voiceCount - 8 + s.slot) 0 n s.late s.onset (d.stkOnset s.ts)).bump F.alcStkCntOk).whenB s.late fun d =>
    d.bump F.alcStkCntLate
  (((d.put F.alcStkLastLo (s.onset % 2 ^ 32)).put F.alcStkLastHi (s.onset / 2 ^ 32)).put F.alcStkLastSrcSrc s.src).put
    F.alcStkLastSrcSlot s.slot

theorem Dev.strikeBind_free {n : Nat} {s : Strike} (hrun : d.on F.swmCtrlRun = true)
    (hfree : (d.voice (d.voiceCount - 8 + s.slot)).bound = false) (hn : d.dueSample s.onset = n) :
    (d.struck n s).HcpOnly (d.strikeBind n s) := by
  have hpast : ¬ d.dueSample s.onset < n := by omega
  unfold Dev.strikeBind
  simp only [hrun, hfree, hpast, decide_false, Bool.or_false, Bool.not_true, Bool.false_and, Bool.false_eq_true, if_false]
  exact Dev.hcpOnly_trigOutcome _ _ _ _ _ _

theorem Dev.voice_bindVoice (v fam n : Nat) (late : Bool) (a b : Int) : let x := (d.bindVoice v fam n late a b).voice v
    x.bound = true ∧ x.bindSmp = n ∧ x.dEff = a ∧ x.late = late := by
  unfold Dev.bindVoice
  extract_lets w seed zero env dear free base x
  have hx : x = base.voice v := by
    unfold x
    split <;> rfl
  rw [hx, Dev.voice_setVoice_same]
  exact ⟨rfl, rfl, rfl, rfl⟩

theorem Dev.get_bindVoice (v fam n : Nat) (late : Bool) (a b : Int) (f : Fld) (hf : f.addr ≠ F.alcCntOvercost.addr) :
    (d.bindVoice v fam n late a b).get f = d.get f := by
  unfold Dev.bindVoice
  extract_lets w seed zero env dear free base
  split
  · exact base.get_bump_other _ f hf
  · rfl

theorem Dev.voice_struck (d : Dev) (n : Nat) (s : Strike) : let v := (d.struck n s).voice (d.voiceCount - 8 + s.slot)
    v.bound = true ∧ v.bindSmp = n ∧ v.dEff = s.onset ∧ v.late = s.late := by
  have hswm : (d.struck n s).swm = (d.bindVoice (d.voiceCount - 8 + s.slot) 0 n s.late s.onset (d.stkOnset s.ts)).swm := by
    unfold Dev.struck Dev.whenB
    split <;> rfl
  rw [Dev.voice, hswm]
  exact Dev.voice_bindVoice _ _ _ _ _ _

theorem Dev.counted_struck (d : Dev) (n : Nat) (s : Strike) :
    (d.struck n s).get F.alcStkCntOk = min (2 ^ 32 - 1) (d.get F.alcStkCntOk + 1)
    ∧ (d.struck n s).get F.alcStkLastLo = s.onset % 2 ^ 32 := by
  have hwhen (e : Dev) : (e.whenB s.late fun d => d.bump F.alcStkCntLate).get F.alcStkCntOk = e.get F.alcStkCntOk := by
    unfold Dev.whenB
    split
    · exact e.get_bump_other _ _ (by decide)
    · rfl
  unfold Dev.struck
  constructor
  · simp (disch := decide) only [Dev.get_put_other, hwhen, Dev.get_bump_same, Dev.get_bindVoice]
    rfl
  · simp (disch := decide) only [Dev.get_put_other, Dev.get_put_same]
    exact Nat.mod_mod _ _

end

/-! ### The window of the sample under render (R160) -/

section
variable {d : Dev} {k : Nat}

theorem Dev.dueSample_reach (t u : Nat) : (d.reach t).dueSample u = d.dueSample u := by
  have hperiod : (d.reach t).period = d.period := by
    rw [Dev.period, Dev.rate96, Dev.on, d.reach_get t _ (by decide)]
    rfl
  rw [Dev.dueSample, hperiod]
  rfl

/-- The window of sample `k` opens, 984 ECLK before the sample's edge. -/
def Dev.atWindow (d : Dev) (k : Nat) : Dev := (d.reach (k * d.period - 12595)).windowOpened k

theorem Dev.get_atWindow (f : Fld) (hf : tcuReg f.addr = false) : (d.atWindow k).get f = d.get f := by
  rw [Dev.atWindow, Dev.get_windowOpened, d.reach_get _ f hf]
theorem Dev.on_atWindow (f : Fld) (hf : tcuReg f.addr = false) : (d.atWindow k).on f = d.on f := by
  rw [Dev.on, Dev.get_atWindow f hf, Dev.on]
theorem Dev.voiceCount_atWindow : (d.atWindow k).voiceCount = d.voiceCount := by
  rw [Dev.voiceCount, Dev.rate96, Dev.on_atWindow _ (by decide)]
  rfl
theorem Dev.voice_atWindow (v : Nat) : (d.atWindow k).voice v = d.voice v := by
  rw [Dev.atWindow, Dev.voice_windowOpened, Dev.voice, Dev.reach_swm, ← Dev.voice]
theorem Dev.dueSample_atWindow (u : Nat) : (d.atWindow k).dueSample u = d.dueSample u := by
  rw [Dev.atWindow, Dev.dueSample_windowOpened, Dev.dueSample_reach]

theorem Dev.strikeWindow_opens (hk : k = d.time.smp.toNat + 1) (hon : d.on F.alcStkCtrlEn = true) (hnew : d.alc.window < k) :
    d.strikeWindow = (d.reach (k * d.period - 12595)).openWindow k := by
  subst hk
  exact if_neg (by simpa [Dev.strikeOn, hon] using hnew)

theorem Dev.strikeWindow_off (hoff : d.on F.alcStkCtrlEn = false) : d.strikeWindow = d := if_pos (by simp [Dev.strikeOn, hoff])

theorem Dev.alc_strikeWindow (hk : k = d.time.smp.toNat + 1) (hon : d.on F.alcStkCtrlEn = true) (hnew : d.alc.window < k) :
    d.strikeWindow.alc.window = k
      ∧ d.strikeWindow.alc.strikes = d.alc.strikes.filter fun x => decide (k < d.dueSample x.onset) := by
  rw [Dev.strikeWindow_opens hk hon hnew, Dev.alc_openWindow]
  simp only [Dev.windowOpened, Dev.reach_alc, Dev.dueSample_reach, max_eq_right hnew.le, true_and]

/-- The lone onset due binds its slot's voice where that is free. -/
theorem Dev.strikeWindow_binds {x : Strike} (hk : k = d.time.smp.toNat + 1) (hon : d.on F.alcStkCtrlEn = true)
    (hnew : d.alc.window < k) (hdue : (d.alc.strikes.filter fun x => decide (d.dueSample x.onset ≤ k)) = [x])
    (hrun : d.on F.swmCtrlRun = true) (hfree : (d.voice (d.voiceCount - 8 + x.slot)).bound = false) (hn : d.dueSample x.onset = k) :
    ((d.atWindow k).struck k x).HcpOnly d.strikeWindow := by
  have hrun' : (d.atWindow k).on F.swmCtrlRun = true := (Dev.on_atWindow _ (by decide)).trans hrun
  have hfree' : ((d.atWindow k).voice ((d.atWindow k).voiceCount - 8 + x.slot)).bound = false := by
    rw [Dev.voiceCount_atWindow, Dev.voice_atWindow, hfree]
  have hlone : d.strikeWindow = (d.atWindow k).strikeBind k x := by
    rw [Dev.strikeWindow_opens hk hon hnew, Dev.openWindow_lone, Dev.atWindow]
    simpa only [Dev.reach_alc, Dev.dueSample_reach] using hdue
  rw [hlone]
  exact Dev.strikeBind_free hrun' hfree' ((Dev.dueSample_atWindow _).trans hn)

theorem Dev.strikeWindow_bound {x : Strike} (h : ((d.atWindow k).struck k x).HcpOnly d.strikeWindow) :
    let v := d.strikeWindow.voice (d.voiceCount - 8 + x.slot)
    v.bound = true ∧ v.bindSmp = k ∧ v.dEff = x.onset ∧ v.late = x.late
      ∧ d.strikeWindow.get F.alcStkCntOk = min (2 ^ 32 - 1) (d.get F.alcStkCntOk + 1)
      ∧ d.strikeWindow.get F.alcStkLastLo = x.onset % 2 ^ 32 := by
  obtain ⟨-, hswm, -⟩ := h.beside
  obtain ⟨hcount, hlast⟩ := (d.atWindow k).counted_struck k x
  obtain ⟨hbound, hsmp, honset, hlate⟩ := (d.atWindow k).voice_struck k x
  rw [Dev.voiceCount_atWindow, Dev.voice, ← hswm] at hbound hsmp honset hlate
  rw [Dev.get_atWindow _ (by decide)] at hcount
  exact ⟨hbound, hsmp, honset, hlate, (h.get _ (by decide)).trans hcount, (h.get _ (by decide)).trans hlast⟩

theorem strikeWindow_leaves {s : State} (hcore : s.dev.coreOn = true) {P : Dev → Prop} (h : P s.dev.strikeWindow) :
    Leaves .strikeWindow s P :=
  leaves_effect (exec_strikeWindow s) (by rwa [if_pos hcore])

theorem strikeWindow_still {s : State} (hoff : s.dev.on F.alcStkCtrlEn = false) : exec .strikeWindow s = .next s := by
  have hsame : (if s.dev.coreOn then s.dev.strikeWindow else s.dev) = s.dev := by rw [Dev.strikeWindow_off hoff, ite_self]
  exact congrArg (fun e => Host.Outcome.next { s with dev := e }) hsame

end

/-- Settles O28: the entry taken by what becomes of it, and the window by what it leaves and the lone onset that it binds. -/
theorem strikePath : Obligations.StrikePath := by
  unfold Obligations.StrikePath
  intro s hcore d drops
  refine ⟨fun x rest hfifo => ?_, fun k hk hon hnew => ⟨?_, fun x hdue hrun hfree hn => ?_⟩, fun hoff => strikeWindow_still hoff⟩
  · intro map q onset late active
    refine ⟨fun h => strikeEntryTake_leaves hcore ?_, fun hmap hact hold => strikeEntryTake_leaves hcore ?_,
      fun hmap hact hrecent => strikeEntryTake_leaves hcore ?_⟩
    · exact Dev.strikeTake_unmapped hfifo (h.imp_right (mt Dev.strikeActive_iff.1))
    · exact Dev.strikeTake_stale hfifo hmap (Dev.strikeActive_iff.2 hact) hold
    · rw [Dev.strikeTake_waits hfifo hmap (Dev.strikeActive_iff.2 hact) hrecent]
      exact ⟨rfl, rfl, rfl, rfl⟩
  · exact strikeWindow_leaves hcore (Dev.alc_strikeWindow hk hon hnew)
  · exact strikeWindow_leaves hcore (Dev.strikeWindow_bound (Dev.strikeWindow_binds hk hon hnew hdue hrun hfree hn))

end Sys2Proof.Machine
end

section
/-! SUPPORT. QSPI transactions in RUN (R207, R209 to R213): what one comes to, what an event of the port changes, and the words of an RD. -/

namespace Sys2Proof.Machine

/-! ### The commands of this family -/

section
variable (ins : Byte) (s : State)

theorem exec_rd (a count : Nat) (stalled : Bool) (collided : List Nat) :
    exec (.rd ins a count stalled collided) s = s.effect fun d => d.hostRead ins a count stalled collided := rfl
theorem exec_wr (a : Nat) (data : List Byte) (rivals : List Req) :
    exec (.wr ins a data rivals) s = s.effect fun d => d.transaction 0 fun d =>
      if d.wrFrameBad ins a data.length then d.frameError
      else (d.setHcp fun h => { h with stream := h.stream ++ [.wr a data rivals] }).drain.answer [] := rfl
theorem exec_cmd (packet : List Byte) (phase : Fin 10) :
    exec (.cmd ins packet phase) s = s.effect fun d => d.transaction 0 fun d =>
      if !insOk 6 ins then d.frameError else (d.takePacket packet (d.stampNow phase)).answer [] := rfl
theorem exec_rsp (count : Nat) (stalled : Bool) :
    exec (.rsp ins count stalled) s = s.effect fun d => d.transaction ((count + 3) / 4) fun d =>
      if !insOk 7 ins then d.frameError else d.rspRead count stalled := rfl
theorem exec_flush (src : Src) : exec (Instr.flush src) s = s.effect fun d => (d.srcWrite src F.hcpCtrl 1).drain := rfl
theorem exec_nop (tag : Fin 16) : exec (.nop tag) s = s.effect fun d => (d.cmdNop tag).drain := rfl

end

/-! ### A transaction (R207, R211, R212) -/

theorem insOk_iff {op : Nat} {ins : Byte} :
    insOk op ins = true ↔ ins.toNat / 16 = op ∧ ins.toNat / 4 % 4 ≠ 3 ∧ ins.toNat % 4 = 0 := by
  simp only [insOk, Bool.and_eq_true, decide_eq_true_eq, and_assoc]

/-- The device with QCS_N high again, as it stands when a transaction is served. -/
def Dev.qcsHigh (d : Dev) : Dev := { d with pwr := { d.pwr with qcsLow := false } }

theorem Dev.coreOn_of_qrdy {d : Dev} (h : d.qrdy = true) : d.coreOn = true := by
  simp only [Dev.qrdy, Bool.and_eq_true, and_assoc] at h
  exact h.1

section
variable {d : Dev} (hrun : d.get F.pwrStatusState = 0) (hstay : d.on F.pwrStatusEntering = false)
include hrun hstay

/-- In RUN the fall of QCS_N wakes nothing (R212). -/
theorem Dev.requestWake_run : d.requestWake WakeCode.qcs = d := by
  have hdeep : d.deep = false := by simp [Dev.deep, Dev.power, hrun, hstay]
  simp [Dev.requestWake, hdeep, WakeCode.qcs]

theorem Dev.transaction_run (words : Nat) (f : Dev → Dev) :
    d.transaction words f = if d.qcsHigh.qrdy then f d.qcsHigh else d.qcsHigh.discardHost words := by
  unfold Dev.transaction
  rw [Dev.requestWake_run hrun hstay]
  rfl

theorem Dev.transaction_ready (hready : d.qcsHigh.qrdy = true) (words : Nat) (f : Dev → Dev) :
    d.transaction words f = f d.qcsHigh := by
  rw [Dev.transaction_run hrun hstay, if_pos hready]

theorem Dev.transaction_busy (hbusy : d.qcsHigh.qrdy = false) (words : Nat) (f : Dev → Dev) :
    d.transaction words f = d.qcsHigh.discardHost words := by
  rw [Dev.transaction_run hrun hstay, hbusy]
  rfl

end

/-! ### What an event of the port changes -/

theorem Dev.FltOnly.keepsRegs {d e : Dev} (h : d.FltOnly e) (l : List Nat) : d.KeepsRegs e l := fun b _ hb => h.reg b hb

theorem Dev.FltOnly.hcp {d e : Dev} (h : d.FltOnly e) : e.hcp = d.hcp := by
  obtain ⟨r, f, rfl, -⟩ := h
  rfl

theorem Dev.FltOnly.mem {d e : Dev} (h : d.FltOnly e) : e.mem = d.mem := by
  obtain ⟨r, f, rfl, -⟩ := h
  rfl

/-- An answer shows in no register. -/
theorem Dev.get_answer (d : Dev) (st : List Status) (data : List Word) (acks : List Bool) (f : Fld) :
    (d.answer st data acks).get f = d.get f := rfl

/-- An event that a counter of the port counts changes that counter alone. -/
theorem Dev.counts_bump (d : Dev) (f : Fld) (hw : f.lo + f.w ≤ 32) (hrec : recReg f.addr = true) :
    (d.bump f).get f = min (2 ^ f.w - 1) (d.get f + 1) ∧ d.KeepsRegs (d.bump f) [] ∧ (d.bump f).mem = d.mem :=
  ⟨d.get_bump_same f hw, (d.fltOnly_bump f hrec).keepsRegs [], rfl⟩

/-- An event that is counted and asks for attention shows in its counter and in the causes alone. -/
theorem Dev.get_counted_other (d : Dev) (cnt f : Fld) (n : Nat) (hcnt : f.addr ≠ cnt.addr) (hattn : f.addr ≠ F.hcpAttnCauseEvents.addr) :
    ((d.bump cnt).cause n).get f = d.get f := by
  rw [Dev.cause, Dev.get_put_other _ _ _ _ hattn, Dev.get_bump_other _ _ _ hcnt]

theorem Dev.get_counted_same (d : Dev) (cnt : Fld) (n : Nat) (hw : cnt.lo + cnt.w ≤ 32) (hattn : cnt.addr ≠ F.hcpAttnCauseEvents.addr) :
    ((d.bump cnt).cause n).get cnt = min (2 ^ cnt.w - 1) (d.get cnt + 1) := by
  rw [Dev.cause, Dev.get_put_other _ _ _ _ hattn, Dev.get_bump_same _ _ hw]

/-! ### The words of an RD (R209, R213) -/

theorem spaceOf_isReg {a : Nat} (ha : isReg a = true) : spaceOf a = .reg := if_pos (of_decide_eq_true ha)

theorem isSram_isReg {a : Nat} (ha : isReg a = true) : isSram a = false := by
  simp [isSram, bankOf, spaceOf_isReg ha]

/-- Register words come one after another up to the end of register space; beyond it they read 0, which counts once. -/
theorem Dev.rdWords_reg (d : Dev) {a : Nat} (ha : isReg a = true) (n : Nat) :
    d.rdWords a n = (let k := min n ((0x8000 - a) / 4)
      ((d.rdRegs a k).1 ++ List.replicate (n - k) 0,
        if k < n then (d.rdRegs a k).2.bump F.hcpCntBadaddr else (d.rdRegs a k).2)) := by
  simp only [Dev.rdWords, spaceTop, spaceOf_isReg ha, Bool.false_or, decide_eq_true_eq]

theorem Dev.rdWords_oneReg (d : Dev) {a : Nat} (ha : isReg a = true) (halign : a % 4 = 0) :
    d.rdWords a 1 = ([(d.readReg .host a).1], (d.readReg .host a).2) := by
  have hlt : a < 0x8000 := of_decide_eq_true ha
  have hone : min 1 ((0x8000 - a) / 4) = 1 := by omega
  simp [d.rdWords_reg ha, hone, Dev.rdRegs, ha]

/-- The last word of register space and one beyond it. -/
theorem Dev.rdWords_lastReg (d : Dev) :
    d.rdWords 0x7FFC 2 = ([(d.readReg .host 0x7FFC).1, 0], d.bump F.hcpCntBadaddr) := by
  rw [d.rdWords_reg rfl]
  rfl

theorem spaceOf_par (a : Nat) : spaceOf a = .par ↔ 0x00100000 ≤ a ∧ a < 0x00110000 := by
  unfold spaceOf
  split_ifs <;> simp <;> omega

theorem spaceOf_wave (a : Nat) : spaceOf a = .wave ↔ 0x01000000 ≤ a ∧ a < 0x01100000 := by
  unfold spaceOf
  split_ifs <;> simp <;> omega

theorem isSram_iff (a : Nat) : isSram a = true ↔ spaceOf a = .par ∨ spaceOf a = .wave ∨ spaceOf a = .cue := by
  unfold isSram bankOf
  rw [decide_eq_true_iff]
  have hwave := (spaceOf_wave a).1
  have hcue := (spaceOf_cue a).1
  cases h : spaceOf a <;> simp [h] at hwave hcue ⊢ <;> omega

theorem spaceOf_lineOf {a : Nat} (ha : isSram a = true) : spaceOf (lineOf a) = spaceOf a := by
  have hline : lineOf a ≤ a ∧ a < lineOf a + 32 ∧ lineOf a % 32 = 0 := by unfold lineOf; omega
  rcases (isSram_iff a).1 ha with h | h | h
  · have hin := (spaceOf_par a).1 h
    rw [h, spaceOf_par]
    omega
  · have hin := (spaceOf_wave a).1 h
    rw [h, spaceOf_wave]
    omega
  · have hin := (spaceOf_cue a).1 h
    rw [h, spaceOf_cue]
    omega

theorem bankOf_lineOf {a : Nat} (ha : isSram a = true) : bankOf (lineOf a) = bankOf a := by
  unfold bankOf
  rw [spaceOf_lineOf ha]
  cases h : spaceOf a <;> dsimp only [lineOf] <;> omega

/-- A line of an SRAM array ends within its region. -/
theorem spaceTop_line {a : Nat} (ha : isSram a = true) : a + 32 ≤ spaceTop a + a % 32 := by
  unfold spaceTop
  rcases (isSram_iff a).1 ha with h | h | h
  · have hin := (spaceOf_par a).1 h
    rw [h]
    dsimp only
    omega
  · have hin := (spaceOf_wave a).1 h
    rw [h]
    dsimp only
    omega
  · have hin := (spaceOf_cue a).1 h
    rw [h]
    dsimp only
    omega

theorem linesOf_within {a n : Nat} (hn : 0 < n) (hin : a % 32 + n ≤ 32) : linesOf a n = [lineOf a] := by
  have hlast : lineOf (a + n - 1) = lineOf a := by unfold lineOf; omega
  simp [linesOf, hlast, Nat.ne_of_gt hn]

/-- A read within one line that is not being wiped gives that line's bytes and records what R240 asks for. -/
theorem Dev.readMem_within (d : Dev) (m : Nat) {a n : Nat} (hn : 0 < n) (hin : a % 32 + n ≤ 32)
    (hwipe : d.mem.wiping.getLsbD (bankOf (lineOf a)) = false) :
    (d.readMem m a n).2.1 = ((d.lineView (lineOf a)).2.drop (a % 32)).take n ∧ d.Recorded (d.readMem m a n).2.2 := by
  obtain ⟨hview, hrec⟩ := d.readLine_says m (lineOf a) false hwipe
  have hoff : a - lineOf a = a % 32 := by unfold lineOf; omega
  simp only [Dev.readMem, linesOf_within hn hin, Dev.readLines, hview, hoff, List.flatMap_cons, List.flatMap_nil, List.append_nil]
  exact ⟨trivial, hrec⟩

theorem wordsOfBytes_take (n : Nat) (l : List Byte) : wordsOfBytes n (l.take (4 * n)) = wordsOfBytes n l := by
  refine List.map_congr_left fun i hi => ?_
  have hlt := List.mem_range.1 hi
  rw [List.drop_take, List.take_take, Nat.min_eq_left (by omega)]

theorem Dev.rdWords_sram (d : Dev) {a n : Nat} (ha : isSram a = true) (halign : a % 4 = 0) (hn : 0 < n) (hin : a % 32 + 4 * n ≤ 32)
    (hwipe : d.mem.wiping.getLsbD (bankOf a) = false) :
    (d.rdWords a n).1 = wordsOfBytes n ((d.lineView (lineOf a)).2.drop (a % 32)) ∧ d.Recorded (d.rdWords a n).2 := by
  have htop := spaceTop_line ha
  obtain ⟨hdata, hrec⟩ := d.readMem_within Master.host (a := a) (n := 4 * n) (by omega) hin (by rwa [bankOf_lineOf ha])
  have hall : min n ((spaceTop a - a) / 4) = n := by omega
  have hwords : d.rdWords a n = d.rdSram a n := by
    rcases (isSram_iff a).1 ha with h | h | h <;> simp [Dev.rdWords, hall, h]
  rw [hwords, Dev.rdSram, hdata, wordsOfBytes_take]
  exact ⟨rfl, hrec⟩

/-! ### RD (R207, R209, R211, R213) -/

section
variable {d : Dev} (hrun : d.get F.pwrStatusState = 0) (hstay : d.on F.pwrStatusEntering = false) {ins : Byte}
include hrun hstay

theorem Dev.hostRead_busy (hbusy : d.qcsHigh.qrdy = false) (a n : Nat) :
    d.hostRead ins a (4 * n) false [] = d.qcsHigh.discardHost n := by
  have hwords : (4 * n + 3) / 4 = n := by omega
  rw [Dev.hostRead, Dev.transaction_busy hrun hstay hbusy, hwords]

theorem Dev.hostRead_bad (hready : d.qcsHigh.qrdy = true) (hins : insOk 2 ins = false) (a count : Nat) :
    d.hostRead ins a count false [] = d.qcsHigh.frameError := by
  rw [Dev.hostRead, Dev.transaction_ready hrun hstay hready, hins]
  rfl

/-- An RD that nothing stalls gives its words, and both flags of Table 6.11 read 0. -/
theorem Dev.hostRead_good (hready : d.qcsHigh.qrdy = true) (hins : insOk 2 ins = true) {a : Nat} (halign : a % 4 = 0) (n : Nat) :
    d.hostRead ins a (4 * n) false [] = (((d.qcsHigh.rdWords a n).2.put F.hcpStatusMembsy 0).put F.hcpStatusUnderrun 0).answer []
      (d.qcsHigh.rdWords a n).1 := by
  have hwords : (4 * n + 3) / 4 = n := by omega
  rw [Dev.hostRead, Dev.transaction_ready hrun hstay hready, hwords]
  simp [hins, halign, Dev.each]

end

/-- What a read of SRAM records changes no byte, and no register but those that record. -/
theorem Dev.Recorded.shows {d e : Dev} (h : d.Recorded e) : (∀ x, e.byte x = d.byte x) ∧ d.KeepsRegs e [] := by
  obtain ⟨r, f, n, c, u, g, rfl, hr⟩ := h
  exact ⟨fun _ => rfl, fun b _ hb => hr b hb⟩

/-- Both flags of the last RD read 0 once it was served. -/
theorem Dev.rdFlags_shown (d : Dev) (data : List Word) :
    let e := ((d.put F.hcpStatusMembsy 0).put F.hcpStatusUnderrun 0).answer [] data
    e.on F.hcpStatusMembsy = false ∧ e.on F.hcpStatusUnderrun = false ∧ d.KeepsRegs e [] := by
  have hkeeps := (d.fltOnly_put F.hcpStatusMembsy 0 (by decide)).trans (Dev.fltOnly_put _ F.hcpStatusUnderrun 0 (by decide))
  refine ⟨?_, ?_, hkeeps.keepsRegs []⟩
  · rw [Dev.on, Dev.get_answer, Dev.get_put_beside _ _ _ _ (by decide), Dev.get_put_same _ _ _ (by decide)]
    rfl
  · rw [Dev.on, Dev.get_answer, Dev.get_put_same _ _ _ (by decide)]
    rfl

/-! ### O29 -/

/-- Settles O29: each transaction by what an RD comes to, busy, in bad form or served; the words by their region. -/
theorem hostReads : Obligations.HostReads := by
  unfold Obligations.HostReads
  intro s ins a n hrun hstay d counts good
  have hcounts (f : Fld) (hw : f.lo + f.w ≤ 32) (hf : f.w = 32) (hrec : recReg f.addr = true) : counts (d.bump f) f := by
    have h := d.counts_bump f hw hrec
    rwa [hf] at h
  refine ⟨fun hbusy => leaves_effect (exec_rd ..) ?_, fun hready hbad => leaves_effect (exec_rd ..) ?_, fun hready hgood halign hreg => ?_,
    fun hready hgood hsram hin halign hwipe hn => leaves_effect (exec_rd ..) ?_,
    fun hready hgood halign hlast => leaves_effect (exec_rd ..) ?_⟩
  · rw [Dev.hostRead_busy hrun hstay hbusy]
    exact ⟨rfl, hcounts F.hcpCntDiscard (by decide) rfl rfl⟩
  · rw [Dev.hostRead_bad hrun hstay hready (Bool.eq_false_iff.2 (mt insOk_iff.1 hbad))]
    exact ⟨rfl, hcounts F.hcpCntFrame (by decide) rfl rfl⟩
  · rw [exec_rd, State.effect, Dev.hostRead_good hrun hstay hready (insOk_iff.2 hgood) halign 1, Dev.rdWords_oneReg _ hreg halign]
    rfl
  · rw [Dev.hostRead_good hrun hstay hready (insOk_iff.2 hgood) halign]
    obtain ⟨hwords, hrec⟩ := d.rdWords_sram hsram halign hn hin hwipe
    obtain ⟨hbytes, hregs⟩ := hrec.shows
    obtain ⟨hmembsy, hunderrun, hflags⟩ := (d.rdWords a n).2.rdFlags_shown (d.rdWords a n).1
    exact ⟨hwords, hbytes, fun b hb hb' => (hflags b hb hb').trans (hregs b hb hb'), hmembsy, hunderrun⟩
  · rw [Dev.hostRead_good hrun hstay hready (insOk_iff.2 hgood) halign 2, hlast, Dev.rdWords_lastReg]
    refine ⟨rfl, ?_⟩
    rw [Dev.get_answer, Dev.get_put_other _ _ _ _ (by decide), Dev.get_put_other _ _ _ _ (by decide), Dev.get_bump_same _ _ (by decide)]
    rfl

end Sys2Proof.Machine
end

section
/-! SUPPORT. Items of the host's input stream (R214, R216 to R218, R220): when a WR is in form, what a stream of one WR comes to, what becomes
of a command packet, and the records that an RSP takes. -/

namespace Sys2Proof.Machine

/-! ### A WR (R214, R220) -/

theorem Dev.wrFrameBad_good (d : Dev) {ins : Byte} {a n : Nat} (hins : insOk 3 ins = true) (halign : a % 4 = 0) (hwords : n % 4 = 0)
    (hpos : 0 < n) (hmax : n ≤ 256) : d.wrFrameBad ins a n = false := by
  simp [Dev.wrFrameBad, hins, halign, hwords, Nat.ne_of_gt hpos, hmax]

theorem Dev.drainN_empty {d : Dev} (h : d.hcp.stream = []) (n : Nat) : d.drainN n = d := by
  cases n with
  | zero => rfl
  | succ n =>
    unfold Dev.drainN
    rw [h]
    exact ite_self d

theorem Dev.drainN_wr {d : Dev} {a : Nat} {data : List Byte} {rivals : List Req} {rest : List HostItem} (hcore : d.coreOn = true)
    (hledger : d.hcp.ledgerReq = none) (hstream : d.hcp.stream = .wr a data rivals :: rest) (n : Nat) :
    d.drainN (n + 1) = ((d.setHcp fun h => { h with stream := rest }).applyWr a data rivals).drainN n := by
  rw [Dev.drainN, if_neg (by simp [hcore, hledger]), hstream]

/-- The device once an item has joined the end of the stream. -/
def Dev.streamed (d : Dev) (i : HostItem) : Dev := d.setHcp fun h => { h with stream := h.stream ++ [i] }

theorem Dev.streamed_alone {d : Dev} (hstream : d.hcp.stream = []) (i : HostItem) :
    (d.streamed i).setHcp (fun h => { h with stream := [] }) = d := by
  rw [← hstream]
  rfl

theorem Dev.streamed_behind {d : Dev} {c : HostCmd} {rest : List HostItem} (hstream : d.hcp.stream = .cmd c :: rest) (i : HostItem) :
    (d.streamed i).hcp.stream = .cmd c :: (rest ++ [i]) := by
  rw [← List.cons_append, ← hstream]
  rfl

/-- What stands behind a waiting command waits (R220). -/
theorem Dev.drain_waits {d : Dev} {c : HostCmd} {rest : List HostItem} (hstream : d.hcp.stream = .cmd c :: rest) : d.drain = d := by
  refine d.drain_of_cmd fun i hi => ⟨c, ?_⟩
  rw [hstream] at hi
  exact (Option.some.inj hi).symm

/-- A WR that no item waits before is applied at once (R220). -/
theorem Dev.drain_streamed_wr {d : Dev} {a : Nat} {data : List Byte} {rivals : List Req} (hcore : d.coreOn = true)
    (hledger : d.hcp.ledgerReq = none) (hstream : d.hcp.stream = []) (hafter : (d.applyWr a data rivals).hcp.stream = []) :
    (d.streamed (.wr a data rivals)).drain = d.applyWr a data rivals := by
  have hitem : (d.streamed (.wr a data rivals)).hcp.stream = [.wr a data rivals] := by simp [Dev.streamed, hstream]
  have hcore' : (d.streamed (.wr a data rivals)).coreOn = true := hcore
  have hledger' : (d.streamed (.wr a data rivals)).hcp.ledgerReq = none := hledger
  rw [Dev.drain, Dev.drainN_wr hcore' hledger' hitem, Dev.streamed_alone hstream, Dev.drainN_empty hafter]

/-- A posted write of one register word is a lone request of the data path. -/
theorem Dev.applyWr_word (d : Dev) {a : Nat} (ha : isReg a = true) (halign : a % 4 = 0) (w : Word) :
    d.applyWr a (bytesOf w.toNat 4) [] = (d.requests [regReq .host a w true]).2 := by
  have hlt : a < 0x8000 := of_decide_eq_true ha
  have hlast : isReg (a + 4 - 1) = true := decide_eq_true (by omega)
  have hlen : (bytesOf w.toNat 4).length = 4 := rfl
  have hpieces : wrPieces a (bytesOf w.toNat 4) = [(a, bytesOf w.toNat 4)] := by
    rw [wrPieces, if_pos ha, hlen]
    rfl
  unfold Dev.applyWr
  rw [hlen, spaceOf_isReg ha, spaceOf_isReg hlast, if_neg (by decide), hpieces]
  rfl

/-- A taken posted write of the data path that answers OK leaves what it starts, and reports nothing. -/
theorem Dev.requests_posted {d : Dev} {a : Nat} {w : Word} (ha : isReg a = true) (htake : d.Takes ⟨.host, true⟩ a w)
    (hok : d.oneStatus (regReq .host a w true) = .ok) :
    (d.requests [regReq .host a w true]).2 = (d.oneHook (regReq .host a w true)).2 := by
  obtain ⟨-, hreach, href⟩ := htake
  rw [d.requests_one (regReq .host a w true) ha hreach href none (by simp), hok]
  simp [Dev.settle, Dev.failingWords, oncePerWord, ha, Dev.each, Status.isError, Status.code]

theorem Dev.hcp_tookWord (d : Dev) (p : Path) (a : Nat) (w : Word) : (d.tookWord p a w).hcp = d.hcp := by
  unfold Dev.tookWord
  split <;> rfl

/-- A posted write of HT_SET_LO or HT_SET_HI: the register takes the word, and records apart nothing else changes. -/
theorem Dev.applyWr_htSet {d : Dev} {f : Fld} (hf : f ∈ [F.htSetLo, F.htSetHi]) {w : Word} (htake : d.Takes ⟨.host, true⟩ f.addr w)
    (hmay : d.MaySet ⟨.host, true⟩ f) : (d.tookWord .host f.addr w).FltOnly (d.applyWr f.addr (bytesOf w.toNat 4) []) := by
  obtain ⟨hreg, halign⟩ : isReg f.addr = true ∧ f.addr % 4 = 0 := by fin_cases hf <;> decide
  obtain ⟨hok, honly⟩ := d.oneHook_htSet ⟨.host, true⟩ w hf fun _ => hmay
  rwa [d.applyWr_word hreg halign, Dev.requests_posted hreg htake hok]

/-! ### A command packet (R216 to R218) -/

theorem Dev.packetByte_of_lt (d : Dev) {packet : List Byte} {i : Nat} (h : i < packet.length) :
    d.packetByte packet i = (packet[i].toNat, d) := by
  rw [Dev.packetByte, List.getElem?_eq_getElem h]

theorem Status.code_lt (st : Status) : st.code < 256 := by cases st <;> decide

section
variable (d : Dev) (st : Status) (opc tag : Nat)

/-- The record of a rejected packet, before it is counted (R217, R218). -/
def Dev.rejectShown : Dev :=
  (((d.put F.hcpRejStatus st.code).put F.hcpRejOpc opc).put F.hcpRejTag tag).put F.hcpRejValid 1

theorem Dev.reject_eq : d.reject st opc tag = ((d.rejectShown st opc tag).bump F.hcpCntReject).cause Cause.cmdRej := rfl

theorem Dev.fltOnly_rejectShown : d.FltOnly (d.rejectShown st opc tag) :=
  (((d.fltOnly_put F.hcpRejStatus _ (by decide)).trans (Dev.fltOnly_put _ F.hcpRejOpc _ (by decide))).trans
    (Dev.fltOnly_put _ F.hcpRejTag _ (by decide))).trans (Dev.fltOnly_put _ F.hcpRejValid _ (by decide))

theorem Dev.rejectShown_shows : (d.rejectShown st opc tag).get F.hcpRejStatus = st.code ∧ (d.rejectShown st opc tag).on F.hcpRejValid = true := by
  unfold Dev.rejectShown
  refine ⟨?_, ?_⟩
  · simp (disch := decide) only [Dev.get_put_beside]
    rw [Dev.get_put_same _ _ _ (by decide)]
    exact Nat.mod_eq_of_lt st.code_lt
  · rw [Dev.on, Dev.get_put_same _ _ _ (by decide)]
    rfl

theorem Dev.get_rejectShown_other (f : Fld) (hf : f.addr ≠ F.hcpRejStatus.addr) : (d.rejectShown st opc tag).get f = d.get f := by
  have hput (e : Dev) (g : Fld) (v : Nat) (hg : g.addr = F.hcpRejStatus.addr) : (e.put g v).get f = e.get f :=
    e.get_put_other _ _ _ (hg ▸ hf)
  rw [Dev.rejectShown, hput _ F.hcpRejValid _ rfl, hput _ F.hcpRejTag _ rfl, hput _ F.hcpRejOpc _ rfl, hput _ F.hcpRejStatus _ rfl]

/-- A packet is rejected with a record of why, and nothing else of the device changes. -/
theorem Dev.reject_shows : d.FltOnly (d.reject st opc tag)
    ∧ (d.reject st opc tag).get F.hcpRejStatus = st.code ∧ (d.reject st opc tag).on F.hcpRejValid = true
    ∧ (d.reject st opc tag).get F.hcpCntReject = min (2 ^ 32 - 1) (d.get F.hcpCntReject + 1)
    ∧ (d.reject st opc tag).get F.hcpCntFrame = d.get F.hcpCntFrame := by
  obtain ⟨hstatus, hvalid⟩ := d.rejectShown_shows st opc tag
  have hother := d.get_rejectShown_other st opc tag
  rw [Dev.reject_eq]
  refine ⟨((d.fltOnly_rejectShown st opc tag).trans (Dev.fltOnly_bump _ _ (by decide))).trans (Dev.fltOnly_cause _ _), ?_, ?_, ?_, ?_⟩
  · rw [Dev.get_counted_other _ _ _ _ (by decide) (by decide), hstatus]
  · rwa [Dev.on, Dev.get_counted_other _ _ _ _ (by decide) (by decide)]
  · rw [Dev.get_counted_same _ _ _ (by decide) (by decide), hother _ (by decide)]
    rfl
  · rw [Dev.get_counted_other _ _ _ _ (by decide) (by decide), hother _ (by decide)]

end

theorem Dev.takePacket_malformed (d : Dev) {packet : List Byte} (hbad : malformed packet = true) (hlen : 2 ≤ packet.length) (ts : Nat) :
    ∃ opc tag, d.takePacket packet ts = (d.bump F.hcpCntFrame).reject .earg opc tag := by
  have hfirst := d.packetByte_of_lt (packet := packet) (i := 0) (by omega)
  have hsecond := d.packetByte_of_lt (packet := packet) (i := 1) (by omega)
  exact ⟨packet[0].toNat, packet[1].toNat % 32, by simp only [Dev.takePacket, if_pos hbad, hfirst, hsecond]⟩

theorem Dev.takePacket_tagged (d : Dev) {packet : List Byte} (hgood : malformed packet = false)
    (htag : 16 ≤ (packet.getD 1 0).toNat % 32 ∨ d.tagHeld ((packet.getD 1 0).toNat % 32) = true) (ts : Nat) :
    d.takePacket packet ts = d.reject .etag (packet.getD 0 0).toNat ((packet.getD 1 0).toNat % 32) := by
  simp only [Dev.takePacket, hgood, Bool.false_eq_true, if_false, if_pos htag]

/-- The command that a packet in form spells (Table 6.4). -/
def packetCmd (packet : List Byte) (ts : Nat) : HostCmd :=
  ⟨(packet.getD 0 0).toNat, (packet.getD 1 0).toNat % 32, (packet.getD 1 0).toNat.testBit 5, (packet.getD 1 0).toNat.testBit 6,
    ofBytes ((packet.drop 4).take 8), packet.drop 12, ts⟩

/-- The device once a command has joined the stream and holds its tag (R218). -/
def Dev.commandTaken (d : Dev) (c : HostCmd) : Dev :=
  (d.setHcp fun h => { h with
    held := h.held ||| tagBit c.tag, exec := h.exec ||| tagBit c.tag, stream := h.stream ++ [.cmd c] }).bump F.hcpCntCmd

theorem Dev.commandTaken_shows (d : Dev) (c : HostCmd) :
    (d.commandTaken c).hcp = { d.hcp with
      held := d.hcp.held ||| tagBit c.tag, exec := d.hcp.exec ||| tagBit c.tag, stream := d.hcp.stream ++ [.cmd c] }
    ∧ (d.commandTaken c).get F.hcpCntCmd = min (2 ^ 32 - 1) (d.get F.hcpCntCmd + 1) ∧ d.KeepsRegs (d.commandTaken c) [] :=
  ⟨rfl, Dev.get_bump_same _ F.hcpCntCmd (by decide), (Dev.fltOnly_bump _ F.hcpCntCmd (by decide)).keepsRegs []⟩

theorem Dev.takePacket_taken (d : Dev) {packet : List Byte} (hgood : malformed packet = false)
    (htag : (packet.getD 1 0).toNat % 32 < 16) (hfree : d.tagHeld ((packet.getD 1 0).toNat % 32) = false)
    (hzero : (packet.getD 1 0).toNat < 128) (ts : Nat) : d.takePacket packet ts = d.commandTaken (packetCmd packet ts) := by
  have hbit : (packet.getD 1 0).toNat.testBit 7 = false := Nat.testBit_lt_two_pow hzero
  have hno : ¬ (16 ≤ (packet.getD 1 0).toNat % 32 ∨ d.tagHeld ((packet.getD 1 0).toNat % 32) = true) :=
    not_or.2 ⟨by omega, by rw [hfree]; decide⟩
  simp only [Dev.takePacket, hgood, hbit, Bool.false_eq_true, if_false, if_neg hno]
  rfl

/-! ### RSP (R222) -/

theorem getLsbD_tagBit (k : Nat) {t : Nat} (ht : t < 16) : (tagBit k).getLsbD t = decide (t = k) := by
  by_cases hk : k < 16
  · exact getLsbD_one_shiftLeft hk t
  · rw [tagBit, BitVec.getLsbD_shiftLeft, decide_eq_true (show t < k by omega), decide_eq_false (show t ≠ k by omega)]
    simp

theorem Dev.held_freeTag (d : Dev) (k : Nat) {t : Nat} (ht : t < 16) :
    (d.freeTag k).hcp.held.getLsbD t = (d.hcp.held.getLsbD t && !decide (k = t)) := by
  show (d.hcp.held &&& ~~~tagBit k).getLsbD t = _
  rw [BitVec.getLsbD_and, BitVec.getLsbD_not, getLsbD_tagBit k ht, decide_eq_true ht, Bool.true_and]
  simp only [eq_comm]

/-- Freeing the tags of records leaves the other tags, the records and the stream. -/
theorem Dev.held_freeTags (l : List Record) (d : Dev) :
    let e := d.each l fun r d => d.freeTag r.src
    e.hcp.rsp = d.hcp.rsp ∧ e.hcp.stream = d.hcp.stream
      ∧ ∀ t, t < 16 → e.hcp.held.getLsbD t = (d.hcp.held.getLsbD t && !(l.any fun r => decide (r.src = t))) := by
  induction l generalizing d with
  | nil => exact ⟨rfl, rfl, fun t _ => (Bool.and_true _).symm⟩
  | cons r l ih =>
    obtain ⟨hrsp, hstream, hheld⟩ := ih (d.freeTag r.src)
    refine ⟨hrsp, hstream, fun t ht => (hheld t ht).trans ?_⟩
    rw [d.held_freeTag r.src ht, List.any_cons, Bool.not_or, Bool.and_assoc]

/-- The words of a list of bytes begin with that of its first four. -/
theorem wordsOfBytes_append {l : List Byte} (hl : l.length = 4) (n : Nat) (l' : List Byte) :
    wordsOfBytes (n + 1) (l ++ l') = BitVec.ofNat 32 (ofBytes l) :: wordsOfBytes n l' := by
  have hfirst : (l ++ l').take 4 = l := List.take_left' hl
  have hrest (i : Nat) : (l ++ l').drop (4 * (i + 1)) = l'.drop (4 * i) := by
    rw [Nat.mul_add, Nat.add_comm, ← List.drop_drop, List.drop_left' hl]
  simp only [wordsOfBytes, List.range_succ_eq_map, List.map_cons, List.map_map, Nat.mul_zero, List.drop_zero, hfirst,
    Function.comp_def, Nat.succ_eq_add_one, hrest]

theorem ofNat_ofBytes_bytesOf (v : Nat) : BitVec.ofNat 32 (ofBytes (bytesOf v 4)) = BitVec.ofNat 32 v := by
  apply BitVec.eq_of_toNat_eq
  simp only [bytesOf, ofBytes, BitVec.toNat_ofNat]
  omega

theorem bytesOf_eight (v : Nat) : bytesOf v 8 = bytesOf v 4 ++ bytesOf (v / 2 ^ 32) 4 := by
  simp [bytesOf, Nat.div_div_eq_div_mul]

/-- The four words of a record (Table 6.6); `more` says that another record stands behind it. -/
def Record.words (r : Record) (more : Bool) : List Word := [
  BitVec.ofNat 32 (r.kind % 256 + 2 ^ 8 * (r.src % 256) + 2 ^ 16 * (r.status % 256) + 2 ^ 24 * ((r.flags + if more then 1 else 0) % 256)),
  r.val0, r.val1.extractLsb' 0 32, r.val1.extractLsb' 32 32]

theorem wordsOfBytes_record (r : Record) (more : Bool) (l : List Byte) : wordsOfBytes 4 (r.bytes more ++ l) = r.words more := by
  have hhead : BitVec.ofNat 32 (ofBytes [BitVec.ofNat 8 r.kind, BitVec.ofNat 8 r.src, BitVec.ofNat 8 r.status,
      BitVec.ofNat 8 (r.flags + if more then 1 else 0)])
      = BitVec.ofNat 32 (r.kind % 256 + 2 ^ 8 * (r.src % 256) + 2 ^ 16 * (r.status % 256)
        + 2 ^ 24 * ((r.flags + if more then 1 else 0) % 256)) := by
    simp only [ofBytes, BitVec.toNat_ofNat]
    congr 1
    omega
  have hlow : BitVec.ofNat 32 r.val1.toNat = r.val1.extractLsb' 0 32 := rfl
  have hhigh : BitVec.ofNat 32 (r.val1.toNat / 2 ^ 32) = r.val1.extractLsb' 32 32 := by
    rw [BitVec.extractLsb', Nat.shiftRight_eq_div_pow]
  rw [Record.bytes, bytesOf_eight, List.append_assoc, List.append_assoc, List.append_assoc, wordsOfBytes_append rfl, wordsOfBytes_append rfl,
    wordsOfBytes_append rfl, wordsOfBytes_append rfl, hhead, ofNat_ofBytes_bytesOf, ofNat_ofBytes_bytesOf, ofNat_ofBytes_bytesOf, hlow, hhigh,
    BitVec.ofNat_toNat, BitVec.setWidth_eq]
  rfl

theorem Dev.rspRead_shows (d : Dev) {n : Nat} (hn : n ≤ d.hcp.rsp.length) :
    let e := d.rspRead (16 * n) false
    e.hcp.rsp = d.hcp.rsp.drop n ∧ e.hcp.stream = d.hcp.stream
      ∧ (∀ t, t < 16 → e.hcp.held.getLsbD t
          = (d.hcp.held.getLsbD t && !((d.hcp.rsp.take n).any fun r => r.kind == 1 && decide (r.src = t))))
      ∧ e.out.data = wordsOfBytes (4 * n) (rspBytes d.hcp.rsp) := by
  have hrecords : 16 * n / 16 = n := by omega
  have hwords : 16 * n / 4 = 4 * n := by omega
  have hgone : (d.hcp.rsp.take n).length = n := List.length_take_of_le hn
  obtain ⟨hrsp, hstream, hheld⟩ := Dev.held_freeTags ((d.hcp.rsp.take n).filter fun r => r.kind == 1)
    (d.setHcp fun h => { h with rsp := h.rsp.drop n })
  simp only [Dev.rspRead, hrecords, hwords, hgone, Bool.false_eq_true, if_false]
  refine ⟨hrsp, hstream, fun t ht => (hheld t ht).trans ?_, rfl⟩
  rw [List.any_filter]
  rfl

/-! ### O30 -/

section
variable {s : State} {ins : Byte} (hrun : s.dev.get F.pwrStatusState = 0) (hstay : s.dev.on F.pwrStatusEntering = false)
  (hready : s.dev.qcsHigh.qrdy = true)
include hrun hstay hready

theorem wr_joins {a : Nat} {data : List Byte} {rivals : List Req} (hgood : s.dev.qcsHigh.wrFrameBad ins a data.length = false) :
    exec (.wr ins a data rivals) s = .next { s with dev := (s.dev.qcsHigh.streamed (.wr a data rivals)).drain.answer [] } := by
  rw [exec_wr, State.effect, Dev.transaction_ready hrun hstay hready, hgood]
  rfl

theorem cmd_taken (hins : insOk 6 ins = true) {packet : List Byte} {phase : Fin 10} {e : Dev}
    (htaken : s.dev.qcsHigh.takePacket packet (s.dev.qcsHigh.stampNow phase) = e) {P : Dev → Prop} (h : P (e.answer [])) :
    Leaves (.cmd ins packet phase) s P := by
  refine leaves_effect (exec_cmd ..) ?_
  rw [Dev.transaction_ready hrun hstay hready, hins, htaken]
  exact h

theorem rsp_read (hins : insOk 7 ins = true) (count : Nat) (stalled : Bool) {P : Dev → Prop}
    (h : P (s.dev.qcsHigh.rspRead count stalled)) : Leaves (.rsp ins count stalled) s P := by
  refine leaves_effect (exec_rsp ..) ?_
  rwa [Dev.transaction_ready hrun hstay hready, hins]

theorem wr_htSet {f : Fld} {w : Word} (hf : f ∈ [F.htSetLo, F.htSetHi]) (hins : insOk 3 ins = true) (hstream : s.dev.hcp.stream = [])
    (hledger : s.dev.hcp.ledgerReq = none) (htake : s.dev.qcsHigh.Takes ⟨.host, true⟩ f.addr w)
    (hmay : s.dev.qcsHigh.MaySet ⟨.host, true⟩ f) : Leaves (.wr ins f.addr (bytesOf w.toNat 4) []) s fun e =>
      e.reg f.addr = w ∧ s.dev.qcsHigh.KeepsRegs e [f.addr] ∧ e.hcp = s.dev.qcsHigh.hcp ∧ e.mem = s.dev.qcsHigh.mem := by
  obtain ⟨halign, hrec⟩ : f.addr % 4 = 0 ∧ recReg f.addr = false := by fin_cases hf <;> decide
  have hform : s.dev.qcsHigh.wrFrameBad ins f.addr (bytesOf w.toNat 4).length = false :=
    Dev.wrFrameBad_good (n := 4) _ hins halign rfl (by decide) (by decide)
  have honly := Dev.applyWr_htSet hf htake hmay
  have hreg (b : Nat) := s.dev.qcsHigh.reg_tookWord .host f.addr b w
  have hhcp := honly.hcp.trans (s.dev.qcsHigh.hcp_tookWord .host f.addr w)
  refine ⟨_, wr_joins hrun hstay hready hform, rfl, ?_⟩
  rw [Dev.drain_streamed_wr (Dev.coreOn_of_qrdy hready) hledger hstream ((congrArg HcpS.stream hhcp).trans hstream)]
  refine ⟨?_, fun b hb hb' => ?_, hhcp, honly.mem.trans (Dev.tookWord_frame _ _ _ _).1⟩
  · exact (honly.reg _ hrec).trans ((hreg _).trans (if_pos rfl))
  · exact (honly.reg b hb').trans ((hreg b).trans (if_neg (by simpa using hb)))

end

/-- Settles O30: a WR by the stream it joins, a CMD by what becomes of its packet, an RSP by the records it takes. -/
theorem hostWrites : Obligations.HostWrites := by
  unfold Obligations.HostWrites
  intro s ins phase hrun hstay d good hready
  refine ⟨fun a data c rest hgood halign hwords hpos hmax hfront => ?_, fun f w hf hgood hstream hledger htake hmay =>
    wr_htSet hrun hstay hready hf (insOk_iff.2 hgood) hstream hledger htake hmay, fun packet hgood => ?_, fun n hgood hn => ?_⟩
  · have hwaits : (s.dev.qcsHigh.streamed (.wr a data [])).drain = s.dev.qcsHigh.streamed (.wr a data []) :=
      Dev.drain_waits (Dev.streamed_behind hfront _)
    rw [wr_joins hrun hstay hready (Dev.wrFrameBad_good _ (insOk_iff.2 hgood) halign hwords hpos hmax), hwaits]
    rfl
  · intro opc b1 tag c rejected
    have hrejected (st : Status) (e : Dev) (opc' tag' : Nat) (he : d.FltOnly e) (hcnt : e.get F.hcpCntReject = d.get F.hcpCntReject) :
        rejected st ((e.reject st opc' tag').answer []) := by
      obtain ⟨hflt, hstatus, hvalid, hcount, -⟩ := e.reject_shows st opc' tag'
      refine ⟨(Dev.answer_hcp ..).trans (he.trans hflt).hcp, (Dev.get_answer ..).trans hstatus, ?_,
        (Dev.get_answer ..).trans (hcnt ▸ hcount)⟩
      rwa [Dev.on, Dev.get_answer]
    refine ⟨fun hbad hlen => ?_, fun hform htag => ?_, fun hform htag hfree hzero => ?_⟩
    · obtain ⟨opc', tag', htaken⟩ := d.takePacket_malformed hbad hlen (d.stampNow phase)
      obtain ⟨-, -, -, -, hframe⟩ := (d.bump F.hcpCntFrame).reject_shows .earg opc' tag'
      exact cmd_taken hrun hstay hready (insOk_iff.2 hgood) htaken
        ⟨hrejected .earg _ opc' tag' (d.fltOnly_bump F.hcpCntFrame (by decide)) (d.get_bump_other _ _ (by decide)),
          (Dev.get_answer ..).trans (hframe.trans (d.get_bump_same F.hcpCntFrame (by decide)))⟩
    · exact cmd_taken hrun hstay hready (insOk_iff.2 hgood) (d.takePacket_tagged hform htag _) (hrejected .etag d opc tag (.refl d) rfl)
    · exact cmd_taken hrun hstay hready (insOk_iff.2 hgood) (d.takePacket_taken hform htag hfree hzero _) (d.commandTaken_shows _)
  · obtain ⟨hrsp, hstream, hheld, hdata⟩ := d.rspRead_shows hn
    refine rsp_read hrun hstay hready (insOk_iff.2 hgood) _ _ ⟨hrsp, hstream, hheld, fun r rest hone hrecords => hdata.trans ?_⟩
    rw [hrecords, hone, rspBytes, wordsOfBytes_record]
    cases rest <;> rfl

end Sys2Proof.Machine
end

section
/-! SUPPORT. FLUSH (R233), and a posted command at the front of the stream (R223, R224): what its success and its failure leave. -/

namespace Sys2Proof.Machine

/-! ### FLUSH -/

section
variable {d : Dev}

/-- The device after a FLUSH of a stream that holds commands alone. -/
def Dev.flushed (d : Dev) : Dev := { d with
  hcp := { d.hcp with stream := [], rsp := [], held := 0, exec := 0, ledgerReq := none }
  time := { d.time with strikeFifo := d.time.strikeFifo.map fun x => if x.src = 16 then { x with tag := 16 } else x }
  alc := { d.alc with strikes := d.alc.strikes.map fun x => if x.src = 16 then { x with tag := 16 } else x } }

theorem Dev.flushNow_commands (h : ∀ i ∈ d.hcp.stream, ∃ b, i = .cmd b) : d.flushNow = d.flushed := by
  unfold Dev.flushNow
  extract_lets isCmd e drop
  have hnone : d.hcp.stream.filter (fun i => !isCmd i) = [] := List.filter_eq_nil_iff.2 fun i hi => by
    obtain ⟨b, rfl⟩ := h i hi
    exact Bool.false_ne_true
  have he : e = d.setHcp fun h => { h with stream := [], rsp := [], held := 0, exec := 0, ledgerReq := none } := by
    show d.setHcp _ = _
    simp only [Dev.setHcp, hnone]
  rw [he]
  rfl

variable {src : Src}

theorem Dev.srcWrite_flush (htake : d.TakesField src F.hcpCtrl 1) : d.srcWrite src F.hcpCtrl 1 =
    (if src.path == .host || d.hcp.stream.isEmpty then d.flushNow else d.streamed .flush).told src F.hcpCtrl.addr := by
  have hbits : actionBits F.hcpCtrl.addr (insBits 0 F.hcpCtrl.lo F.hcpCtrl.w 1) = 1 := by decide
  have hhook : d.regHook d F.hcpCtrl.addr 1 (src.path == .host)
      = (.ok, if src.path == .host || d.hcp.stream.isEmpty then d.flushNow else d.streamed .flush) := rfl
  rw [d.srcWrite_action src F.hcpCtrl 1 rfl rfl (by decide) (by decide) (d.heldFor_none _ (by decide) (by decide) (by decide)) htake
    (by rw [hbits, hhook]), hbits, hhook]

theorem Dev.told_hcp (d : Dev) (src : Src) (a : Nat) : (d.told src a).hcp = d.hcp := by rw [Dev.told_eq]

/-- A FLUSH by the host, or with an empty stream, is taken at once. -/
theorem flush_taken {s : State} (htake : s.dev.TakesField src F.hcpCtrl 1) (hnow : src.path = .host ∨ s.dev.hcp.stream = [])
    (hcmds : ∀ i ∈ s.dev.hcp.stream, ∃ b, i = .cmd b) :
    exec (Instr.flush src) s = .next { s with dev := s.dev.flushed.told src F.hcpCtrl.addr } := by
  have hcond : (src.path == .host || s.dev.hcp.stream.isEmpty) = true := by
    rcases hnow with h | h <;> simp [h]
  have hempty : (s.dev.flushed.told src F.hcpCtrl.addr).hcp.stream = [] := congrArg HcpS.stream (s.dev.flushed.told_hcp _ _)
  rw [exec_flush, State.effect, Dev.srcWrite_flush htake, if_pos hcond, Dev.flushNow_commands hcmds, Dev.drain, Dev.drainN_empty hempty]

/-- A FLUSH by the management path joins the stream behind a waiting command. -/
theorem flush_waits {s : State} {c : HostCmd} {rest : List HostItem} (htake : s.dev.TakesField src F.hcpCtrl 1) (hpath : src.path = .mgmt)
    (hstream : s.dev.hcp.stream = .cmd c :: rest) :
    exec (Instr.flush src) s = .next { s with dev := (s.dev.streamed .flush).told src F.hcpCtrl.addr } := by
  have hfront : ((s.dev.streamed .flush).told src F.hcpCtrl.addr).hcp.stream = .cmd c :: (rest ++ [.flush]) :=
    (congrArg HcpS.stream (Dev.told_hcp _ _ _)).trans (Dev.streamed_behind hstream _)
  rw [exec_flush, State.effect, Dev.srcWrite_flush htake, if_neg (by simp [hpath, hstream]), Dev.drain_waits hfront]

end

/-! ### A posted command (R223, R224) -/

/-- The record of a posted failure, of a WR word at `addr` or of a command, before it is counted (R224). -/
def Dev.failureShown (d : Dev) (st : Status) (addr : Option Nat) (opc tag : Nat) : Dev :=
  let e := match addr with
    | some a => d.put F.hcpPerrAddr a
    | none => d
  ((((e.put F.hcpPerrInfoStatus st.code).put F.hcpPerrInfoOpc (if addr.isNone then opc else 0)).put F.hcpPerrInfoTag
    (if addr.isNone then tag else 0)).put F.hcpPerrInfoCmd (if addr.isNone then 1 else 0)).put F.hcpPerrInfoValid 1

section
variable (d : Dev) (st : Status) (addr : Option Nat) (opc tag : Nat)

theorem Dev.failureShown_shows : (d.failureShown st addr opc tag).get F.hcpPerrInfoStatus = st.code
    ∧ (d.failureShown st addr opc tag).on F.hcpPerrInfoValid = true
    ∧ (d.failureShown st addr opc tag).get F.hcpCntPosterr = d.get F.hcpCntPosterr ∧ (d.failureShown st addr opc tag).hcp = d.hcp := by
  unfold Dev.failureShown
  extract_lets noted
  have hnoted : noted.get F.hcpCntPosterr = d.get F.hcpCntPosterr ∧ noted.hcp = d.hcp := by
    cases addr with
    | none => exact ⟨rfl, rfl⟩
    | some a => exact ⟨d.get_put_other F.hcpPerrAddr _ a (by decide), rfl⟩
  refine ⟨?_, ?_, ?_, hnoted.2⟩
  · simp (disch := decide) only [Dev.get_put_beside]
    rw [Dev.get_put_same _ _ _ (by decide)]
    exact Nat.mod_eq_of_lt st.code_lt
  · rw [Dev.on, Dev.get_put_same _ _ _ (by decide)]
    rfl
  · simp (disch := decide) only [Dev.get_put_other]
    exact hnoted.1

/-- The same once it is counted and asks for attention. -/
def Dev.failureCounted (d : Dev) (st : Status) (addr : Option Nat) (opc tag : Nat) : Dev :=
  ((d.failureShown st addr opc tag).bump F.hcpCntPosterr).cause Cause.postErr

theorem Dev.failureCounted_shows : (d.failureCounted st addr opc tag).get F.hcpPerrInfoStatus = st.code
    ∧ (d.failureCounted st addr opc tag).on F.hcpPerrInfoValid = true
    ∧ (d.failureCounted st addr opc tag).get F.hcpCntPosterr = min (2 ^ 32 - 1) (d.get F.hcpCntPosterr + 1)
    ∧ (d.failureCounted st addr opc tag).hcp = d.hcp := by
  obtain ⟨hstatus, hvalid, hcount, hhcp⟩ := d.failureShown_shows st addr opc tag
  refine ⟨(Dev.get_counted_other _ _ _ _ (by decide) (by decide)).trans hstatus, ?_, ?_, ?_⟩
  · rwa [Dev.on, Dev.failureCounted, Dev.get_counted_other _ _ _ _ (by decide) (by decide)]
  · rw [Dev.failureCounted, Dev.get_counted_same _ _ _ (by decide) (by decide), hcount]
    rfl
  · rw [Dev.failureCounted, Dev.cause, Dev.put_hcp, Dev.bump, Dev.bumpBy, Dev.put_hcp, hhcp]

/-- The response by which a posted failure is reported (Table 6.6). -/
def failureRecord (st : Status) (addr : Option Nat) (opc tag : Nat) (ht : Word64) : Record :=
  ⟨3, 0xFF, st.code, if addr.isNone then 4 else 0, BitVec.ofNat 32 (addr.getD (opc + 256 * tag)), ht⟩

/-- A message joins the responses where a shared record is free (R222). -/
def Dev.reported (d : Dev) (r : Record) : Dev := if 16 ≤ d.shared then d else d.setHcp fun h => { h with rsp := h.rsp ++ [r] }

theorem Dev.reported_frame (r : Record) : (d.reported r).regs = d.regs ∧ (d.reported r).hcp.held = d.hcp.held
    ∧ (d.reported r).hcp.stream = d.hcp.stream := by
  unfold Dev.reported
  split <;> exact ⟨rfl, rfl, rfl⟩

theorem Dev.reported_joins (r : Record) (hroom : d.shared < 16) : (d.reported r).hcp.rsp = d.hcp.rsp ++ [r] := by
  rw [Dev.reported, if_neg (Nat.not_le.2 hroom)]
  rfl

theorem Dev.postFail_eq : d.postFail st addr opc tag =
    (d.failureCounted st addr opc tag).reported (failureRecord st addr opc tag (d.failureCounted st addr opc tag).time.ht) := by
  unfold Dev.postFail Dev.failureCounted Dev.failureShown failureRecord
  rfl

/-- A posted failure is recorded with its status, counted, and reported where a shared record is free (R224). -/
theorem Dev.postFail_shows : (d.postFail st addr opc tag).get F.hcpPerrInfoStatus = st.code
    ∧ (d.postFail st addr opc tag).on F.hcpPerrInfoValid = true
    ∧ (d.postFail st addr opc tag).get F.hcpCntPosterr = min (2 ^ 32 - 1) (d.get F.hcpCntPosterr + 1)
    ∧ (d.postFail st addr opc tag).hcp.held = d.hcp.held ∧ (d.postFail st addr opc tag).hcp.stream = d.hcp.stream
    ∧ (d.shared < 16 → ∃ r, (d.postFail st addr opc tag).hcp.rsp = d.hcp.rsp ++ [r] ∧ r.kind = 3 ∧ r.status = st.code) := by
  obtain ⟨hstatus, hvalid, hcount, hhcp⟩ := d.failureCounted_shows st addr opc tag
  obtain ⟨r, hkind, hst, heq⟩ : ∃ r : Record, r.kind = 3 ∧ r.status = st.code
      ∧ d.postFail st addr opc tag = (d.failureCounted st addr opc tag).reported r := ⟨_, rfl, rfl, d.postFail_eq st addr opc tag⟩
  obtain ⟨hregs, hheld, hstream⟩ := (d.failureCounted st addr opc tag).reported_frame r
  have hget := Dev.get_congr hregs
  have hshared : (d.failureCounted st addr opc tag).shared = d.shared := by rw [Dev.shared, hhcp, Dev.shared]
  rw [heq, Dev.on, hget, hget, hget, hheld, hstream, hhcp]
  refine ⟨hstatus, hvalid, hcount, rfl, rfl, fun hroom => ⟨r, ?_, hkind, hst⟩⟩
  rw [Dev.reported_joins _ _ (by rwa [hshared]), hhcp]

end

/-- The posted command `c` stands at the front of the input stream, ready to run, and no write or FLUSH comes right behind it. -/
structure Dev.FrontsPosted (d : Dev) (c : HostCmd) (rest : List HostItem) : Prop where
  stream : d.hcp.stream = .cmd c :: rest
  post : c.post = true
  held : d.tagHeld c.tag = true
  ledger : d.hcp.ledgerReq = none
  core : d.coreOn = true
  behind : ∀ i, rest.head? = some i → ∃ b, i = .cmd b

/-- The device once a posted command has left the stream and freed its tag. -/
def Dev.leftPosted (d : Dev) (tag : Nat) (rest : List HostItem) : Dev := (d.setHcp fun h => { h with stream := rest }).freeTag tag

/-- The device once a posted NOP is done: one that its packet gives a time fails with EARG (R219). -/
def Dev.nopPosted (d : Dev) (c : HostCmd) (rest : List HostItem) : Dev :=
  if c.due = 0 then d.leftPosted c.tag rest else (d.leftPosted c.tag rest).postFail .earg none 0 c.tag

section
variable {d : Dev} {c : HostCmd} {rest : List HostItem}

theorem Dev.cmdCheck_nop (hopc : c.opc = 0) (himm : c.imm = false) : d.cmdCheck c = if c.due = 0 then .ok else .earg := by
  simp [Dev.cmdCheck, Dev.cmdFeature, HostCmd.timeOk, HostCmd.argsOk, isTimed, cmdLen, hopc, himm]

/-- A posted command leaves the stream and frees its tag, and a failure is reported. -/
theorem Dev.done_posted (h : d.FrontsPosted c rest) (st : Status) : d.done c st =
    if st.isError then (d.leftPosted c.tag rest).postFail st none c.opc c.tag else d.leftPosted c.tag rest := by
  have hheld : (d.setHcp fun h => { h with stream := rest }).tagHeld c.tag = true := h.held
  have hleft : (d.setHcp fun h => { h with stream := h.stream.drop 1 }) = d.setHcp fun h => { h with stream := rest } := by
    simp [Dev.setHcp, h.stream]
  rw [Dev.done, hleft, Dev.complete, hheld, h.post]
  rfl

theorem Dev.cmdNop_front (h : d.FrontsPosted c rest) (hopc : c.opc = 0) : d.cmdNop c.tag = d.done c (d.cmdCheck c) := by
  have hfront : d.front c.opc c.tag = some c := by simp [Dev.front, h.stream, h.ledger, h.core]
  have hplain : d.cmdNop c.tag = d.cmdPlain c.opc c.tag fun _ d => (.ok, d) := by
    rw [Dev.cmdNop, h.stream]
    exact if_pos (.inl hopc)
  rw [hplain, Dev.cmdPlain, hfront]
  show (if d.cmdCheck c = .ok then d.done c .ok else d.done c (d.cmdCheck c)) = _
  split
  · next hok => rw [hok]
  · rfl

theorem Dev.cmdNop_posted (h : d.FrontsPosted c rest) (hopc : c.opc = 0) (himm : c.imm = false) :
    d.cmdNop c.tag = d.nopPosted c rest := by
  rw [Dev.cmdNop_front h hopc, Dev.done_posted h, Dev.cmdCheck_nop hopc himm, hopc, Dev.nopPosted]
  by_cases hdue : c.due = 0 <;> simp [hdue, Status.isError, Status.code]

theorem Dev.nopPosted_stream : (d.nopPosted c rest).hcp.stream = rest := by
  unfold Dev.nopPosted
  split
  · rfl
  · obtain ⟨-, -, -, -, hstream, -⟩ := (d.leftPosted c.tag rest).postFail_shows .earg none 0 c.tag
    exact hstream

theorem nop_posted {s : State} {tag : Fin 16} (h : s.dev.FrontsPosted c rest) (hopc : c.opc = 0) (htag : c.tag = tag.val)
    (himm : c.imm = false) : exec (.nop tag) s = .next { s with dev := s.dev.nopPosted c rest } := by
  rw [exec_nop, State.effect, ← htag, Dev.cmdNop_posted h hopc himm, Dev.drain_of_cmd _ (by rw [Dev.nopPosted_stream]; exact h.behind)]

end

/-! ### O33 -/

/-- Settles O33: FLUSH by whether the stream takes it at once, a posted NOP by its success and its failure. -/
theorem hostFlushAndPosted : Obligations.HostFlushAndPosted := by
  unfold Obligations.HostFlushAndPosted
  refine ⟨fun s src htake => ⟨flush_taken htake, fun c rest hpath hstream => flush_waits htake hpath hstream⟩, ?_⟩
  intro s tag c rest d hfront hpost himm p freed
  obtain ⟨-, hopc, htag, -, hheld, hledger, hcore, hrest⟩ := hfront
  have hposted : p.dev.FrontsPosted c rest := ⟨rfl, hpost, (congrArg d.tagHeld htag).trans hheld, hledger, hcore, hrest⟩
  have hnop := nop_posted hposted hopc htag himm
  refine ⟨fun hdue => ?_, fun hdue => ⟨_, hnop, rfl, ?_⟩⟩
  · rw [hnop, Dev.nopPosted, if_pos hdue, htag]
    rfl
  · rw [Dev.nopPosted, if_neg hdue, htag]
    exact (p.dev.leftPosted tag rest).postFail_shows .earg none 0 tag

end Sys2Proof.Machine
end
